-- ==== Sys2Proof/Word.lean ====
section
/-! DEFINITION. The plain word types of the IK7200: bytes, 32- and 64-bit words, vector registers and latch sets. -/

namespace Sys2Proof

/-- A byte of memory (R4). -/
abbrev Byte := BitVec 8
/-- A 32-bit lane or header word (R8, R116). -/
abbrev W32 := BitVec 32
/-- A 64-bit scalar, pointer, predicate or slot word (R99, R120). -/
abbrev Word := BitVec 64
/-- A 2,048-bit vector register (R99); also one row of an accumulator tile. -/
abbrev Vec := BitVec 2048
/-- The 64 scale bytes of an edge scale latch set (R293). -/
abbrev Latch := BitVec 512
/-- An accumulator tile: 64 rows of 64 binary32 elements (R99). -/
abbrev Tile := Vector Vec 64

end Sys2Proof
end

