-- ==== Sys2Proof/Machine/Bits.lean ====
section
/-! DEFINITION. Bit and byte helpers: little-endian byte strings (R4), fields, sign extension, lanes and elements of vector
registers (R8, R171). -/

namespace Sys2Proof.Bits

/-- The number a byte string holds, first byte least significant (R4). -/
def leNat : List Byte → Nat
  | [] => 0
  | b :: bs => b.toNat + 256 * leNat bs

/-- The `n` bytes of a number, least significant first (R4). -/
def natLe : Nat → Nat → List Byte
  | 0, _ => []
  | n + 1, x => BitVec.ofNat 8 x :: natLe n (x / 256)

/-- The 8 bytes of a word. -/
def wordLe (w : Word) : List Byte := natLe 8 w.toNat

/-- A word from a byte string. -/
def leWord (bs : List Byte) : Word := BitVec.ofNat 64 (leNat bs)

/-- Field [lo+len-1:lo] of a bit vector, as a number. -/
def fld {w : Nat} (x : BitVec w) (lo len : Nat) : Nat := (x.toNat >>> lo) % 2 ^ len

/-- Field [lo+len-1:lo] of a number. -/
def nfld (x lo len : Nat) : Nat := (x >>> lo) % 2 ^ len

/-- Field [lo+len-1:lo] of `x` replaced by the low bits of `v`. -/
def setFld (x : Word) (lo len v : Nat) : Word :=
  let m : Nat := (2 ^ len - 1) <<< lo
  BitVec.ofNat 64 (x.toNat - (x.toNat &&& m) + ((v % 2 ^ len) <<< lo))

/-- The low `n` bits of `x` read as two's complement. -/
def sInt (n x : Nat) : Int :=
  let y := x % 2 ^ n
  if 2 ^ (n - 1) ≤ y && n != 0 then (y : Int) - 2 ^ n else y

/-- A 64-bit word from an exact integer, modulo 2^64. -/
def ofInt (i : Int) : Word := BitVec.ofInt 64 i

/-- Address arithmetic modulo 2^64. -/
def addI (a : Word) (i : Int) : Word := a + BitVec.ofInt 64 i

/-- Lane(v, i) (R8). -/
def lane (v : Vec) (i : Nat) : W32 := v.extractLsb' (32 * i) 32

/-- Element `e` of width `w` of a register (R171). -/
def elem (v : Vec) (w e : Nat) : Nat := (v.toNat >>> (w * e)) % 2 ^ w

/-- The register whose element `e` of width `w` is `f e`, for all 2048 / w elements. -/
def ofElems (w : Nat) (f : Nat → Nat) : Vec :=
  BitVec.ofNat 2048 ((List.range (2048 / w)).foldr (fun e acc => acc * 2 ^ w + f e % 2 ^ w) 0)

/-- The register whose lane `i` is `f i`. -/
def ofLanes (f : Nat → Nat) : Vec := ofElems 32 f

/-- The bit mask of the lanes that a 64-bit lane mask names. -/
def laneMask (m : Word) : Vec := ofLanes fun i => if m.getLsbD i then 0xFFFFFFFF else 0

/-- `new` in the bits of `mask`, `old` elsewhere. -/
def merge (mask new old : Vec) : Vec := (new &&& mask) ||| (old &&& ~~~mask)

/-- The register with bits [lo+len-1:lo] replaced. -/
def setBits (v : Vec) (lo len x : Nat) : Vec :=
  let m : Nat := (2 ^ len - 1) <<< lo
  BitVec.ofNat 2048 (v.toNat - (v.toNat &&& m) + ((x % 2 ^ len) <<< lo))

/-- All ones or all zeros, as a compare writes a predicate (R153). -/
def allOnes (b : Bool) : Word := if b then BitVec.allOnes 64 else 0

/-- Set bits of the low `n` bits. -/
def popCount (n x : Nat) : Nat := (List.range n).foldl (fun c i => if x.testBit i then c + 1 else c) 0

/-- The index of the lowest set bit below `n`, or `n`. -/
def lowBit (n x : Nat) : Nat := ((List.range n).find? fun i => x.testBit i).getD n

/-- Leading zeros of an `n`-bit pattern. -/
def leadZeros (n x : Nat) : Nat := ((List.range n).find? fun i => x.testBit (n - 1 - i)).getD n

/-- ceil(a / b) for b > 0. -/
def ceilDiv (a b : Nat) : Nat := (a + b - 1) / b

end Sys2Proof.Bits
end

