-- ==== Sys2Proof/Machine/Gcm.lean ====
section
/-! DEFINITION. AES-256-GCM, with which frames are sealed (R403), as FIPS 197 and NIST SP 800-38D define it: the manual names the
algorithm only. (PRESUMED, log 136) -/

namespace Sys2Proof.Gcm

/-! ### AES-256 -/

/-- A byte times x in GF(2^8). -/
def xtime (b : Nat) : Nat := if 128 ≤ b then (2 * b) ^^^ 0x11B else 2 * b

/-- The product of two bytes in GF(2^8). -/
def gmul (a b : Nat) : Nat :=
  ((List.range 8).foldl (fun (acc : Nat × Nat) i => (if b.testBit i then acc.1 ^^^ acc.2 else acc.1, xtime acc.2)) (0, a)).1

/-- A byte's inverse in GF(2^8), 0 for 0: its 254th power. -/
def ginv (a : Nat) : Nat := (List.range 253).foldl (fun p _ => gmul p a) a

/-- A byte rotated left. -/
def rotl (b n : Nat) : Nat := (b <<< n ||| b >>> (8 - n)) % 256

/-- SubBytes of one byte. -/
def sbox (b : Nat) : Nat :=
  let x := ginv b
  x ^^^ rotl x 1 ^^^ rotl x 2 ^^^ rotl x 3 ^^^ rotl x 4 ^^^ 0x63

/-- SubBytes as a table. -/
def sboxTable : List Nat := (List.range 256).map sbox

/-- Bytes added in GF(2^8). -/
def xors (a b : List Nat) : List Nat := List.zipWith (fun x y => x ^^^ y) a b

/-- The 60 words of the expanded key, the latest first; `n` of them are still to be made, and `rcon` is the next round constant. -/
def expandGo (sb : Nat → Nat) : Nat → Nat → List (List Nat) → List (List Nat)
  | 0, _, ws => ws
  | n + 1, rcon, ws =>
    let i := ws.length
    let t := ws.headD []
    let t := if i % 8 = 0 then xors (((t.drop 1) ++ t.take 1).map sb) [rcon, 0, 0, 0] else if i % 8 = 4 then t.map sb else t
    expandGo sb n (if i % 8 = 0 then xtime rcon else rcon) (xors (ws.getD 7 []) t :: ws)

/-- Bytes cut into pieces of `n`, at most `fuel`. -/
def chunks (n : Nat) : Nat → List Nat → List (List Nat)
  | 0, _ => []
  | fuel + 1, bs => if bs = [] then [] else bs.take n :: chunks n fuel (bs.drop n)

/-- The 15 round keys of a key of 32 bytes. -/
def roundKeys (sb : Nat → Nat) (key : List Nat) : List (List Nat) :=
  let ws := (expandGo sb 52 1 (chunks 4 8 key).reverse).reverse
  (List.range 15).map fun r => (List.range 4).flatMap fun i => ws.getD (4 * r + i) []

/-- ShiftRows on the 16 bytes of a state, column by column. -/
def shiftRows (b : List Nat) : List Nat := (List.range 16).map fun i => b.getD ((i + 4 * (i % 4)) % 16) 0

/-- MixColumns. -/
def mixColumns (b : List Nat) : List Nat :=
  (List.range 16).map fun i =>
    let at' (k : Nat) : Nat := b.getD (i / 4 * 4 + (i + k) % 4) 0
    gmul (at' 0) 2 ^^^ gmul (at' 1) 3 ^^^ at' 2 ^^^ at' 3

/-- A block of 16 bytes enciphered under round keys. -/
def block (sb : Nat → Nat) (ks : List (List Nat)) (b : List Nat) : List Nat :=
  let b := (List.range 13).foldl (fun b r => xors (mixColumns (shiftRows (b.map sb))) (ks.getD (r + 1) [])) (xors b (ks.getD 0 []))
  xors (shiftRows (b.map sb)) (ks.getD 14 [])

/-! ### GCM -/

/-- Bytes as a number, the first the most significant. -/
def num (bs : List Nat) : Nat := bs.foldl (fun a b => a * 256 + b) 0

/-- The `n` bytes of a number, the most significant first. -/
def bytesOf (n v : Nat) : List Nat := (List.range n).map fun i => v / 256 ^ (n - 1 - i) % 256

/-- The product in GF(2^128), bit 127 the coefficient of x^0. -/
def mul128 (x y : Nat) : Nat :=
  ((List.range 128).foldl (fun (acc : Nat × Nat) i =>
    (if x.testBit (127 - i) then acc.1 ^^^ acc.2 else acc.1, if acc.2 % 2 = 1 then (acc.2 / 2) ^^^ (0xE1 * 2 ^ 120) else acc.2 / 2))
    (0, y)).1

/-- GHASH over bytes, whose last block is filled with zeros, from a value on. -/
def ghash (h acc : Nat) (bs : List Nat) : Nat :=
  (chunks 16 (bs.length / 16 + 1) bs).foldl (fun a c => mul128 (a ^^^ num (c ++ List.replicate (16 - c.length) 0)) h) acc

/-- Bytes under the key stream that begins at counter block `ctr`. -/
def stream (sb : Nat → Nat) (ks : List (List Nat)) (iv : List Nat) (bs : List Nat) : List Nat :=
  ((chunks 16 (bs.length / 16 + 1) bs).zipIdx).flatMap fun c => xors c.1 (block sb ks (iv ++ bytesOf 4 (c.2 + 2)))

/-- The tag over additional data and ciphertext. -/
def tag (sb : Nat → Nat) (ks : List (List Nat)) (iv aad ct : List Nat) : Nat :=
  let h := num (block sb ks (List.replicate 16 0))
  let g := ghash h (ghash h 0 aad) ct
  mul128 (g ^^^ (aad.length * 8 * 2 ^ 64 + ct.length * 8)) h ^^^ num (block sb ks (iv ++ [0, 0, 0, 1]))

/-- The bytes of a key or of an IV, bit 255 or 95 first. -/
def keyBytes {w : Nat} (n : Nat) (v : BitVec w) : List Nat := bytesOf n v.toNat

/-- Bytes enciphered, or deciphered, under a key and a nonce. (PRESUMED, log 136) -/
def crypt (key : BitVec 256) (nonce : BitVec 96) (bs : List Byte) : List Byte :=
  let t := sboxTable
  let sb (b : Nat) : Nat := t.getD b 0
  (stream sb (roundKeys sb (keyBytes 32 key)) (keyBytes 12 nonce) (bs.map BitVec.toNat)).map (BitVec.ofNat 8)

/-- The tag of additional data and ciphertext under a key and a nonce. (PRESUMED, log 136) -/
def tagOf (key : BitVec 256) (nonce : BitVec 96) (aad ct : List Byte) : BitVec 128 :=
  let t := sboxTable
  let sb (b : Nat) : Nat := t.getD b 0
  BitVec.ofNat 128 (tag sb (roundKeys sb (keyBytes 32 key)) (keyBytes 12 nonce) (aad.map BitVec.toNat) (ct.map BitVec.toNat))

end Sys2Proof.Gcm
end

