-- ==== Sys2Proof/Machine/Fp.lean ====
section
/-! DEFINITION. Number formats and arithmetic (R34 to R56): exact values, decoding, the one rounding function, arithmetic on
exact values, the stochastic generator, the seeds, and the accumulation of R52. -/

namespace Sys2Proof.Fp

/-- The special patterns of a format (R34). -/
inductive Specials where
  /-- infinities and NaNs of IEEE 754 -/
  | ieee
  /-- E4M3: S.1111.111 is NaN, no infinity -/
  | e4m3
  /-- neither -/
  | none
  deriving DecidableEq, Repr

/-- A floating-point format (R34). -/
structure Fmt where
  exp : Nat
  frac : Nat
  bias : Int
  special : Specials
  deriving DecidableEq, Repr

/-- binary32. -/
def f32 : Fmt := ⟨8, 23, 127, .ieee⟩
/-- binary16. -/
def f16 : Fmt := ⟨5, 10, 15, .ieee⟩
/-- bfloat16. -/
def bf16 : Fmt := ⟨8, 7, 127, .ieee⟩
/-- E4M3. -/
def e4m3 : Fmt := ⟨4, 3, 7, .e4m3⟩
/-- E5M2. -/
def e5m2 : Fmt := ⟨5, 2, 15, .ieee⟩
/-- E3M2. -/
def e3m2 : Fmt := ⟨3, 2, 3, .none⟩
/-- E2M3. -/
def e2m3 : Fmt := ⟨2, 3, 1, .none⟩
/-- E2M1. -/
def e2m1 : Fmt := ⟨2, 1, 1, .none⟩
/-- binary64, for geometry operands only (R34). -/
def f64 : Fmt := ⟨11, 52, 1023, .ieee⟩

/-- The format that a type code names (R129). -/
def ofCode (code : Nat) : Fmt :=
  match code with
  | 9 => f32 | 10 => f16 | 11 => bf16 | 12 => e4m3 | 13 => e5m2 | 14 => e3m2 | 15 => e2m3 | _ => e2m1

/-- An exact value: NaN (signalling or not), infinity, or (-1)^neg · m · 2^e. -/
inductive FVal where
  | nan (sig : Bool)
  | inf (neg : Bool)
  | fin (neg : Bool) (m : Nat) (e : Int)
  deriving DecidableEq, Repr

/-- The five exception flags, in the order of FPST: invalid 0, divide by zero 1, overflow 2, underflow 3, inexact 4 (R45). -/
abbrev Flags := BitVec 5

/-- Invalid. -/
def iv : Flags := 1
/-- Divide by zero. -/
def dz : Flags := 2
/-- Overflow. -/
def ovf : Flags := 4
/-- Underflow. -/
def unf : Flags := 8
/-- Inexact. -/
def nx : Flags := 16

/-- A flag raised when `b` holds. -/
def flagIf (b : Bool) (f : Flags) : Flags := if b then f else 0

/-- The bits of a format. -/
def Fmt.width (t : Fmt) : Nat := 1 + t.exp + t.frac

/-- Exponent of the format's smallest subnormal (R34). -/
def Fmt.qmin (t : Fmt) : Int := 1 - t.bias - t.frac

/-- The maximum finite magnitude M as mantissa and exponent (R34). -/
def Fmt.maxFin (t : Fmt) : Nat × Int :=
  match t.special with
  | .ieee => (2 ^ (t.frac + 1) - 1, ((2 ^ t.exp - 2 : Nat) : Int) - t.bias - t.frac)
  | .e4m3 => (2 ^ (t.frac + 1) - 2, ((2 ^ t.exp - 1 : Nat) : Int) - t.bias - t.frac)
  | .none => (2 ^ (t.frac + 1) - 1, ((2 ^ t.exp - 1 : Nat) : Int) - t.bias - t.frac)

/-- A sign bit above a magnitude pattern. -/
def Fmt.signed (t : Fmt) (neg : Bool) (mag : Nat) : Nat := (if neg then 2 ^ (t.exp + t.frac) else 0) + mag

/-- The magnitude pattern of M. -/
def Fmt.maxPat (t : Fmt) : Nat :=
  match t.special with
  | .ieee => (2 ^ t.exp - 1) * 2 ^ t.frac - 1
  | .e4m3 => 2 ^ (t.exp + t.frac) - 2
  | .none => 2 ^ (t.exp + t.frac) - 1

/-- The magnitude pattern of infinity, in formats that have one. -/
def Fmt.infPat (t : Fmt) : Nat := (2 ^ t.exp - 1) * 2 ^ t.frac

/-- The canonical NaN (R44). -/
def Fmt.canonNaN (t : Fmt) : Nat :=
  match t.special with
  | .ieee => t.infPat + 2 ^ (t.frac - 1)
  | .e4m3 => 2 ^ (t.exp + t.frac) - 1
  | .none => 0

/-- The value of a pattern (R34, R44). -/
def decode (t : Fmt) (x : Nat) : FVal :=
  let f := x % 2 ^ t.frac
  let e := x / 2 ^ t.frac % 2 ^ t.exp
  let neg := x.testBit (t.exp + t.frac)
  if t.special = .ieee && e = 2 ^ t.exp - 1 then
    if f = 0 then .inf neg else .nan (!f.testBit (t.frac - 1))
  else if t.special = .e4m3 && e = 2 ^ t.exp - 1 && f = 2 ^ t.frac - 1 then .nan false
  else if e = 0 then .fin neg f t.qmin
  else .fin neg (f + 2 ^ t.frac) ((e : Int) - t.bias - t.frac)

/-- The rounding modes (R40, R129). -/
inductive Mode where
  | rne | rz | rup | rdn | rsto
  deriving DecidableEq, Repr

/-- The mode a rounding code names (R129). -/
def Mode.ofCode (rm : BitVec 3) : Mode :=
  match rm.toNat with
  | 0 => .rne | 1 => .rz | 2 => .rup | 3 => .rdn | _ => .rsto

/-- A magnitude m · 2^e rounded to a multiple of 2^q, in units of 2^q, and whether that was inexact (R40, R42). -/
def roundUnit (md : Mode) (neg : Bool) (rnd m : Nat) (e q : Int) : Nat × Bool :=
  if q ≤ e then (m * 2 ^ (e - q).toNat, false)
  else
    let sh := (q - e).toNat
    let lo := m >>> sh
    let rem := m % 2 ^ sh
    let up := match md with
      | .rne => 2 ^ sh < 2 * rem || (2 * rem = 2 ^ sh && lo % 2 = 1)
      | .rz => false
      | .rup => rem != 0 && !neg
      | .rdn => rem != 0 && neg
      | .rsto => rem != 0 && 2 ^ 16 ≤ rem * 2 ^ 16 / 2 ^ sh + rnd
    (if up then lo + 1 else lo, rem != 0)

/-- Exponent of the leading bit of m · 2^e, m nonzero. -/
def topExp (m : Nat) (e : Int) : Int := (m.log2 : Int) + e

/-- A mode that rounds this sign toward zero (R47). -/
def Mode.towardZero (md : Mode) (neg : Bool) : Bool :=
  match md with
  | .rz => true
  | .rup => neg
  | .rdn => !neg
  | .rne | .rsto => false

/-- m · 2^e against m' · 2^e'. -/
def cmpMag (m : Nat) (e : Int) (m' : Nat) (e' : Int) : Ordering :=
  let b := min e e'
  compare (m * 2 ^ (e - b).toNat) (m' * 2 ^ (e' - b).toNat)

/-- The pattern and flags of an overflow (R47). -/
def overflow (t : Fmt) (neg sat : Bool) : Nat × Flags :=
  match t.special with
  | .ieee => (t.signed neg (if sat then t.maxPat else t.infPat), ovf ||| nx)
  | .e4m3 => (t.signed neg (if sat then t.maxPat else t.canonNaN), ovf ||| nx)
  | .none => (t.signed neg t.maxPat, ovf ||| nx ||| flagIf (!sat) iv)

/-- A finite nonzero magnitude rounded once to a format (R40, R42, R45, R47): pattern and flags. (DEDUCED, log 41) -/
def roundFin (t : Fmt) (md : Mode) (sat : Bool) (rnd : Nat) (neg : Bool) (m : Nat) (e : Int) : Nat × Flags :=
  let top := topExp m e
  let q := max (top - t.frac) t.qmin
  let (r, inexact) := roundUnit md neg rnd m e q
  let (mx, ex) := t.maxFin
  if cmpMag r q mx ex = .gt then
    if md.towardZero neg then (t.signed neg t.maxPat, nx) else overflow t neg sat
  else
    let (r', _) := roundUnit md neg rnd m e (top - t.frac)
    let tiny := cmpMag r' (top - t.frac) 1 (t.qmin + t.frac) = .lt
    let pat := if r < 2 ^ t.frac then r else ((q - t.qmin).toNat + 1) * 2 ^ t.frac + (r - 2 ^ t.frac)
    (t.signed neg pat, flagIf (tiny && inexact) unf ||| flagIf inexact nx)

/-- Any value rounded or converted to a format: pattern and flags (R44, R47, R48). -/
def round (t : Fmt) (md : Mode) (sat : Bool) (rnd : Nat) (v : FVal) : Nat × Flags :=
  match v with
  | .nan sig =>
    match t.special with
    | .none => (0, iv)
    | _ => (t.canonNaN, flagIf sig iv)
  | .inf neg =>
    match t.special with
    | .ieee => (t.signed neg t.infPat, 0)
    | .e4m3 => if sat then (t.signed neg t.maxPat, 0) else (t.signed neg t.canonNaN, iv)
    | .none => (t.signed neg t.maxPat, iv)
  | .fin neg 0 _ => (t.signed neg 0, 0)
  | .fin neg m e => roundFin t md sat rnd neg m e

/-- The magnitude rounded with no limit on the exponent exceeds the format's largest finite one (R45). -/
def pastMax (t : Fmt) (md : Mode) (neg : Bool) (m : Nat) (e : Int) : Bool :=
  let q := max (topExp m e - t.frac) t.qmin
  cmpMag (roundUnit md neg 0 m e q).1 q t.maxFin.1 t.maxFin.2 == .gt

/-- The result of an arithmetic operation: rounded once, and the overflow flag whenever the rounded result would exceed the largest
finite magnitude, in the directions that round toward zero too, where the result is that magnitude (R45, R155). -/
def arith (t : Fmt) (md : Mode) (v : FVal) : Nat × Flags :=
  let (p, fl) := round t md false 0 v
  match v with
  | .fin neg m e => (p, fl ||| flagIf (m != 0 && pastMax t md neg m e) ovf)
  | .nan _ | .inf _ => (p, fl)

/-- A value rounded to the integers, and whether that was inexact (R49). -/
def roundInt (md : Mode) (rnd : Nat) (neg : Bool) (m : Nat) (e : Int) : Int × Bool :=
  let (r, inexact) := roundUnit md neg rnd m e 0
  (if neg then -(r : Int) else r, inexact)

/-- The least and greatest values of an integer format of `w` bits (R36). -/
def intRange (signed : Bool) (w : Nat) : Int × Int :=
  if signed then (-(2 ^ (w - 1) : Nat), ((2 ^ (w - 1) : Nat) : Int) - 1) else (0, ((2 ^ w : Nat) : Int) - 1)

/-- Conversion to an integer format (R48, R49): value and flags. -/
def toInt (signed : Bool) (w : Nat) (md : Mode) (rnd : Nat) (v : FVal) : Int × Flags :=
  let (lo, hi) := intRange signed w
  match v with
  | .nan _ => (0, iv)
  | .inf neg => (if neg then lo else hi, iv)
  | .fin neg m e =>
    let (i, inexact) := roundInt md rnd neg m e
    if i < lo then (lo, iv) else if hi < i then (hi, iv) else (i, flagIf inexact nx)

/-- An integer as an exact value. -/
def ofInt (i : Int) : FVal := .fin (decide (i < 0)) i.natAbs 0

/-! ### Arithmetic on exact values -/

/-- A NaN operand. -/
def FVal.isNaN : FVal → Bool
  | .nan _ => true
  | _ => false

/-- Consuming this operand sets the invalid flag (R44). -/
def FVal.isSig : FVal → Bool
  | .nan sig => sig
  | _ => false

/-- The sign of a value. -/
def FVal.sign : FVal → Bool
  | .nan _ => false
  | .inf neg => neg
  | .fin neg _ _ => neg

/-- The value with its sign inverted. -/
def FVal.neg : FVal → FVal
  | .nan sig => .nan sig
  | .inf n => .inf (!n)
  | .fin n m e => .fin (!n) m e

/-- A zero of either sign. -/
def FVal.isZero : FVal → Bool
  | .fin _ 0 _ => true
  | _ => false

/-- Signed mantissa. -/
def sgn (neg : Bool) (m : Nat) : Int := if neg then -(m : Int) else m

/-- A sum, with the flags that NaN operands and invalid operations set (R41, R44). -/
def add (md : Mode) (a b : FVal) : FVal × Flags :=
  match a, b with
  | .nan s, y => (.nan false, flagIf (s || y.isSig) iv)
  | x, .nan s => (.nan false, flagIf (s || x.isSig) iv)
  | .inf n, .inf n' => if n = n' then (.inf n, 0) else (.nan false, iv)
  | .inf n, .fin _ _ _ => (.inf n, 0)
  | .fin _ _ _, .inf n => (.inf n, 0)
  | .fin n m e, .fin n' m' e' =>
    let b := min e e'
    let i := sgn n (m * 2 ^ (e - b).toNat) + sgn n' (m' * 2 ^ (e' - b).toNat)
    if i = 0 then (.fin (if n = n' then n else md = .rdn) 0 b, 0) else (.fin (decide (i < 0)) i.natAbs b, 0)

/-- A product (R44). -/
def mul (a b : FVal) : FVal × Flags :=
  match a, b with
  | .nan s, y => (.nan false, flagIf (s || y.isSig) iv)
  | x, .nan s => (.nan false, flagIf (s || x.isSig) iv)
  | .inf n, y => if y.isZero then (.nan false, iv) else (.inf (n != y.sign), 0)
  | x, .inf n => if x.isZero then (.nan false, iv) else (.inf (n != x.sign), 0)
  | .fin n m e, .fin n' m' e' => (.fin (n != n') (m * m') (e + e'), 0)

/-- a · b + c, not yet rounded (R40, R44). -/
def fma (md : Mode) (a b c : FVal) : FVal × Flags :=
  let (p, fl) := mul a b
  let (r, fl') := add md p c
  (r, fl ||| fl' ||| flagIf c.isSig iv)

/-- A quotient to more bits than any format holds, the last one sticky. -/
def quot (m m' : Nat) (e e' : Int) (neg : Bool) : FVal :=
  let n := m * 2 ^ (64 + m'.log2)
  let q := n / m'
  .fin neg (2 * q + (if n % m' = 0 then 0 else 1)) (e - e' - (64 + m'.log2 : Nat) - 1)

/-- A quotient (R155): a nonzero finite number divided by zero is an infinity and sets divide by zero; 0/0 and ∞/∞ are
invalid. -/
def div (a b : FVal) : FVal × Flags :=
  match a, b with
  | .nan s, y => (.nan false, flagIf (s || y.isSig) iv)
  | x, .nan s => (.nan false, flagIf (s || x.isSig) iv)
  | .inf _, .inf _ => (.nan false, iv)
  | .inf n, .fin n' _ _ => (.inf (n != n'), 0)
  | .fin n _ _, .inf n' => (.fin (n != n') 0 0, 0)
  | .fin n m e, .fin n' m' e' =>
    if m' = 0 then (if m = 0 then (.nan false, iv) else (.inf (n != n'), dz))
    else if m = 0 then (.fin (n != n') 0 0, 0)
    else (quot m m' e e' (n != n'), 0)

/-- One step of the digit-by-digit square root: bit `k` of the root, tried. -/
def isqrtGo (n : Nat) : Nat → Nat → Nat
  | 0, r => r
  | k + 1, r => let r' := r + 2 ^ k; isqrtGo n k (if r' * r' ≤ n then r' else r)

/-- The integer square root. -/
def isqrt (n : Nat) : Nat := isqrtGo n (n.log2 / 2 + 1) 0

/-- A square root to more bits than any format holds, the last one sticky, of m · 2^e. -/
def rootOf (m : Nat) (e : Int) : FVal :=
  let odd := e % 2 = 1
  let n := (if odd then 2 * m else m) * 2 ^ 128
  let r := isqrt n
  .fin false (2 * r + (if r * r = n then 0 else 1)) ((if odd then e - 1 else e) / 2 - 65)

/-- A square root (R44). -/
def sqrt (a : FVal) : FVal × Flags :=
  match a with
  | .nan s => (.nan false, flagIf s iv)
  | .inf n => if n then (.nan false, iv) else (.inf false, 0)
  | .fin n m e => if m = 0 then (.fin n 0 e, 0) else if n then (.nan false, iv) else (rootOf m e, 0)

/-- The order of two values that are no NaN; zeros compare equal. -/
def cmp (a b : FVal) : Ordering :=
  match a, b with
  | .inf n, y => if y == .inf n then .eq else if n then .lt else .gt
  | x, .inf n => if x == .inf n then .eq else if n then .gt else .lt
  | .fin n m e, .fin n' m' e' =>
    let b := min e e'
    compare (sgn n (m * 2 ^ (e - b).toNat)) (sgn n' (m' * 2 ^ (e' - b).toNat))
  | _, _ => .eq

/-! ### The stochastic generator (R43) -/

/-- The generator advanced once. -/
def advance (s : Word) : Word :=
  let s := s ^^^ (s <<< 13)
  let s := s ^^^ (s >>> 7)
  s ^^^ (s <<< 17)

/-- Rnd(e): the 16-bit random value of element `e`. -/
def rnd (s : Word) (e : Nat) : Nat := (s.toNat * (2 * e + 1)) % 2 ^ 64 / 2 ^ 48

/-- What a write to a generator register stores: a zero stores the fixed constant (R43). -/
def seedWrite (v : Word) : Word := if v = 0 then 0x9E3779B97F4A7C15 else v

/-! ### Block codes (R37 to R39) -/

/-- The exact value of a .n4 code under a scale byte: NaN when EXP is 63 (R37, R38). -/
def n4 (scale : Nat) (code : Nat) : FVal :=
  let ex := scale % 64
  if ex = 63 then .nan false
  else
    let neg := code.testBit 3
    let c := code % 8
    let sc : Int := (ex : Int) - 31
    match scale / 64 % 4 with
    | 0 => let i := Bits.sInt 4 code; .fin (decide (i < 0)) i.natAbs sc
    | 1 => match decode e2m1 code with
      | .fin n m e => .fin n m (e + sc)
      | v => v
    | 2 => if c = 0 then .fin neg 0 sc else .fin neg 1 ((c : Int) - 4 + sc)
    | _ => .fin neg ([0, 1, 2, 3, 4, 6, 8, 12].getD c 0) sc

/-! ### Seeds (R50, R51) -/

/-- A nonzero magnitude rounded to `p` significant bits, ties to even (Round12 for p = 12). -/
def roundSig (p m : Nat) (e : Int) : Nat × Int :=
  let q := topExp m e - (p - 1 : Nat)
  ((roundUnit .rne false 0 m e q).1, q)

/-- A finite nonzero magnitude as E and T of R50. -/
def seedParts (m : Nat) (e : Int) : Int × Nat := (topExp m e, m * 2 ^ 7 / 2 ^ m.log2 - 2 ^ 7)

/-- The final RoundNE of a seed into binary32. -/
def seedOut (neg : Bool) (r : Nat × Int) (k : Int) : Nat × Flags := round f32 .rne false 0 (.fin neg r.1 (r.2 + k))

/-- VRCPS. -/
def rcps (x : FVal) : Nat × Flags :=
  match x with
  | .nan s => (f32.canonNaN, flagIf s iv)
  | .inf n => (f32.signed n 0, 0)
  | .fin n m e =>
    if m = 0 then (f32.signed n f32.infPat, dz)
    else
      let (E, T) := seedParts m e
      match quot 256 (257 + 2 * T) 0 0 false with
      | .fin _ q qe => seedOut n (roundSig 12 q qe) (-E)
      | _ => (0, 0)

/-- VRSQS. -/
def rsqs (x : FVal) : Nat × Flags :=
  match x with
  | .nan s => (f32.canonNaN, flagIf s iv)
  | .inf n => if n then (f32.canonNaN, iv) else (0, 0)
  | .fin n m e =>
    if m = 0 then (f32.signed n f32.infPat, dz)
    else if n then (f32.canonNaN, iv)
    else
      let (E, T) := seedParts m e
      let p := E % 2
      let den := (257 + 2 * T) * 2 ^ p.toNat
      let num := 256 * 2 ^ 128
      let r := isqrt (num / den)
      let exact := r * r * den = num
      seedOut false (roundSig 12 (2 * r + (if exact then 0 else 1)) (-65)) (-((E - p) / 2))

/-- The largest 13-bit number c with c^256 ≤ 2^(j + 12·256): floor of 2^(j/256 + 12). -/
def exp2Floor (j : Nat) : Nat → Nat → Nat
  | 0, r => r
  | k + 1, r => let r' := r + 2 ^ k; exp2Floor j k (if r' ^ 256 ≤ 2 ^ (j + 3072) then r' else r)

/-- VEXP2S. -/
def exp2s (x : FVal) : Nat × Flags :=
  match x with
  | .nan s => (f32.canonNaN, flagIf s iv)
  | .inf n => (if n then 0 else f32.infPat, 0)
  | .fin n m e =>
    let i := sgn n m
    let fl := if 0 ≤ e then i * 2 ^ e.toNat else i.fdiv (2 ^ (-e).toNat)
    let g7 := if 0 ≤ e then 0 else (i * 128).fdiv (2 ^ (-e).toNat) - fl * 128
    let c := exp2Floor (2 * g7.toNat + 1) 13 0
    -- the bound keeps the exact value far beyond the range of binary32 without a huge power
    seedOut false (roundSig 12 (2 * c + 1) (-13)) (max (-1000) (min fl 1000))

/-- VLOG2S. -/
def log2s (x : FVal) : Nat × Flags :=
  match x with
  | .nan s => (f32.canonNaN, flagIf s iv)
  | .inf n => if n then (f32.canonNaN, iv) else (f32.infPat, 0)
  | .fin n m e =>
    if m = 0 then (f32.signed true f32.infPat, dz)
    else if n then (f32.canonNaN, iv)
    else
      let (E, T) := seedParts m e
      let c := ((257 + 2 * T) ^ 8192).log2 - 65536
      let v : Int := E * 4096 + ((c + 1) / 2 : Nat)
      round f32 .rne false 0 (.fin (decide (v < 0)) v.natAbs (-12))

/-! ### Accumulation (R52 to R54) -/

/-- A block's products summed: the exact sum, or what its special products make of it. -/
inductive Block where
  | sum (i : Int) (e : Int)
  | inf (neg : Bool)
  | nan
  deriving DecidableEq, Repr

/-- One product added into a block. -/
def Block.add (b : Block) (p : FVal) : Block :=
  match b, p with
  | .nan, _ => .nan
  | _, .nan _ => .nan
  | .inf n, .inf n' => if n = n' then .inf n else .nan
  | .inf n, .fin _ _ _ => .inf n
  | .sum _ _, .inf n => .inf n
  | .sum i e, .fin n m e' =>
    let q := min e e'
    .sum (i * 2 ^ (e - q).toNat + sgn n (m * 2 ^ (e' - q).toNat)) q

/-- The block of 32 products, each operand with its block scale (R52). -/
def blockSum (ps : List (FVal × FVal)) : Block := ps.foldl (fun b p => b.add (mul p.1 p.2).1) (.sum 0 0)

/-- A block entered into an accumulator (R52, R54). -/
def accumulate (acc : Nat) (b : Block) : Nat :=
  match decode f32 acc, b with
  | .nan _, _ => f32.canonNaN
  | _, .nan => f32.canonNaN
  | .inf n, .inf n' => if n = n' then acc else f32.canonNaN
  | .inf _, .sum _ _ => acc
  | .fin _ _ _, .inf n => f32.signed n f32.infPat
  | .fin n m e, .sum i e' =>
    if i = 0 then acc
    else (round f32 .rne false 0 (add .rne (.fin n m e) (.fin (decide (i < 0)) i.natAbs e')).1).1

end Sys2Proof.Fp
end

