-- ==== Sys2Proof/Config.lean ====
section
/-! DEFINITION. What one device fixes and the values the manual leaves free. Every constant here has no body: nothing can
be proved about its value, so a statement that mentions one holds for every value. -/

namespace Sys2Proof.Config

/-- The free value numbered `n`: which of several permitted outcomes occurs where the manual leaves it open (R2, R77).
(DESIGN CHOICE, log 101) (DESIGN CHOICE, log 102) -/
opaque freeNat : Nat → Nat

/-- Which of the outcomes of R238 and R241 comes about for the byte at a key that a command reads as well as writes, or may write beyond
its failing byte: 0 as in loop order, or not written; 1 as before the command, or written; 2 as after the command. (DESIGN CHOICE, log 12)
(DESIGN CHOICE, log 104) -/
opaque commandByte : Nat → Nat → Nat

/-- The free bytes numbered `n`, for data the manual leaves undetermined (DESIGN CHOICE, log 13). -/
opaque freeByte : Nat → Byte

/-- The free choices by which the fields of a flit's header get their bits (R400): the manual gives no layout. (DESIGN CHOICE, log 92) -/
opaque headerPick : Nat → Nat

/-- The bits of a header that hold no field (R400). (DESIGN CHOICE, log 92) -/
opaque headerRest : Word

/-- The length of the message that begins with some bytes of a flit's payload, 0 where none does (R400): the manual gives no format.
(DESIGN CHOICE, log 92) -/
opaque messageSize : List Byte → Nat

/-- The buffer slots that an end has on a lane (R402). (DESIGN CHOICE, log 92) -/
opaque linkSlots : Nat → Nat

/-- Whether both signatures of a firmware image verify and its header is well formed (R443). (DESIGN CHOICE, log 97) -/
opaque imageVerifies : List Byte → Bool

/-- The security version number that a firmware image carries (R443). (DESIGN CHOICE, log 97) -/
opaque imageVersion : List Byte → BitVec 32

/-- The certificate-chain digests of GET_DIGESTS (R445). (DESIGN CHOICE, log 97) -/
opaque certDigests : List Byte

/-- The certificate chain of GET_CERTIFICATE (R445). (DESIGN CHOICE, log 97) -/
opaque certChain : List Byte

/-- The capability bytes that GET_CAPABILITIES returns (R445). (DESIGN CHOICE, log 97) -/
opaque capabilities : List Byte

/-- The ECDSA P-384 signature of a signed SPDM response (R445). (DESIGN CHOICE, log 97) -/
opaque ecdsaSign : List Byte → List Byte

/-- The LMS signature carried in a signed response's OpaqueData (R445). (DESIGN CHOICE, log 97) -/
opaque lmsSign : List Byte → List Byte

/-- The security processor's part of an image (R443 to R445). (DESIGN CHOICE, log 97) -/
opaque securityPart : List Byte → List Byte

/-- The steward's part of an image (R443 to R445). (DESIGN CHOICE, log 97) -/
opaque stewardPart : List Byte → List Byte

/-- The measurement of bytes that the device holds: of the ROM, of an image, of the fuses (R445). (DESIGN CHOICE, log 97) -/
opaque measure : List Byte → List Byte

/-- The contents of the ROM, of which measurement index 1 is taken (R445). (DESIGN CHOICE, log 97) -/
opaque rom : List Byte

/-- The errors above which the steward withholds a core's cluster (R449). (DESIGN CHOICE, log 100) -/
opaque errorThreshold : Nat

/-- The capacity in bytes of each stack's boot region copy (R444). (DEDUCED, log 85) -/
opaque bootBytes : Nat

end Sys2Proof.Config
end

