-- ==== Sys2Proof/Syntax.lean ====
section
/-! DEFINITION. The instructions of the IK7200: the body formats of a slot word (R124 to R128), the data that events of the
machine carry in from outside, and one constructor of `Instr` for every row of the opcode table. -/

namespace Sys2Proof

/-- The class by which a slot decodes its words (R119). -/
inductive Class where
  | s | v | m | q | c
  deriving DecidableEq, Repr

/-- A slot number: 0 S, 1 V0, 2 V1, 3 M, 4 Q, 5 C0, 6 C1 (R119). -/
abbrev Slot := Fin 7

/-- The class of each slot (R119). -/
def Class.ofSlot (k : Slot) : Class :=
  if k.val = 0 then .s else if k.val ≤ 2 then .v else if k.val = 3 then .m else if k.val = 4 then .q else .c

/-- The register form (R124) with the guard of R120. -/
structure RForm where
  pred : BitVec 5
  pneg : Bool
  d : BitVec 6
  a : BitVec 6
  b : BitVec 6
  c : BitVec 6
  dt : BitVec 5
  st : BitVec 5
  rm : BitVec 3
  sat : Bool
  sub : BitVec 10
  deriving DecidableEq, Repr

/-- The immediate form (R125). -/
structure IForm where
  pred : BitVec 5
  pneg : Bool
  d : BitVec 6
  a : BitVec 6
  dt : BitVec 4
  imm : BitVec 32
  deriving DecidableEq, Repr

/-- The memory form (R126). -/
structure MForm where
  pred : BitVec 5
  pneg : Bool
  d : BitVec 6
  base : BitVec 5
  idx : BitVec 6
  chk : Bool
  step : BitVec 8
  dt : BitVec 5
  disp : BitVec 17
  deriving DecidableEq, Repr

/-- The long form of the S class (R127). -/
structure LForm where
  pred : BitVec 5
  pneg : Bool
  d : BitVec 6
  imm : BitVec 42
  deriving DecidableEq, Repr

/-- The command form of the C class (R128). -/
structure CForm where
  pred : BitVec 5
  pneg : Bool
  delay : BitVec 8
  desc : BitVec 5
  tc : BitVec 4
  steps : BitVec 8
  stepd : BitVec 8
  aux : BitVec 6
  sub : BitVec 9
  deriving DecidableEq, Repr

/-- An operation that stands in the register or in the immediate form. -/
inductive RI where
  | r (f : RForm)
  | i (f : IForm)
  deriving DecidableEq, Repr

/-- A page of one device-virtual address space at the MTUs of one package (R204): the page number counts 4 KiB pages. -/
structure PageRef where
  pkg : Nat
  asn : Byte
  page : Nat
  deriving DecidableEq, Repr

/-- One end of a Trailway link: a domain die number and the direction 0 +X, 1 -X, 2 +Y, 3 -Y, 4 +Z, 5 -Z (R27). -/
structure LinkRef where
  die : BitVec 8
  dir : BitVec 3
  deriving DecidableEq, Repr

/-- What the security processor and steward 0 find at reset (R29, R403, R434, R444). -/
structure BootInput where
  imageA : List Byte
  imageB : List Byte
  /-- package counts of the domain, each 1, 2 or 4 (R29) -/
  dims : Nat × Nat × Nat
  /-- this package's coordinates (R26) -/
  coords : Nat × Nat × Nat
  /-- external link ends on which encryption is enabled, with the first key of each (R403) -/
  encrypted : List (LinkRef × BitVec 256)
  /-- link ends that trained on fewer than eight ports, with the count (R28) -/
  ports : List (LinkRef × Nat)
  deriving DecidableEq, Repr

/-- The register files of R69; `cr` is the control registers, by number (R334). -/
inductive RegFile where
  | s | a | p | v | lc | z | ts | sl | bd | k | tc | cr
  deriving DecidableEq, Repr

/-- One register: its file and its number. -/
structure Reg where
  file : RegFile
  num : Nat
  deriving DecidableEq, Repr

/-- A place that a soft error strikes (R446). -/
inductive Upset where
  /-- a byte of memory, by its key -/
  | mem (key : Nat)
  /-- an 8-byte word of a register of a context -/
  | reg (uid : Nat) (r : Reg) (word : Nat)
  /-- an 8-byte word of an entry of a context's replay buffer -/
  | replay (uid entry word : Nat)
  deriving DecidableEq, Repr

/-- Where a soft error strikes: the place, the die and the counter kind of R448, and the core that counts it (512 and above names
none). -/
structure ErrorSite where
  upset : Upset
  die : BitVec 2
  kind : BitVec 3
  core : Nat
  deriving DecidableEq, Repr

/-- What a packet of a reliable-connected queue pair carries in from its peer (R441). -/
inductive Packet where
  /-- data for the buffer at `addr`, by SEND or RDMA WRITE -/
  | write (addr : Word) (data : List Byte)
  /-- an RDMA READ of `len` bytes at `addr` -/
  | read (addr : Word) (len : Nat)
  deriving DecidableEq, Repr

/-- What the outside supplies with an event of the machine that the machine itself does not decide: the step places it in the
state before the event runs. The docstring of an event's meaning names the fields it reads. -/
structure Input where
  /-- a context, a queue pair or an entry concerned -/
  uid : Nat
  /-- a die, package or domain die number -/
  die : Nat
  n : Nat
  m : Nat
  flag : Bool
  word : Word
  word2 : Word
  bytes : List Byte
  flits : List (List Byte)
  /-- messages that the router gives a link end, each with its lane -/
  messages : List (Nat × List Byte)
  key : BitVec 256
  page : PageRef
  link : LinkRef
  boot : BootInput
  site : ErrorSite
  packet : Packet
  deriving DecidableEq, Repr

/-- An input of zeros. -/
def Input.zero : Input :=
  { uid := 0, die := 0, n := 0, m := 0, flag := false, word := 0, word2 := 0, bytes := [], flits := [], messages := [], key := 0
    page := ⟨0, 0, 0⟩, link := ⟨0, 0⟩, boot := ⟨[], [], (1, 1, 1), (0, 0, 0), [], []⟩, site := ⟨.mem 0, 0, 0, 512⟩
    packet := .read 0 0 }

/-- One constructor for each row of the opcode table: the operations of the seven slots and the events of the machine. -/
inductive Instr where
  /-- NOP (R131): The operation stops its slot from re-issuing. -/
  | nop (cls : Class)
  /-- ADD (R147): The integer add, wrapping or saturating. -/
  | add (f : RI)
  /-- SUB (R147): The integer subtract. -/
  | sub (f : RI)
  /-- MUL (R147): The integer multiply, due after 3 cycles. -/
  | mul (f : RI)
  /-- MULH (R147): The high half of a signed product. -/
  | mulh (f : RI)
  /-- MULHB (R147): The high half of an unsigned product. -/
  | mulhb (f : RI)
  /-- DIV (R148): The signed division, which never traps. -/
  | div (f : RI)
  /-- DIVB (R148): The unsigned division. -/
  | divb (f : RI)
  /-- REM (R148): The signed remainder. -/
  | rem (f : RI)
  /-- REMB (R148): The unsigned remainder. -/
  | remb (f : RI)
  /-- NEG (R147): The integer negate. -/
  | neg (f : RI)
  /-- ABS (R147): The integer absolute value. -/
  | abs (f : RI)
  /-- MIN (R147): The signed minimum. -/
  | min (f : RI)
  /-- MAX (R147): The signed maximum. -/
  | max (f : RI)
  /-- MINB (R147): The unsigned minimum. -/
  | minb (f : RI)
  /-- MAXB (R147): The unsigned maximum. -/
  | maxb (f : RI)
  /-- AND (R147): The bitwise and. -/
  | and (f : RI)
  /-- OR (R147): The bitwise or. -/
  | or (f : RI)
  /-- XOR (R147): The bitwise exclusive or. -/
  | xor (f : RI)
  /-- ANDN (R147): The bitwise and with the complement of the second operand. -/
  | andn (f : RI)
  /-- SHL (R149): The shift left, optionally saturating. -/
  | shl (f : RI)
  /-- SHR (R149): The logical shift right. -/
  | shr (f : RI)
  /-- SRA (R149): The arithmetic shift right. -/
  | sra (f : RI)
  /-- ROT (R149): The rotate toward the more significant end. -/
  | rot (f : RI)
  /-- CLZ (R147): Counts leading zero bits. -/
  | clz (f : RI)
  /-- CTZ (R147): Counts trailing zero bits. -/
  | ctz (f : RI)
  /-- POPC (R147): Counts set bits. -/
  | popc (f : RI)
  /-- BSWAP (R147): Reverses the byte order. -/
  | bswap (f : RI)
  /-- BFX (R150): Extracts a bit field. -/
  | bfx (f : RI)
  /-- BFI (R150): Inserts a bit field into the destination. -/
  | bfi (f : RI)
  /-- EXT (R150): Sign- or zero-extends from a bit position. -/
  | ext (f : RI)
  /-- SEL (R151): Selects one of two operands by a predicate. -/
  | sel (f : RI)
  /-- MOV (R147): Copies an integer operand. -/
  | mov (f : RI)
  /-- MOVI (R152): Writes a typed immediate in the immediate form. -/
  | movi (f : IForm)
  /-- MOVI_LONG (R152): Writes a sign-extended 42-bit immediate in the long form. -/
  | moviLong (f : LForm)
  /-- MOVH (R152): Replaces the high 32 bits of a register. -/
  | movh (f : IForm)
  /-- CMP (R153): An integer compare that writes a whole predicate register. -/
  | cmp (f : RI)
  /-- TST (R153): The bit test that writes a predicate register. -/
  | tst (f : RI)
  /-- LEA (R159): Writes a stepped effective address to an a register, with no access. -/
  | lea (f : MForm)
  /-- ADDA (R159): Adds to a pointer. -/
  | adda (f : RI)
  /-- SUBA (R159): Subtracts from a pointer. -/
  | suba (f : RI)
  /-- SPTST (R160): Tests a pointer's space classes against a mask. -/
  | sptst (f : RI)
  /-- SPCST (R161): Casts a pointer between spaces or naming forms. -/
  | spcst (f : RI)
  /-- AWIN (R162): Looks up an address in the window table, without faulting. -/
  | awin (f : RI)
  /-- PAND (R163): The predicate and. -/
  | pand (f : RForm)
  /-- POR (R163): The predicate or. -/
  | por (f : RForm)
  /-- PXOR (R163): The predicate exclusive or. -/
  | pxor (f : RForm)
  /-- PNOT (R163): The predicate complement. -/
  | pnot (f : RForm)
  /-- PMOV (R163): Copies a predicate. -/
  | pmov (f : RForm)
  /-- PSET (R163): Sets a predicate to its n low bits. -/
  | pset (f : RForm)
  /-- PSET_REG (R163): Sets a predicate from an s register. -/
  | psetReg (f : RForm)
  /-- PCNT (R163): Counts the set bits of a predicate. -/
  | pcnt (f : RForm)
  /-- PFIRST (R163): Gives the index of the lowest set predicate bit. -/
  | pfirst (f : RForm)
  /-- PANY (R163): Sets a predicate to all ones if any bit of the source is set. -/
  | pany (f : RForm)
  /-- BR (R165): Branches to a relative target. -/
  | br (f : LForm)
  /-- BRC (R165): Branches if a predicate holds. -/
  | brc (f : LForm)
  /-- BRI (R165): Branches to an address in a register. -/
  | bri (f : RForm)
  /-- CALL (R165): Calls a relative target and writes the link register. -/
  | call (f : LForm)
  /-- CALLI (R165): Calls an address in a register. -/
  | calli (f : RForm)
  /-- RET (R165): Returns to an address in a register. -/
  | ret (f : RForm)
  /-- LOOP (R167): Opens a hardware loop level with a trip count, an epilogue depth and a loop predicate. -/
  | loop (f : LForm)
  /-- LBRK (R169): Breaks out of loop levels if a predicate holds. -/
  | lbrk (f : RForm)
  /-- LCNT (R170): Reads the remaining or the completed trips of a level. -/
  | lcnt (f : RForm)
  /-- HALT (R166): Ends the context once its in-flight work has drained. -/
  | halt (f : RForm)
  /-- FADD (R155): The scalar floating-point add. -/
  | fadd (f : RI)
  /-- FSUB (R155): The scalar floating-point subtract. -/
  | fsub (f : RI)
  /-- FMUL (R155): The scalar floating-point multiply. -/
  | fmul (f : RI)
  /-- FFMA (R155): The scalar fused multiply-add. -/
  | ffma (f : RI)
  /-- FDIV (R155): The scalar floating-point divide. -/
  | fdiv (f : RI)
  /-- FSQRT (R155): The scalar square root. -/
  | fsqrt (f : RI)
  /-- FMIN (R155): The scalar floating-point minimum. -/
  | fmin (f : RI)
  /-- FMAX (R155): The scalar floating-point maximum. -/
  | fmax (f : RI)
  /-- FCMP (R156): The floating-point compare that writes a predicate. -/
  | fcmp (f : RI)
  /-- FCVT (R157): Converts between scalar float and integer types. -/
  | fcvt (f : RI)
  /-- FCLASS (R158): Classifies a float into a one-hot mask. -/
  | fclass (f : RI)
  /-- LD (R227): Loads from the own pocket, optionally tile-checked. -/
  | ld (f : MForm)
  /-- ST (R228): Stores to any accepted space at its due cycle. -/
  | st (f : MForm)
  /-- LDL (R229): A landing load from any accepted space with an arrival distance. -/
  | ldl (f : MForm)
  /-- VLDL (R229): A landing load of 256 bytes into a vector register. -/
  | vldl (f : MForm)
  /-- PRB (R232): Probes a range of bytes for access, waiting until its pages are resident. -/
  | prb (f : MForm)
  /-- ATOM (R264): An integer atomic read-modify-write at a scope. -/
  | atom (f : MForm)
  /-- ATOMF (R264): A floating-point atomic add, minimum or maximum. -/
  | atomf (f : MForm)
  /-- CAS (R264): An atomic compare-and-swap. -/
  | cas (f : MForm)
  /-- AMAXR (R264): Atomically swaps a word with zero and returns the old value. -/
  | amaxr (f : MForm)
  /-- BIND (R267): Binds a byte range to a sync object at a scope. -/
  | bind (f : MForm)
  /-- UNBND (R267): Removes matching bindings of a sync object. -/
  | unbnd (f : MForm)
  /-- ACQ (R269): Waits until a sync object's release number reaches n, then acquires. -/
  | acq (f : MForm)
  /-- REL (R270): Performs the bound writes and then increments a sync object. -/
  | rel (f : MForm)
  /-- FENCE (R272): Performs earlier writes at a scope and makes them visible to later accesses. -/
  | fence (f : RI)
  /-- WAITTL (R274): Waits until a timeline counter completes number n, or traps on poison or an unissued number. -/
  | waittl (f : RI)
  /-- WAITTL_ARM (R281): The ARM = 1 form arms a completion interrupt for a counter number. -/
  | waittlArm (f : RI)
  /-- TLRD (R275): Reads DONE, ISSUED or POISON of a timeline counter. -/
  | tlrd (f : RI)
  /-- TLRD_CLEAR (R275): The sel 3 form reads POISON and clears that poisoned number. -/
  | tlrdClear (f : RI)
  /-- BAR (R277): Arrives at a team barrier and waits for the phase to complete. -/
  | bar (f : RI)
  /-- ARV (R278): Arrives at a team barrier without waiting, returning the phase through a landing entry. -/
  | arv (f : RI)
  /-- ARV_GATED (R279): Arrives at a team barrier when a timeline counter reaches n. -/
  | arvGated (f : RForm)
  /-- WAITB (R277): Waits until a team barrier's phase passes p. -/
  | waitb (f : RI)
  /-- WAITB_ARM (R281): The ARM = 1 form arms a completion interrupt for a barrier phase. -/
  | waitbArm (f : RI)
  /-- SSTEP (R280): Ends a superstep at a level and waits for the set's barrier. -/
  | sstep (f : RI)
  /-- RSTK (R414): A remote store that takes a ticket. -/
  | rstk (f : MForm)
  /-- RSTD (R414): A remote store that carries pending tickets and is held at its target until they land. -/
  | rstd (f : MForm)
  /-- RATOM (R409): A remote atomic that returns no value and may be merged in routers. -/
  | ratom (f : MForm)
  /-- TKWT (R417): Waits until the tickets of a range of handles have landed. -/
  | tkwt (f : RForm)
  /-- TKRD (R417): Reads the state of a ticket handle. -/
  | tkrd (f : RForm)
  /-- TKCLR (R417): Clears a range of ticket handles. -/
  | tkclr (f : RForm)
  /-- TRAP (R336): Raises the software trap with a code. -/
  | trap (f : RI)
  /-- ERET_RESUME (R321): ERET mode 0 returns from a trap handler and replays the trapped operation. -/
  | eretResume (f : RI)
  /-- ERET_SKIP (R321): ERET mode 1 returns from a trap handler, skipping the trapped operation. -/
  | eretSkip (f : RI)
  /-- ERET_REDIRECT (R321): ERET mode 2 returns to an address in a register, discarding the captured state. -/
  | eretRedirect (f : RForm)
  /-- UIRET (R337): Returns from a completion-interrupt handler. -/
  | uiret (f : RI)
  /-- CRD (R335): Reads a control register. -/
  | crd (f : RI)
  /-- CWR (R335): Writes a control register at its due cycle. -/
  | cwr (f : RI)
  /-- YIELD (R338): Ends the team's quantum, so that the team is swapped out if an equal or higher team waits. -/
  | yield (f : RI)
  /-- WFE (R339): Waits for an event or a timeout and returns the events set. -/
  | wfe (f : RI)
  /-- DBRK (R336): Freezes for a debugger or raises the break trap. -/
  | dbrk (f : RI)
  /-- LAUNCH (R420): Releases earlier writes and submits a launch record, returning a grid identifier or a cause. -/
  | launch (f : RI)
  /-- PRMT (R428): Lowers the held power class, or requests a higher one from the governor. -/
  | prmt (f : RI)
  /-- SAVE (R328): Writes selected sections of the context image. -/
  | save (f : RI)
  /-- CCMT (R374): Commits the pending token of each ready sequence, advancing LEN. -/
  | ccmt (f : RForm)
  /-- CCKP (R372): Checkpoints the hidden state at a layer and records the restart point. -/
  | cckp (f : RForm)
  /-- CRPL (R375): Restores the checkpoints of faulted tokens and transfers to their restart point. -/
  | crpl (f : RForm)
  /-- CFREC (R381): Gives the leaf pointer of one entry of a fault record. -/
  | cfrec (f : RForm)
  /-- CRES (R378): Conditionally replaces word 0 of a leaf, atomically. -/
  | cres (f : RForm)
  /-- CMAP (R378): Writes a whole leaf atomically. -/
  | cmap (f : RForm)
  /-- CREF (R379): Adjusts a shared block header's reference count atomically. -/
  | cref (f : RForm)
  /-- CPIN (R380): Sets a group's pinned-area pointer in a sequence record. -/
  | cpin (f : RForm)
  /-- CSEQ (R377): Exchanges word 0 of a sequence record and clears its pending state. -/
  | cseq (f : RForm)
  /-- CTRN (R376): Abandons the pending tokens, optionally abandoning the sequences. -/
  | ctrn (f : RForm)
  /-- VADD (R174): The vector floating-point add. -/
  | vadd (f : RI)
  /-- VSUB (R174): The vector floating-point subtract. -/
  | vsub (f : RI)
  /-- VMUL (R174): The vector floating-point multiply. -/
  | vmul (f : RI)
  /-- VFMA (R174): The vector fused multiply-add. -/
  | vfma (f : RI)
  /-- VFMS (R174): The vector fused multiply-subtract. -/
  | vfms (f : RI)
  /-- VFNMA (R174): The vector negated fused multiply-add. -/
  | vfnma (f : RI)
  /-- VMIN (R174): The vector floating-point minimum. -/
  | vmin (f : RI)
  /-- VMAX (R174): The vector floating-point maximum. -/
  | vmax (f : RI)
  /-- VABS (R174): Clears the sign bits. -/
  | vabs (f : RI)
  /-- VNEG (R174): Inverts the sign bits. -/
  | vneg (f : RI)
  /-- VCPS (R174): Copies the sign of b onto a. -/
  | vcps (f : RI)
  /-- VRCPS (R176): The reciprocal seed. -/
  | vrcps (f : RForm)
  /-- VRSQS (R176): The reciprocal square root seed. -/
  | vrsqs (f : RForm)
  /-- VEXP2S (R176): The base-2 exponential seed. -/
  | vexp2s (f : RForm)
  /-- VLOG2S (R176): The base-2 logarithm seed. -/
  | vlog2s (f : RForm)
  /-- VCVT (R177): Converts vector elements between types. -/
  | vcvt (f : RForm)
  /-- VPACK (R178): Converts lanes into packed narrow elements. -/
  | vpack (f : RForm)
  /-- VUNPK (R179): Unpacks narrow elements into 32-bit lanes. -/
  | vunpk (f : RForm)
  /-- VCMP (R180): The vector compare that writes a lane predicate. -/
  | vcmp (f : RForm)
  /-- VSEL (R181): Selects lanes by a predicate. -/
  | vsel (f : RForm)
  /-- VMOV (R181): Copies lanes. -/
  | vmov (f : RForm)
  /-- VBCST (R181): Broadcasts a scalar to every element. -/
  | vbcst (f : RI)
  /-- VIOTA (R181): Writes an arithmetic sequence to the elements. -/
  | viota (f : RForm)
  /-- VSHF (R182): Shifts lanes across two registers. -/
  | vshf (f : RForm)
  /-- VPERM (R182): Permutes elements by an index vector. -/
  | vperm (f : RForm)
  /-- VROT (R182): Rotates lanes. -/
  | vrot (f : RForm)
  /-- VRED (R183): Reduces the elements by a fixed pairwise tree. -/
  | vred (f : RForm)
  /-- VSCAN (R184): The inclusive or exclusive scan of the elements. -/
  | vscan (f : RForm)
  /-- VIADD (R185): The vector integer add. -/
  | viadd (f : RI)
  /-- VISUB (R185): The vector integer subtract. -/
  | visub (f : RI)
  /-- VIMUL (R185): The vector integer multiply. -/
  | vimul (f : RI)
  /-- VAND (R185): The vector bitwise and. -/
  | vand (f : RI)
  /-- VOR (R185): The vector bitwise or. -/
  | vor (f : RI)
  /-- VXOR (R185): The vector bitwise exclusive or. -/
  | vxor (f : RI)
  /-- VSHL (R185): The vector shift left. -/
  | vshl (f : RI)
  /-- VSHR (R185): The vector logical shift right. -/
  | vshr (f : RI)
  /-- VSRA (R185): The vector arithmetic shift right. -/
  | vsra (f : RI)
  /-- VCLZ (R185): Counts the leading zeros of each element. -/
  | vclz (f : RI)
  /-- VPOPC (R185): Counts the set bits of each element. -/
  | vpopc (f : RI)
  /-- VORD (R186): Maps elements to or from unsigned order keys. -/
  | vord (f : RForm)
  /-- VDIG (R187): Extracts a digit field of each element. -/
  | vdig (f : RForm)
  /-- VAMAX (R188): Gives the largest magnitude of each block. -/
  | vamax (f : RForm)
  /-- VQNT (R189): Quantises lanes into .n4 codes and scale bytes. -/
  | vqnt (f : RForm)
  /-- VDQNT (R191): Decodes .n4 codes into binary32 lanes. -/
  | vdqnt (f : RForm)
  /-- VLD (R193): Loads 64 consecutive words from the own pocket. -/
  | vld (f : MForm)
  /-- VST (R193): Stores 64 consecutive words to the own pocket. -/
  | vst (f : MForm)
  /-- VLDG (R194): Gathers words from the own pocket. -/
  | vldg (f : MForm)
  /-- VSTS (R194): Scatters words to the own pocket. -/
  | vsts (f : MForm)
  /-- VHADD (R195): Adds lanes into indexed pocket words in lane order. -/
  | vhadd (f : MForm)
  /-- GO2D (R386): The exact planar orientation test. -/
  | go2d (f : RForm)
  /-- GO3D (R386): The exact spatial orientation test. -/
  | go3d (f : RForm)
  /-- GINC (R386): The exact in-circle test. -/
  | ginc (f : RForm)
  /-- GINS (R386): The exact in-sphere test. -/
  | gins (f : RForm)
  /-- GSEG (R388): The exact segment-crossing test. -/
  | gseg (f : RForm)
  /-- TCLM (R287): Claims the lowest free tray slot into a handle. -/
  | tclm (f : RForm)
  /-- TRLS (R288): Releases a tray slot, which becomes free once its readers finish. -/
  | trls (f : RForm)
  /-- TLD (R289): Loads a tray image from the pocket into a slot. -/
  | tld (f : MForm)
  /-- MMA (R297): The dense matrix multiply-accumulate into a z tile. -/
  | mma (f : RForm)
  /-- MMAS (R298): The 2:4-sparse matrix multiply-accumulate driven by metadata. -/
  | mmas (f : RForm)
  /-- MZRO (R300): Zeroes a z tile. -/
  | mzro (f : RForm)
  /-- MST (R302): Converts and stores a z tile, optionally folding its absolute maximum. -/
  | mst (f : MForm)
  /-- MACC (R300): Adds one z tile into another. -/
  | macc (f : RForm)
  /-- MTRN (R300): Transposes a z tile. -/
  | mtrn (f : RForm)
  /-- BDSET (R305): Sets a bond register. -/
  | bdset (f : RI)
  /-- CORD (R308): Loads the contraction-order program from the pocket. -/
  | cord (f : MForm)
  /-- TCON (R310): Runs one contraction step. -/
  | tcon (f : RForm)
  /-- TCHN (R311): Runs the contraction program as one asynchronous command. -/
  | tchn (f : RForm)
  /-- TBND (R307): Writes CHST in M-slot order. -/
  | tbnd (f : RForm)
  /-- CATT (R371): Attends the live tokens at a layer and raises a context fault for tokens whose stubs draw too much. -/
  | catt (f : RForm)
  /-- CAPP (R373): Appends the pending key and value at a layer, or raises the shared-tail fault. -/
  | capp (f : RForm)
  /-- CSTB (R382): Forms a stub set from a resident block. -/
  | cstb (f : RForm)
  /-- QLD (R294): Loads an edge scale latch set from the pocket. -/
  | qld (f : MForm)
  /-- QSET (R294): Sets every byte of a latch set. -/
  | qset (f : RI)
  /-- CPY (R245): Copies a multi-dimensional byte range. -/
  | cpy (f : CForm)
  /-- TMOV (R247): Moves, compresses or expands tiles between the pocket and the basket. -/
  | tmov (f : CForm)
  /-- GSX (R250): Gathers or scatters indexed elements. -/
  | gsx (f : CForm)
  /-- FSTT (R253): Binds a transducer lane to a table. -/
  | fstt (f : CForm)
  /-- FSTL (R255): Runs one lane block through a transducer lane. -/
  | fstl (f : CForm)
  /-- XLNK (R256): Runs a chain of up to 8 lane blocks as one command. -/
  | xlnk (f : CForm)
  /-- WSTR (R258): Streams data through a lane into a tray slot. -/
  | wstr (f : CForm)
  /-- TFUL (R259): Sets a range of tile bits full in counter order. -/
  | tful (f : CForm)
  /-- TEMP (R259): Clears a range of tile bits in counter order. -/
  | temp (f : CForm)
  /-- RESULT_WRITEBACK (R75): A fixed-latency result is written, or a store is performed, when its slot time reaches its due time. -/
  | resultWriteback (k : Slot)
  /-- LANDING_DATA_ARRIVAL (R80): Data of a landing request arrives; it waits in the landing buffer until its due time, or it is written
  at once to a pending register and the stalled slots resume. -/
  | landingDataArrival (resp : Nat)
  /-- COMMAND_START (R83): An engine command whose start delay has expired, and for which the engine has room, begins: it reads its
  descriptor and translates its pointers. -/
  | commandStart (uid cmd : Nat)
  /-- COMMAND_COMPLETION (R216): An engine command completes verified, advancing DONE of its timeline counter and setting the full/empty
  bits of its destination tiles. -/
  | commandCompletion (uid cmd : Nat)
  /-- CHUNK_RETRY (R240): A chunk whose integrity check mismatches is read again and rewritten, up to three times. -/
  | chunkRetry (uid cmd : Nat)
  /-- COMMAND_FAILURE (R241): A failing command stops at its first failing byte, poisons its counter number, and leaves an error record
  routed by the state of its context. -/
  | commandFailure (uid cmd : Nat) (cause : Byte) (pos : Nat)
  /-- GEOMETRY_RESULT_READY (R391): A geometry operation has decided its last active test and delivers its whole result register through
  its landing entry. -/
  | geometryResultReady (entry : Nat)
  /-- SSTEP_COMPLETION (R222): A superstep at a level completes once every member has issued its SSTEP or halted, which releases and
  orders the members' writes. -/
  | sstepCompletion (level : BitVec 3)
  /-- PREEMPTION_REQUEST (R323): The launch unit, a steward, a debugger or a privileged context writes PREQ to request pre-emption. -/
  | preemptionRequest (uid : Nat) (frz : Bool)
  /-- RESUME (R326): A saved or stopped context is restored, its slots continue from their positions and its replay buffer is re-injected. -/
  | resume (uid : Nat) (intact : Bool)
  /-- QUANTUM_EXPIRY (R424): At each 2 ms quantum boundary the launch unit picks waiting teams by effective priority and swaps out
  resident teams to make room. -/
  | quantumExpiry (die : BitVec 2)
  /-- TEAM_PLACEMENT (R423): An eligible team is placed on free cores of the lowest cluster that has room once the governor grants its class. -/
  | teamPlacement (grid team : Nat)
  /-- GRID_ELIGIBLE (R422): A waiting grid becomes eligible once all its dependences are met. -/
  | gridEligible (grid : Nat)
  /-- MEMORY_SIDE_ACCESS (R204): An access reaches the MTU of its page and is served, parked or faulted according to the page state. -/
  | memorySideAccess (req : Nat)
  /-- REMOTE_REQUEST_ARRIVAL (R225): A remote request arrives at its target die and is performed there in order, held in a turnstile, or
  answered receiver-not-ready or busy. -/
  | remoteRequestArrival (req : Nat)
  /-- RATOM_HOLD_EXPIRY (R410): A router that held a mergeable RATOM for HOLD × 8 cycles forwards it. -/
  | ratomHoldExpiry (req : Nat)
  /-- REMOTE_RESPONSE_ARRIVAL (R409): An acknowledgment or response returns to the source and completes a remote store, atomic or RATOM. -/
  | remoteResponseArrival (resp : Nat)
  /-- RNR_RETRY (R405): The source router resends an access answered receiver-not-ready or busy after a backoff interval. -/
  | rnrRetry (req : Nat)
  /-- RNR_RETRY_EXHAUSTED (R406): Receiver-not-ready retries that pass TKEXP.RNRT end in remote-access error 0x25 with CAUSE 0x1. -/
  | rnrRetryExhausted (req : Nat)
  /-- TICKET_LANDING (R414): A ticket's landing reaches the origin die, which sends releases to its destinations and frees the entry. -/
  | ticketLanding (die : BitVec 8) (ticket : Word)
  /-- TICKET_RELEASE_ARRIVAL (R414): A ticket release reaches a turnstile, which performs the held stores that are now fully released. -/
  | ticketReleaseArrival (die origin : BitVec 8) (ticket : Word)
  /-- TICKET_CANCEL (R414): A ticket cancel reaches a turnstile, which discards the stores that carry it and reports them. -/
  | ticketCancel (die origin : BitVec 8) (ticket : Word)
  /-- TURNSTILE_EXPIRY (R415): A store held past its TKEXP.LIMIT is discarded with the accesses behind it, and the source takes context
  error 0x26. -/
  | turnstileExpiry (req : Nat)
  /-- CONTROL_REGISTER_WRITE (R335): A CWR to a control register that has no row of its own takes effect at its due cycle, leaving RO
  fields unchanged. -/
  | controlRegisterWrite (num : BitVec 10) (v : Word)
  /-- FPST_WRITE (R46): A CWR to FPST stores the value ORed with the flags of every operation due in the same cycle. -/
  | fpstWrite (v : Word)
  /-- RSEED_WRITE (R43): A write to a generator register stores the value, and a zero stores the fixed constant. -/
  | rseedWrite (which : BitVec 2) (v : Word)
  /-- PREQ_WRITE (R323): A CWR to PREQ requests pre-emption in the drain or freeze form. -/
  | preqWrite (v : Word)
  /-- WTBASE_WRITE (R329): A CWR to WTBASE reads and checks a new window image and sends it to every member of the team. -/
  | wtbaseWrite (v : Word)
  /-- UISTAT_WRITE (R284): A CWR to UISTAT sets EN, and a clear of EN while ACT is set takes effect only after UIRET. -/
  | uistatWrite (v : Word)
  /-- MEMORY_PORT_ACCESS (R262): A store, atomic or MST fold bound for a basket or hamper reaches that memory's port and is performed there. -/
  | memoryPortAccess (req : Nat)
  /-- BUNDLE_ISSUE (R67): Dispatch issues one issue of a bundle, so that each slot issues a new operation, re-issues its sticky operation
  with stepped addresses, or stays idle. -/
  | bundleIssue
  /-- COMPLETION_INTERRUPT_DELIVERY (R282): A fired entry is delivered once delivery is enabled and no handler is active: slots realign,
  sticky state is saved, shadows are swapped and dispatch continues at UIVEC. -/
  | completionInterruptDelivery
  /-- ARRAY_OPERATION_COMPLETE (R77): A matrix array operation ends its occupancy of the array, which frees the array for a stalled M-slot
  operation. -/
  | arrayOperationComplete
  /-- TCHN_COMPLETE (R311): A running chain command writes its last step's boundary and CHST and advances its counter. -/
  | tchnComplete
  /-- TRAP_ENTRY (R317): Once the lagging slots have consumed the trapping issue, the record is written, sticky state is saved, shadows
  are exchanged and dispatch continues at TRAPVEC. -/
  | trapEntry
  /-- CONTEXT_ERROR_STOP (R322): A context error stops the context for good, writes its record to FAULTREC and appends it to the steward
  error queue. -/
  | contextErrorStop
  /-- CONTEXT_HALT_COMPLETE (R166): A halted context ends once its in-flight results and waiting commands have drained, and the team's
  cores are freed when every member has ended. -/
  | contextHaltComplete
  /-- DRAIN_TIMEOUT (R324): A loop drain that has not stopped within 20 µs falls back to the freeze form. -/
  | drainTimeout
  /-- FREEZE (R325): The context stops at a bundle issue, its in-flight state is captured, and it becomes stopped once its writes are
  performed at DOMAIN scope. -/
  | freeze
  /-- STEWARD_LIVENESS_REQUEST (R20): A launch unit sends its steward a liveness request when 10 ms pass without another request. -/
  | stewardLivenessRequest
  /-- STEWARD_FAILURE (R20): A steward that leaves a request unanswered for 100 ms is failed: a TYPE 0x06 entry is queued on die 0 and
  EVSTAT.STW is set. -/
  | stewardFailure
  /-- WINDOW_TABLE_ACK (R330): A team member's table logic or its cluster controller acknowledges a new window table, and the update
  completes with the last acknowledgment. -/
  | windowTableAck
  /-- PARKED_ACCESS_REPLAY (R205): Once the steward has made a page available, the accesses parked on it are replayed in arrival order, or
  are converted to faults if the page cannot be supplied. -/
  | parkedAccessReplay
  /-- PAGE_MIGRATION (R207): The steward moves a page between HBM, a CXL pool and flash without changing its device-virtual address. -/
  | pageMigration
  /-- COPY_ON_WRITE_BREAK (R207): The steward gives a writing space a private copy of a copy-on-write page and replays the parked write
  into it. -/
  | copyOnWriteBreak
  /-- DEADLINE_MISS (R208): A deadline-class request that passes its latest service time is counted as a miss. -/
  | deadlineMiss
  /-- SCRUB (R446): SRAM is scrubbed each second and HBM each day, and the errors found are corrected or poisoned. -/
  | scrub
  /-- RESOURCE_WITHHOLD (R449): A core that passes the error threshold has its cluster withheld, which sets RESMAP and EVSTAT.RES and
  swaps the resident teams away. -/
  | resourceWithhold
  /-- FLIT_RECEIVE (R401): A link receiver takes a flit, discards it if its CRC fails or it is out of sequence, and asks for a replay. -/
  | flitReceive
  /-- REPLAY_REQUEST (R401): A sender resends from the missing sequence number, and it retrains the link after 8 failed replays. -/
  | replayRequest
  /-- CREDIT_RETURN (R402): A cumulative buffer-slot count for a lane arrives and sets the sender's available slots. -/
  | creditReturn
  /-- LINK_STATE_CHANGE (R28): A link trains on its working ports, runs at a reduced width or goes down. -/
  | linkStateChange
  /-- ROUTE_SWITCH (R398): A source router starts using the new route to a target once its earlier messages to that target are delivered. -/
  | routeSwitch
  /-- FRAME_RECEIVE (R403): An encrypted frame is verified against its GCM tag and its flits are delivered, or it is replayed; after three
  failures the link goes down. -/
  | frameReceive
  /-- KEY_LOAD (R404): The security processor loads a new key into a link end's unused key slot. -/
  | keyLoad
  /-- KEY_SWITCH (R404): When the current slot's counter reaches 2^47, the sender marks the change and seals with the other slot, or
  raises a security event if it holds no key. -/
  | keySwitch
  /-- KEY_RETIRE (R404): The receiver retires the old key slot 4,096 flits after the marker. -/
  | keyRetire
  /-- KEY_EXHAUSTION (R404): A counter that reaches 2^48 − 1 with no new key takes the link down and raises the security event. -/
  | keyExhaustion
  /-- GOVERNOR_ANSWER (R428): The die's governor grants or refuses a power-class request, and PRMT writes its result. -/
  | governorAnswer
  /-- THROTTLE_CHANGE (R429): The governor moves a die between throttle states T0 to T3 because of coolant or supply limits. -/
  | throttleChange
  /-- WFE_TIMEOUT (R339): A WFE whose timeout has passed completes with bit 3 set. -/
  | wfeTimeout
  /-- QP_ENTRY_SERVICE (R442): A MAC acquires a release of a queue pair's post object, serves the entry and releases the completion object. -/
  | qpEntryService
  /-- POOL_DEVICE_FAILURE (R434): A CXL pool device fails or its link goes down, so that accesses to its pages become memory-side faults. -/
  | poolDeviceFailure
  /-- RESET_BOOT (R444): At reset the security processor verifies the images, releases the stewards and, if requested, raises the fused
  minimum. -/
  | resetBoot
  /-- HOST_EVENT (R436): A valid HEVT write sends the host event for a mailbox page, and steward 0 copies the page and serves its command
  or reports it torn. -/
  | hostEvent
  /-- MAILBOX_LAUNCH (R439): The mailbox LAUNCH command hands a device-physical launch record to the launch unit of the named die. -/
  | mailboxLaunch
  /-- MAPHOST (R437): The mailbox command maps host memory into the host range of an address space. -/
  | maphost
  /-- UNMAP (R437): The mailbox command unmaps a range of an address space. -/
  | unmap
  /-- ERRQ (R437): The mailbox command moves up to 15 steward error-queue entries into the bulk area, skipping dies whose steward has failed. -/
  | errq
  /-- KILL (R437): The mailbox command stops every context of a grid as if halted. -/
  | kill
  /-- QPNEW (R437): The mailbox command creates a RoCEv2 queue pair. -/
  | qpnew
  /-- FWSTAGE (R437): The mailbox command verifies a firmware image and writes it to the inactive boot copy, optionally recording a raise
  request. -/
  | fwstage
  /-- EVSTAT_WRITE (R435): A write of ones clears the named EVSTAT event bits. -/
  | evstatWrite
  /-- ERROR_COUNTER_READ (R448): A read of a BAR0 error counter returns its counts and clears them. -/
  | errorCounterRead
  /-- WAKE_WORD_STORE (R440): A store to a core's control-space wake word sets WFE event bit 2 of its resident context. -/
  | wakeWordStore
  /-- CONTROL_REGISTER_ACCESS (R440): A control-space access reads or writes a control register of a core with privileged CRD or CWR
  semantics. -/
  | controlRegisterAccess
  /-- GET_VERSION (R445): The SPDM request returns the supported versions. -/
  | getVersion
  /-- GET_CAPABILITIES (R445): The SPDM request returns the responder's capabilities. -/
  | getCapabilities
  /-- NEGOTIATE_ALGORITHMS (R445): The SPDM request selects ECDSA P-384 with SHA-384. -/
  | negotiateAlgorithms
  /-- GET_DIGESTS (R445): The SPDM request returns the certificate-chain digests. -/
  | getDigests
  /-- GET_CERTIFICATE (R445): The SPDM request returns a certificate chain. -/
  | getCertificate
  /-- CHALLENGE (R445): The SPDM request returns a response signed with both ECDSA and LMS. -/
  | challenge
  /-- GET_MEASUREMENTS (R445): The SPDM request returns signed measurements of indices 1 to 5. -/
  | getMeasurements
  /-- STEWARD_ANSWERS_AGAIN (R20): A failed steward answers again, so the services that only it gives resume and its error queue can be
  drained. -/
  | stewardAnswersAgain
  /-- SOFT_ERROR (R446): A soft error strikes a word of SRAM, HBM or flash, and is then corrected or poisons its granule. -/
  | softError
  /-- CORE_POWER_GATE (R330): A core is power-gated, and its cluster controller then answers for it. -/
  | corePowerGate
  /-- CORE_WAKE (R330): A power-gated core wakes, and its cluster controller installs any pending window table. -/
  | coreWake
  /-- DEBUGGER_ATTACH (R333): A debugger attaches to or detaches from a context through the package management controller, which changes
  CTXSTAT.DBG. -/
  | debuggerAttach
  /-- EVEN_WRITE (R435): A write to EVEN enables events, and MSI-X vector 0 fires if EVSTAT AND EVEN becomes nonzero. -/
  | evenWrite
  /-- ROCE_PACKET_ARRIVAL (R441): A RoCEv2 packet from a peer, such as a SEND, RDMA WRITE or READ, an acknowledgment or a congestion mark,
  arrives at a MAC. -/
  | rocePacketArrival
  /-- QP_TRANSPORT_RETRIES_EXHAUSTED (R438): A queue pair's transport retries run out, which stops the queue pair and queues a TYPE 0x05
  record with CAUSE 3. -/
  | qpTransportRetriesExhausted
  /-- FLASH_ERASE_BLOCK_RECLAIM (R209): The steward reclaims a 64 MiB erase block of a flash log, so that its pages can be written again. -/
  | flashEraseBlockReclaim
  deriving DecidableEq, Repr

end Sys2Proof
end

