-- ==== Sys2Proof/Machine/Legality.lean ====
section
/-! DEFINITION. Which operations a slot word may hold (R123, R130, R141, R143): for every operation the registers its fields
name, read or written (R69, R451), and the cause code of a word that breaks a rule. Events of the machine have no word. -/

namespace Sys2Proof

namespace Legality

/-- The number of registers of a file (R99, R130). -/
def fileSize : RegFile → Nat
  | .s => 64 | .a => 32 | .p => 32 | .v => 64 | .lc => 6 | .z => 8 | .ts => 16 | .sl => 4 | .bd => 16 | .k => 16
  | .tc => 16 | .cr => 1024

/-- How an operation uses one register field: not at all (the field must be zero, R123), as a register it reads, writes, or
both, or as bits the operation reads itself. -/
inductive Use where
  | zero
  | raw
  | rd (f : RegFile)
  | wr (f : RegFile)
  | rw (f : RegFile)
  deriving DecidableEq, Repr

/-- The value breaks the field's rule: nonzero where it must be zero, or beyond the file (R130). -/
def Use.bad (u : Use) (n : Nat) : Bool :=
  match u with
  | .zero => n != 0
  | .raw => false
  | .rd f | .wr f | .rw f => fileSize f ≤ n

/-- The registers a field reads. -/
def Use.reads (u : Use) (n : Nat) : List Reg :=
  match u with
  | .rd f | .rw f => [⟨f, n⟩]
  | _ => []

/-- The registers a field writes. -/
def Use.writes (u : Use) (n : Nat) : List Reg :=
  match u with
  | .wr f | .rw f => [⟨f, n⟩]
  | _ => []

/-- What legality says of one operation: the violations by cause code, and the registers read, in the order of R451, and
written. -/
structure Legal where
  bad4 : Bool
  bad5 : Bool
  bad6 : Bool
  badA : Bool
  reads : List Reg
  writes : List Reg
  deriving DecidableEq, Repr

/-- Bit `n` of a set of codes given as a number. -/
def inSet (mask n : Nat) : Bool := mask.testBit n

/-- Type-code sets (R129): bit n stands for code n. -/
def tNone : Nat := 1
def tI : Nat := 0x1E
def tB : Nat := 0x1E0
def tInt : Nat := 0x1FE
def tF : Nat := 0xE00
def tLd : Nat := 0xFFF
/-- .i32 .b32 .i16 .b16 -/
def tV16 : Nat := 0xCC
/-- .i32 .b32 .i16 .b16 .i8 .b8 -/
def tV8 : Nat := 0xEE
/-- The float types of 8, 6 and 4 bits: .e4m3 .e5m2 .e3m2 .e2m3 .e2m1. -/
def tNarrow : Nat := 0x1F000
/-- Rounding codes 0 to 3, and 0 to 4 (R42). -/
def rm3 : Nat := 0xF
def rm4 : Nat := 0x1F

/-- The guard breaks R122. -/
def badGuard (guarded : Bool) (pred : BitVec 5) (pneg : Bool) : Bool := !guarded && (pred != 0 || pneg)

/-- What a register-form operation uses (R124). -/
structure RShape where
  d : Use := .zero
  a : Use := .zero
  b : Use := .zero
  c : Use := .zero
  dt : Nat := tNone
  st : Nat := tNone
  rm : Nat := 1
  sat : Bool := false
  /-- the bits of SUB the operation reads -/
  sub : Nat := 0
  guarded : Bool := true
  x4 : Bool := false
  x5 : Bool := false
  xA : Bool := false
  /-- types, rounding and saturation refused with cause 0x04 instead of 0x05 (R287, R310, R311, R321, R363, R420) -/
  all4 : Bool := false
  moreReads : List Reg := []
  moreWrites : List Reg := []

/-- The legality of a register form. A nonzero ST, RM or SAT, or a type, that the operation does not take has cause 0x05 unless
`all4` says otherwise. (DEDUCED, log 118) -/
def ofR (f : RForm) (w : RShape) : Legal :=
  let b5 := (f.dt.toNat ≤ 17 && !inSet w.dt f.dt.toNat) || (f.st.toNat ≤ 17 && !inSet w.st f.st.toNat) ||
    (f.rm.toNat ≤ 4 && !inSet w.rm f.rm.toNat) || (f.sat && !w.sat)
  { bad4 := w.d.bad f.d.toNat || w.a.bad f.a.toNat || w.b.bad f.b.toNat || w.c.bad f.c.toNat || 17 < f.dt.toNat ||
      17 < f.st.toNat || 4 < f.rm.toNat || (f.sub.toNat &&& (1023 - w.sub)) != 0 || w.x4 || (w.all4 && b5)
    bad5 := b5 && !w.all4 || w.x5
    bad6 := badGuard w.guarded f.pred f.pneg
    badA := w.xA
    reads := w.a.reads f.a.toNat ++ w.b.reads f.b.toNat ++ w.c.reads f.c.toNat ++ w.d.reads f.d.toNat ++ w.moreReads
    writes := w.d.writes f.d.toNat ++ w.c.writes f.c.toNat ++ w.moreWrites }

/-- What an immediate-form operation uses (R125). -/
structure IShape where
  d : Use := .zero
  a : Use := .zero
  dt : Nat := tNone
  guarded : Bool := true
  x4 : Bool := false
  x5 : Bool := false
  all4 : Bool := false
  moreReads : List Reg := []
  moreWrites : List Reg := []

/-- A 16-bit float immediate fills only bits [15:0] (R125). -/
def badFloatImm (dt : BitVec 4) (imm : BitVec 32) : Bool := (dt == 10 || dt == 11) && imm.extractLsb' 16 16 != 0

/-- The legality of an immediate form. (DEDUCED, log 118) -/
def ofI (f : IForm) (w : IShape) : Legal :=
  let b5 := !inSet w.dt f.dt.toNat
  { bad4 := w.d.bad f.d.toNat || w.a.bad f.a.toNat || w.x4 || (w.all4 && b5)
    bad5 := b5 && !w.all4 || w.x5
    bad6 := badGuard w.guarded f.pred f.pneg
    badA := false
    reads := w.a.reads f.a.toNat ++ w.d.reads f.d.toNat ++ w.moreReads
    writes := w.d.writes f.d.toNat ++ w.moreWrites }

/-- What a memory-form operation uses (R126). BASE is an a register in every one. -/
structure MShape where
  d : Use := .zero
  idx : Use := .zero
  dt : Nat := tNone
  chk : Bool := false
  /-- the bits of DISP that must be zero -/
  disp0 : Nat := 0
  x4 : Bool := false
  x5 : Bool := false
  xA : Bool := false
  moreReads : List Reg := []
  moreWrites : List Reg := []

/-- The legality of a memory form. -/
def ofM (f : MForm) (w : MShape) : Legal :=
  { bad4 := w.d.bad f.d.toNat || w.idx.bad f.idx.toNat || 17 < f.dt.toNat || (f.chk && !w.chk) ||
      (f.disp.toNat &&& w.disp0) != 0 || w.x4
    bad5 := (f.dt.toNat ≤ 17 && !inSet w.dt f.dt.toNat) || w.x5
    bad6 := false
    badA := w.xA
    reads := ⟨.a, f.base.toNat⟩ :: w.idx.reads f.idx.toNat ++ w.d.reads f.d.toNat ++ w.moreReads
    writes := w.d.writes f.d.toNat ++ w.idx.writes f.idx.toNat ++ w.moreWrites }

/-- The legality of a long form (R127). -/
def ofL (f : LForm) (d : Use) (guarded x4 : Bool) (moreReads : List Reg := []) : Legal :=
  { bad4 := d.bad f.d.toNat || x4
    bad5 := false
    bad6 := badGuard guarded f.pred f.pneg
    badA := false
    reads := d.reads f.d.toNat ++ moreReads
    writes := d.writes f.d.toNat }

/-- The legality of a command form (R128, R235). -/
def ofC (f : CForm) (desc aux : Use) (sub steps stepd : Bool) : Legal :=
  { bad4 := desc.bad f.desc.toNat || aux.bad f.aux.toNat || !sub || (!steps && f.steps != 0) || (!stepd && f.stepd != 0)
    bad5 := false
    bad6 := false
    badA := false
    reads := desc.reads f.desc.toNat ++ aux.reads f.aux.toNat
    writes := [] }

/-- The data register of a load or store: an a register when DT = 0, else an s register (R226). (DEDUCED, log 117) -/
def dataFile (dt : BitVec 5) : RegFile := if dt == 0 then .a else .s

/-- SUB of a sync operation in the immediate form: body bits [41:32] (R271). -/
def subI (f : IForm) : BitVec 10 := f.a ++ f.dt

/-- A single field of bits `lo` to `lo + len - 1`. -/
def fld {w : Nat} (x : BitVec w) (lo len : Nat) : Nat := (x.toNat >>> lo) % 2 ^ len

/-- Binary integer operations of R147 with types `t`. -/
def int2 (f : RI) (t : Nat) (sat : Bool) : Legal :=
  match f with
  | .r f => ofR f { d := .wr .s, a := .rd .s, b := .rd .s, dt := t, sat := sat }
  | .i f => ofI f { d := .wr .s, a := .rd .s, dt := t }

/-- Unary integer operations: the operand is A, or IMM with A zero (R146). -/
def int1 (f : RI) (t : Nat) (sat : Bool) : Legal :=
  match f with
  | .r f => ofR f { d := .wr .s, a := .rd .s, dt := t, sat := sat }
  | .i f => ofI f { d := .wr .s, dt := t }

/-- Scalar floating-point operations of two sources (R154, R155). -/
def fp2 (f : RI) (d : Use) (sub : Nat) : Legal :=
  match f with
  | .r f => ofR f { d := d, a := .rd .s, b := .rd .s, dt := tF, rm := rm3, sub := sub }
  | .i f => ofI f { d := d, a := .rd .s, dt := tF, x4 := badFloatImm f.dt f.imm }

/-- Scalar floating-point operations of one source. -/
def fp1 (f : RI) : Legal :=
  match f with
  | .r f => ofR f { d := .wr .s, a := .rd .s, dt := tF, rm := rm3 }
  | .i f => ofI f { d := .wr .s, dt := tF, x4 := badFloatImm f.dt f.imm }

/-- The scalar conversion pairs (R157): two integer types, or one type twice, are refused. -/
def fcvtBad (d s : BitVec 5) : Bool := d == s || (d.toNat ≤ 8 && s.toNat ≤ 8)

/-- The invalid predicate of an operation marked IVP (R173): its register, when SUB[9] is set. -/
def ivpWrites (sub : BitVec 10) : List Reg := if sub.getLsbD 9 then [⟨.p, fld sub 4 5⟩] else []

/-- SUB[8:4] must be zero without SUB[9] (R173). -/
def ivpBad (sub : BitVec 10) : Bool := !sub.getLsbD 9 && fld sub 4 5 != 0

/-- Vector floating-point arithmetic (R174). -/
def vfp (f : RI) (b c : Use) (rm : Nat) (ivp readsD : Bool) : Legal :=
  match f with
  | .r f => ofR f { d := .wr .v, a := .rd .v, b := b, c := c, dt := tF, rm := rm, sub := if ivp then 0x3F0 else 0,
                    x4 := ivp && ivpBad f.sub, moreWrites := if ivp then ivpWrites f.sub else [] }
  | .i f => ofI f { d := if readsD then .rw .v else .wr .v, a := if b = .zero then .zero else .rd .v, dt := tF,
                    x4 := badFloatImm f.dt f.imm }

/-- Vector integer arithmetic (R185). -/
def vint (f : RI) (two sat : Bool) : Legal :=
  match f with
  | .r f => ofR f { d := .wr .v, a := .rd .v, b := if two then .rd .v else .zero, dt := tV8, sat := sat }
  | .i f => ofI f { d := .wr .v, a := if two then .rd .v else .zero, dt := tV8 }

/-- The width of a type code of R129 in bits; 0 for the codes that are no element type. -/
def tWidth (t : Nat) : Nat :=
  match t with
  | 1 | 5 | 12 | 13 => 8
  | 2 | 6 | 10 | 11 => 16
  | 3 | 7 | 9 => 32
  | 4 | 8 => 64
  | 14 | 15 => 6
  | 16 | 17 => 4
  | _ => 0

/-- VCVT (R177). -/
def vcvt (f : RForm) : Legal :=
  let d := f.dt.toNat
  let s := f.st.toNat
  let t := tF ||| tV16
  let wide := tWidth s = 32 && tWidth d = 16
  ofR f { d := if wide then .rw .v else .wr .v, a := .rd .v, dt := t, st := t, rm := rm4, sat := decide (8 < d),
          sub := 0x3F0 ||| (if tWidth s = 16 && tWidth d = 32 then 1 else 0) ||| (if wide then 2 else 0),
          x4 := ivpBad f.sub, x5 := fcvtBad f.dt f.st, moreWrites := ivpWrites f.sub }

/-- q and L of VPACK and VUNPK for a narrow type of width `w` (R178). -/
def packBad (sub : BitVec 10) (w : Nat) : Bool :=
  (sub.getLsbD 3 && w != 6) || (if w = 4 then 7 else 3) < fld sub 0 3

/-- VPACK (R178). (DEDUCED, log 40) -/
def vpack (f : RForm) : Legal :=
  let raw := f.st == 0
  ofR f { d := .rw .v, a := .rd .v, dt := tNarrow ||| 0x22, st := 0x289, rm := if raw then 1 else rm4, sat := !raw,
          sub := 0x3FF, x4 := ivpBad f.sub || packBad f.sub (tWidth f.dt.toNat), moreWrites := ivpWrites f.sub }

/-- The destination types VUNPK accepts for each source type (R179). -/
def vunpkTypes (s : Nat) : Nat :=
  if inSet tNarrow s then 0x280 else if s = 1 then 0x208 else if s = 5 then 0x280 else 0

/-- VUNPK (R179). -/
def vunpk (f : RForm) : Legal :=
  ofR f { d := .wr .v, a := .rd .v, dt := vunpkTypes f.st.toNat, st := tNarrow ||| 0x22, sub := 0x3FF,
          x4 := ivpBad f.sub || packBad f.sub (tWidth f.st.toNat), moreWrites := ivpWrites f.sub }

/-- VCMP (R180). (DEDUCED, log 35) -/
def vcmp (f : RForm) : Legal :=
  let t := f.dt.toNat
  ofR f { d := .wr .p, a := .rd .v, b := .rd .v, dt := tF ||| tV8, sub := 0x1F,
          x4 := fld f.sub 3 2 = 3 || (t ≤ 8 && 5 < fld f.sub 0 3) || (tWidth t = 32 && fld f.sub 3 2 != 0) }

/-- VRED and VSCAN (R183, R184); `sub` is the bits of SUB they read. -/
def vred (f : RForm) (sub : Nat) : Legal :=
  let fl := inSet tF f.dt.toNat
  let op := fld f.sub 0 3
  ofR f { d := .wr .v, a := .rd .v, dt := tF ||| tV16, rm := if fl then rm3 else 1, sat := !fl && op = 0, sub := sub,
          x4 := 5 < op, x5 := fl && 2 < op }

/-- The registers `n` to `n + k - 1` of the v file. -/
def vBlock (n k : Nat) : List Reg := (List.range k).map fun i => ⟨.v, n + i⟩

/-- The geometry operations (R383, R384): `pts` registers of points and `ids` of indices. -/
def geo (f : RForm) (pts ids : Nat) : Legal :=
  let tb := f.c.getLsbD 1
  ofR f { d := .wr .v, a := .raw, b := if tb then .raw else .zero, c := .raw, sub := 0x3FF,
          x4 := 64 < f.a.toNat + pts || (tb && 64 < f.b.toNat + ids) || fld f.c 2 4 != 0,
          xA := f.sub == 0,
          moreReads := vBlock f.a.toNat pts ++ (if tb then vBlock f.b.toNat ids else []) }

/-- The element types of an array operand (R291). -/
def tArray : Nat := 0x3FC22

/-- The classes of R291: 16-bit, 8-bit with the packed 6-bit types, 4-bit. -/
def arrayClass (t : Nat) : Nat :=
  if t = 10 || t = 11 then 1 else if t = 16 || t = 17 then 3 else 2

/-- MMA and MMAS (R291, R296, R298). (DEDUCED, log 138) -/
def mma (f : RForm) (sparse : Bool) : Legal :=
  let scl := f.c.getLsbD 0
  let t := if sparse then tArray - 0x20000 else tArray
  let n4 := (f.dt == 17 && f.sub.getLsbD 0) || (f.st == 17 && f.sub.getLsbD 1)
  ofR f { d := if f.c.getLsbD 3 then .wr .z else .rw .z, a := .rd .ts, b := .rd .ts, c := .raw, dt := t, st := t,
          sub := 0x3FF,
          x4 := fld f.c 4 2 != 0 || (sparse && f.sub.getLsbD 1) || 1 < fld f.sub 2 4 || 1 < fld f.sub 6 4,
          x5 := arrayClass f.dt.toNat != arrayClass f.st.toNat || n4,
          moreReads := if scl then [⟨.sl, fld f.c 1 1⟩, ⟨.sl, 2 + fld f.c 2 1⟩] else [] }

/-- MST (R301). -/
def mst (f : MForm) : Legal :=
  let fold := f.disp.getLsbD 12
  let rm := fld f.disp 14 3
  ofM f { d := .raw, idx := if fold then .rd .a else .zero, dt := 0x1FEEE, disp0 := 0xC00,
          x4 := 4 < rm || 4 < fld f.d 3 3 || (!fold && fld f.d 3 3 != 0),
          x5 := (f.dt == 9 && rm != 0 && rm ≤ 4) || (f.disp.getLsbD 13 && f.dt.toNat ≤ 8),
          moreReads := [⟨.z, fld f.d 0 3⟩] }

/-- The fields of an atomic or sync-object operation that are common to OP 0x68 to 0x6F (R261). -/
def scopeBad (f : MForm) : Bool := 4 < fld f.disp 14 3

/-- ATOM (R263). -/
def atom (f : MForm) : Legal :=
  let pair := f.disp.getLsbD 10
  let aop := fld f.disp 11 3
  ofM f { d := .wr .s, idx := .rd .s, dt := 0x198,
          x4 := scopeBad f || aop = 7 || (pair && (aop != 6 || f.dt != 8 || f.d.getLsbD 0 || f.idx.getLsbD 0)),
          moreReads := if pair then [⟨.s, f.idx.toNat + 1⟩] else [],
          moreWrites := if pair && f.d != 0 then [⟨.s, f.d.toNat + 1⟩] else [] }

/-- ATOMF (R263). -/
def atomf (f : MForm) : Legal :=
  ofM f { d := .wr .s, idx := .rd .s, dt := tF, disp0 := 0x400, x4 := scopeBad f || 2 < fld f.disp 11 3 }

/-- CAS (R263). -/
def cas (f : MForm) : Legal :=
  let pair := f.disp.getLsbD 10
  ofM f { d := .rw .s, idx := .rd .s, dt := 0x180, disp0 := 0x3800,
          x4 := scopeBad f || (pair && (f.dt != 8 || f.d.getLsbD 0 || f.idx.getLsbD 0)),
          moreReads := if pair then [⟨.s, f.idx.toNat + 1⟩, ⟨.s, f.d.toNat + 1⟩] else [],
          moreWrites := if pair && f.d != 0 then [⟨.s, f.d.toNat + 1⟩] else [] }

/-- RATOM (R408). -/
def ratom (f : MForm) : Legal :=
  let aop := fld f.disp 11 3
  ofM f { d := .rd .s, dt := 0x198 ||| tF, disp0 := 0x1C400, x4 := if f.dt.toNat ≤ 8 then 5 < aop else 2 < aop }

/-- The ticket handles named by a mask (R413). -/
def kMask (m : Nat) : List Reg := ((List.range 16).filter m.testBit).map fun i => ⟨.k, i⟩

/-- The handles of a range (R417). -/
def kRange (f : RForm) : List Reg := (List.range (fld f.sub 0 4 + 1)).map fun i => ⟨.k, f.a.toNat + i⟩

/-- A range of handles that passes k15 (R417). -/
def kRangeBad (f : RForm) : Bool := 15 < f.a.toNat + fld f.sub 0 4

/-- A sync operation of R271: `b` is the field B of the register form, IMM must be zero when `imm0`; `x4` judges SUB. -/
def sync (f : RI) (d b c : Use) (sub : Nat) (imm0 guarded : Bool) (x4 : BitVec 10 → Bool) : Legal :=
  match f with
  | .r f => ofR f { d := d, b := b, c := c, sub := sub, guarded := guarded, x4 := x4 f.sub }
  | .i f => ofI f { d := d, a := .raw, dt := 0xFFFF, guarded := guarded,
                    x4 := (subI f).toNat &&& (1023 - sub) != 0 || x4 (subI f) || (imm0 && f.imm != 0) }

/-- The control registers that have a number (R334). -/
def crListed (n : Nat) : Bool :=
  n ≤ 2 || (4 ≤ n && n ≤ 0xD) || (0x10 ≤ n && n ≤ 0x12) || (0x14 ≤ n && n ≤ 0x16) || (0x18 ≤ n && n ≤ 0x1B) ||
  (0x20 ≤ n && n ≤ 0x24) || n = 0x30 || n = 0x31

/-- TRAP and DBRK (R336). -/
def coded (f : RI) : Legal :=
  match f with
  | .r f => ofR f { a := .rd .s, guarded := false }
  | .i f => ofI f { guarded := false, x4 := f.imm.extractLsb' 16 16 != 0 }

/-- An unguarded operation with no field (UIRET, YIELD). (DEDUCED, log 36) -/
def bare (f : RI) : Legal :=
  match f with
  | .r f => ofR f { guarded := false, all4 := true }
  | .i f => ofI f { guarded := false, all4 := true, x4 := f.imm != 0 }

/-- A context instruction (R363). (DEDUCED, log 119) -/
def ctxI (f : RForm) (d a b c : Use) (sub : Nat) : Legal :=
  ofR f { d := d, a := a, b := b, c := c, sub := sub, all4 := true }

/-- A base-die lane (R251). -/
def laneBase (f : CForm) : Bool := fld f.sub 7 2 = 0

/-- A lane FSTT may bind (R251). -/
def laneAny (f : CForm) : Bool := fld f.sub 7 2 = 0 || (f.sub.getLsbD 8 && fld f.sub 1 7 = 0)

/-- What legality says of an instruction; an event of the machine has no word and no registers. (DEDUCED, log 117) (DEDUCED, log 119)
(DEDUCED, log 139) -/
def legal : Instr → Option Legal
  | .nop _ => some ⟨false, false, false, false, [], []⟩
  | .add f | .sub f | .mul f => some (int2 f tInt true)
  | .mulh f | .div f | .rem f | .min f | .max f => some (int2 f tI false)
  | .mulhb f | .divb f | .remb f | .minb f | .maxb f => some (int2 f tB false)
  | .neg f | .abs f => some (int1 f tInt true)
  | .and f | .or f | .xor f | .andn f | .shr f | .sra f | .rot f => some (int2 f tInt false)
  | .shl f => some (int2 f tInt true)
  | .clz f | .ctz f | .popc f | .bswap f | .mov f => some (int1 f tInt false)
  | .bfx (.r f) => some (ofR f { d := .wr .s, a := .rd .s, b := .rd .s, c := .rd .s, dt := 0x110 })
  | .bfx (.i f) => some (ofI f { d := .wr .s, a := .rd .s, dt := 0x110, x4 := fld f.imm 6 2 != 0 || fld f.imm 15 17 != 0 })
  | .bfi (.r f) => some (ofR f { d := .rw .s, a := .rd .s, b := .rd .s, c := .rd .s, dt := 0x100 })
  | .bfi (.i f) => some (ofI f { d := .rw .s, a := .rd .s, dt := 0x100, x4 := fld f.imm 6 2 != 0 || fld f.imm 15 17 != 0 })
  | .ext (.r f) => some (ofR f { d := .wr .s, a := .rd .s, b := .rd .s, dt := 0x110 })
  | .ext (.i f) => some (ofI f { d := .wr .s, a := .rd .s, dt := 0x110, x4 := fld f.imm 6 26 != 0 })
  | .sel (.r f) => some (ofR f { d := .wr .s, a := .rd .s, b := .rd .s, c := .rd .p, dt := tInt })
  | .sel (.i f) => some (ofI f { d := .wr .s, a := .rd .s, dt := tInt, moreReads := [⟨.p, fld f.imm 27 5⟩] })
  | .movi f => some (ofI f { d := .wr .s, dt := tInt })
  | .moviLong f => some (ofL f (.wr .s) true false)
  | .movh f => some (ofI f { d := .rw .s })
  | .cmp (.r f) => some (ofR f { d := .wr .p, a := .rd .s, b := .rd .s, dt := tInt, sub := 7, x4 := 5 < fld f.sub 0 3 })
  | .cmp (.i f) => some (ofI f { d := .wr .p, a := .rd .s, dt := tInt, x4 := 5 < fld f.imm 29 3 })
  | .tst (.r f) => some (ofR f { d := .wr .p, a := .rd .s, b := .rd .s, dt := tInt, sub := 1 })
  | .tst (.i f) => some (ofI f { d := .wr .p, a := .rd .s, dt := tInt })
  | .lea f => some (ofM f { d := .wr .a, idx := .rd .s })
  | .adda (.r f) | .suba (.r f) => some (ofR f { d := .wr .a, a := .rd .a, b := .rd .s })
  | .adda (.i f) | .suba (.i f) => some (ofI f { d := .wr .a, a := .rd .a })
  | .sptst (.r f) => some (ofR f { d := .wr .p, a := .rd .a, sub := 0xFF })
  | .sptst (.i f) => some (ofI f { d := .wr .p, a := .rd .a, x4 := fld f.imm 8 24 != 0 })
  | .spcst (.r f) => some (ofR f { d := .wr .a, a := .rd .a, sub := 3 })
  | .spcst (.i f) => some (ofI f { d := .wr .a, a := .rd .a, x4 := fld f.imm 2 30 != 0 })
  | .awin (.r f) => some (ofR f { d := .wr .s, a := .rd .a, b := .rd .s })
  | .awin (.i f) => some (ofI f { d := .wr .s, a := .rd .a })
  | .pand f | .por f | .pxor f => some (ofR f { d := .wr .p, a := .rd .p, b := .rd .p })
  | .pnot f | .pmov f | .pany f => some (ofR f { d := .wr .p, a := .rd .p })
  | .pset f => some (ofR f { d := .wr .p, sub := 0x7F, x4 := 64 < fld f.sub 0 7 })
  | .psetReg f => some (ofR f { d := .wr .p, a := .rd .s, sub := 0x80, x4 := f.sub != 0x80 })
  | .pcnt f | .pfirst f => some (ofR f { d := .wr .s, a := .rd .p })
  | .br f => some (ofL f .zero false false)
  | .brc f => some (ofL f .raw false false [⟨.p, fld f.d 0 5⟩])
  | .bri f | .ret f => some (ofR f { a := .rd .a, guarded := false })
  | .call f => some (ofL f (.wr .a) false false)
  | .calli f => some (ofR f { d := .wr .a, a := .rd .a, guarded := false })
  | .loop f => some (ofL f (.rd .s) false false)
  | .lbrk f => some (ofR f { a := .rd .p, sub := 0xF, guarded := false, x4 := fld f.sub 0 3 = 0 || fld f.sub 0 3 = 7, all4 := true })
  | .lcnt f => some (ofR f { d := .wr .s, sub := 0xF, x4 := 5 < fld f.sub 0 3, moreReads := [⟨.lc, fld f.sub 0 3⟩] })
  | .halt f => some (ofR f { guarded := false })
  | .fadd f | .fsub f | .fmul f | .fdiv f | .fmin f | .fmax f => some (fp2 f (.wr .s) 0)
  | .ffma (.r f) => some (ofR f { d := .wr .s, a := .rd .s, b := .rd .s, c := .rd .s, dt := tF, rm := rm3 })
  | .ffma (.i f) => some (ofI f { d := .rw .s, a := .rd .s, dt := tF, x4 := badFloatImm f.dt f.imm })
  | .fsqrt f | .fclass f => some (fp1 f)
  | .fcmp f => some (fp2 f (.wr .p) 7)
  | .fcvt (.r f) => some (ofR f { d := .wr .s, a := .rd .s, dt := tInt ||| tF, st := tInt ||| tF, rm := rm4,
                                  sat := decide (8 < f.dt.toNat), x5 := fcvtBad f.dt f.st })
  | .fcvt (.i f) => some (ofI f { d := .wr .s, dt := tInt ||| tF })
  | .ld f => some (ofM f { d := .wr (dataFile f.dt), idx := .rd .s, dt := tLd, chk := true })
  | .st f => some (ofM f { d := .rd (dataFile f.dt), idx := .rd .s, dt := tLd })
  | .ldl f => some (ofM f { d := .wr (dataFile f.dt), idx := .rd .s, dt := tLd, xA := fld f.disp 7 10 = 0 })
  | .vldl f => some (ofM f { d := .wr .v, idx := .rd .s, xA := fld f.disp 7 10 = 0 })
  | .prb f => some (ofM f { d := .rd .s, idx := .rd .s })
  | .atom f => some (atom f)
  | .atomf f => some (atomf f)
  | .cas f => some (cas f)
  | .amaxr f => some (ofM f { d := .wr .s, dt := 0x180, disp0 := 0x3C00, x4 := scopeBad f })
  | .bind f => some (ofM f { d := .rd .a, idx := .rd .s, disp0 := 0x3C00, x4 := scopeBad f })
  | .unbnd f => some (ofM f { d := .rd .a, idx := .rd .s, disp0 := 0x1FC00 })
  | .acq f => some (ofM f { d := .wr .s, idx := .rd .s, disp0 := 0x3C00, x4 := scopeBad f })
  | .rel f => some (ofM f { disp0 := 0x3C00, x4 := scopeBad f })
  | .fence f => some (sync f .zero .zero .zero 7 true true fun x => 4 < fld x 0 3)
  | .waittl f => some (sync f .zero (.rd .s) .zero 0xF false true fun _ => false)
  | .waittlArm f => some (sync f .zero (.rd .s) .zero 0x1F false true fun x => !x.getLsbD 4)
  | .tlrd f => some (sync f (.wr .s) .zero .zero 0x3F true true fun x => fld x 4 2 = 3)
  | .tlrdClear f => some (sync f (.wr .s) .zero .zero 0x3F true true fun x => fld x 4 2 != 3)
  | .bar f => some (sync f (.wr .s) (.rd .s) .zero 0xF false true fun _ => false)
  | .arv f => some (sync f (.wr .s) (.rd .s) .zero 0xF false true fun _ => false)
  | .arvGated f => some (ofR f { b := .rd .s, c := .rd .s, sub := 0x1FF, x4 := !f.sub.getLsbD 4 })
  | .waitb f => some (sync f .zero (.rd .s) .zero 0xF false true fun _ => false)
  | .waitbArm f => some (sync f .zero (.rd .s) .zero 0x1F false true fun x => !x.getLsbD 4)
  | .sstep f => some (sync f .zero .zero .zero 7 true false fun x => 4 < fld x 0 3)
  | .rstk f => some (ofM f { d := .rd (dataFile f.dt), idx := .wr .k, dt := tLd, disp0 := 0x1FC00 })
  | .rstd f => some (ofM f { d := .rd (dataFile f.dt), dt := tLd, disp0 := 1, moreReads := kMask (fld f.disp 1 16) })
  | .ratom f => some (ratom f)
  | .tkwt f => some (ofR f { a := .raw, sub := 0xF, x4 := kRangeBad f, moreReads := kRange f })
  | .tkrd f => some (ofR f { d := .wr .s, a := .rd .k })
  | .tkclr f => some (ofR f { a := .raw, sub := 0xF, x4 := kRangeBad f, moreWrites := kRange f })
  | .trap f | .dbrk f => some (coded f)
  | .eretResume (.r f) => some (ofR f { guarded := false, all4 := true })
  | .eretResume (.i f) => some (ofI f { guarded := false, all4 := true, x4 := f.imm != 0 })
  | .eretSkip (.r f) => some (ofR f { guarded := false, all4 := true, sub := 1, x4 := f.sub != 1 })
  | .eretSkip (.i f) => some (ofI f { guarded := false, all4 := true, x4 := f.imm != 1 })
  | .eretRedirect f => some (ofR f { a := .rd .a, guarded := false, all4 := true, sub := 2, x4 := f.sub != 2 })
  | .uiret f | .yield f => some (bare f)
  | .crd (.r f) => some (ofR f { d := .wr .s, sub := 0x3FF, all4 := true, x4 := !crListed f.sub.toNat, moreReads := [⟨.cr, f.sub.toNat⟩] })
  | .crd (.i f) => some (ofI f { d := .wr .s, all4 := true, x4 := !crListed f.imm.toNat, moreReads := [⟨.cr, f.imm.toNat⟩] })
  | .cwr (.r f) => some (ofR f { a := .rd .s, sub := 0x3FF, all4 := true, x4 := !crListed f.sub.toNat, moreWrites := [⟨.cr, f.sub.toNat⟩] })
  | .cwr (.i f) =>
    let n := f.d.toNat * 64 + f.a.toNat
    some (ofI f { d := .raw, a := .raw, all4 := true, x4 := !crListed n, moreWrites := [⟨.cr, n⟩] })
  | .wfe (.r f) => some (ofR f { d := .wr .s, b := .rd .s })
  | .wfe (.i f) => some (ofI f { d := .wr .s })
  | .launch (.r f) => some (ofR f { d := .wr .s, a := .rd .a, guarded := false, all4 := true })
  | .launch (.i f) => some (ofI f { d := .wr .s, a := .rd .a, guarded := false, all4 := true })
  | .prmt (.r f) => some (ofR f { d := .wr .s, a := .rd .s })
  | .prmt (.i f) => some (ofI f { d := .wr .s, x4 := fld f.imm 2 30 != 0 })
  | .save (.r f) => some (ofR f { a := .rd .a, guarded := false, sub := 0xF })
  | .save (.i f) => some (ofI f { a := .rd .a, guarded := false, x4 := fld f.imm 4 28 != 0 })
  | .ccmt f | .cref f | .cseq f | .capp f | .cstb f => some (ctxI f (.wr .s) (.rd .a) (.rd .s) .zero 0)
  | .crpl f | .ctrn f => some (ctxI f (.wr .s) (.rd .a) (.rd .s) .zero 1)
  | .cckp f | .cres f | .cmap f => some (ctxI f (.wr .s) (.rd .a) (.rd .s) (.rd .s) 0)
  | .cfrec f => some (ctxI f (.wr .a) (.rd .a) (.rd .s) .zero 0)
  | .cpin f => some (ctxI f (.wr .s) (.rd .a) (.rd .s) (.rd .a) 0)
  | .catt f => some { ctxI f .zero (.rd .a) (.rd .s) .zero 0 with reads := [⟨.a, f.a.toNat⟩, ⟨.s, f.b.toNat⟩, ⟨.cr, 0x1B⟩] }
  | .vadd f | .vsub f | .vmul f => some (vfp f (.rd .v) .zero rm3 true false)
  | .vfma f | .vfms f | .vfnma f => some (vfp f (.rd .v) (.rd .v) rm3 true true)
  | .vmin f | .vmax f => some (vfp f (.rd .v) .zero 1 true false)
  | .vabs f | .vneg f => some (vfp f .zero .zero 1 false false)
  | .vcps f => some (vfp f (.rd .v) .zero 1 false false)
  | .vrcps f | .vrsqs f | .vexp2s f | .vlog2s f =>
    some (ofR f { d := .wr .v, a := .rd .v, dt := 0x200, sub := 0x3F0, x4 := ivpBad f.sub, moreWrites := ivpWrites f.sub })
  | .vcvt f => some (vcvt f)
  | .vpack f => some (vpack f)
  | .vunpk f => some (vunpk f)
  | .vcmp f => some (vcmp f)
  | .vsel f => some (ofR f { d := .wr .v, a := .rd .v, b := .rd .v, c := .rd .p })
  | .vmov f => some (ofR f { d := .wr .v, a := .rd .v })
  | .vbcst (.r f) => some (ofR f { d := .wr .v, a := .rd .s, dt := tF ||| tV8 })
  | .vbcst (.i f) => some (ofI f { d := .wr .v, dt := tF ||| tV8, x4 := badFloatImm f.dt f.imm })
  | .viota f => some (ofR f { d := .wr .v, a := .rd .s, dt := tV16, sub := 0xFF })
  | .vshf f => some (ofR f { d := .wr .v, a := .rd .v, b := .rd .v, sub := 0x7F, x4 := 64 < fld f.sub 0 7 })
  | .vperm f => some (ofR f { d := .wr .v, a := .rd .v, b := .rd .v, dt := 0xC0 })
  | .vrot f =>
    if f.sub.getLsbD 6 then some (ofR f { d := .wr .v, a := .rd .v, b := .rd .s, sub := 0x40 })
    else some (ofR f { d := .wr .v, a := .rd .v, sub := 0x3F })
  | .vred f => some (vred f 7)
  | .vscan f => some (vred f 0xF)
  | .viadd f | .visub f | .vimul f | .vshl f => some (vint f true true)
  | .vand f | .vor f | .vxor f | .vshr f | .vsra f => some (vint f true false)
  | .vclz f | .vpopc f => some (vint f false false)
  | .vord f => some (ofR f { d := .wr .v, a := .rd .v, dt := tF ||| tV16, sub := 3 })
  | .vdig f => some (ofR f { d := .wr .v, a := .rd .v, dt := 0xC0, sub := 0x1FF,
                             x4 := (tWidth f.dt.toNat = 16 && 15 < fld f.sub 0 5) || fld f.sub 5 4 = 0 || 8 < fld f.sub 5 4 })
  | .vamax f => some (ofR f { d := .rw .v, a := .rd .v, dt := tF })
  | .vqnt f => some (ofR f { d := .rw .v, a := .rd .v, c := .rw .v, dt := 0x20000, st := 0x200, rm := rm4, sat := true,
                             sub := 0x1F, x4 := f.d == f.c })
  | .vdqnt f => some (ofR f { d := .wr .v, a := .rd .v, c := .rd .v, dt := 0x200, st := 0x20000, sub := 7 })
  | .vld f => some (ofM f { d := .wr .v, idx := .rd .s, chk := true })
  | .vst f => some (ofM f { d := .rd .v, idx := .rd .s })
  | .vldg f => some (ofM f { d := .wr .v, idx := .rd .v, chk := true })
  | .vsts f => some (ofM f { d := .rd .v, idx := .rd .v })
  | .vhadd f => some (ofM f { d := .rd .v, idx := .rd .v, dt := 0x288 })
  | .go2d f => some (geo f 6 3)
  | .go3d f => some (geo f 12 4)
  | .ginc f | .gseg f => some (geo f 8 4)
  | .gins f => some (geo f 15 5)
  | .tclm f | .trls f => some (ofR f { d := .rw .ts, all4 := true })
  | .tld f => some (ofM f { d := .rd .ts, idx := .rd .s, chk := true })
  | .mma f => some (mma f false)
  | .mmas f => some (mma f true)
  | .mzro f => some (ofR f { d := .wr .z, all4 := true })
  | .mst f => some (mst f)
  | .macc f => some (ofR f { d := .rw .z, a := .rd .z, all4 := true })
  | .mtrn f => some (ofR f { d := .wr .z, a := .rd .z, all4 := true })
  | .bdset (.r f) => some (ofR f { d := .wr .bd, a := .rd .s })
  | .bdset (.i f) => some (ofI f { d := .wr .bd, all4 := true, x4 := f.imm.toNat = 0 || 512 < f.imm.toNat })
  | .cord f => some (ofM f { d := .raw, idx := .rd .s, chk := true, x4 := f.d.getLsbD 5 })
  | .tcon f => some (ofR f { sub := 0x1F, all4 := true, moreReads := [⟨.cr, 0x14⟩, ⟨.cr, 0x15⟩], moreWrites := [⟨.cr, 0x15⟩] })
  | .tchn f => some (ofR f { sub := 0xF, all4 := true, moreReads := [⟨.cr, 0x14⟩, ⟨.cr, 0x15⟩], moreWrites := [⟨.cr, 0x15⟩] })
  | .tbnd f => some (ofR f { a := .rd .s, all4 := true, moreWrites := [⟨.cr, 0x15⟩] })
  | .qld f => some (ofM f { d := .wr .sl, idx := .rd .s, chk := true })
  | .qset (.r f) => some (ofR f { d := .wr .sl, a := .rd .s })
  | .qset (.i f) => some (ofI f { d := .wr .sl, x4 := fld f.imm 8 24 != 0 })
  | .cpy f | .tmov f | .gsx f | .xlnk f => some (ofC f (.rd .a) .zero (f.sub == 0) true true)
  | .fstt f => some (ofC f (.rd .a) (.rd .s) (laneAny f) false false)
  | .fstl f => some (ofC f (.rd .a) .zero (laneBase f) true true)
  | .wstr f => some (ofC f (.rd .a) (.rd .ts) (laneBase f) true false)
  | .tful f | .temp f => some (ofC f .zero (.rd .s) (f.sub == 0) false false)
  | _ => none

/-- The lowest cause code of R143 among the field rules an instruction breaks, 0x04, 0x05, 0x06 or 0x0A; `none` when its
fields are legal. An event of the machine breaks none. -/
def cause (i : Instr) : Option Byte :=
  match legal i with
  | none => none
  | some l => if l.bad4 then some 4 else if l.bad5 then some 5 else if l.bad6 then some 6 else if l.badA then some 0xA else none

/-- The guard of a word: predicate register and inversion (R120). -/
def guard : Instr → BitVec 5 × Bool
  | .add f | .sub f | .mul f | .mulh f | .mulhb f | .div f | .divb f | .rem f | .remb f | .neg f | .abs f | .min f | .max f
  | .minb f | .maxb f | .and f | .or f | .xor f | .andn f | .shl f | .shr f | .sra f | .rot f | .clz f | .ctz f | .popc f
  | .bswap f | .bfx f | .bfi f | .ext f | .sel f | .mov f | .cmp f | .tst f | .adda f | .suba f | .sptst f | .spcst f
  | .awin f | .fadd f | .fsub f | .fmul f | .ffma f | .fdiv f | .fsqrt f | .fmin f | .fmax f | .fcmp f | .fcvt f | .fclass f
  | .fence f | .waittl f | .waittlArm f | .tlrd f | .tlrdClear f | .bar f | .arv f | .waitb f | .waitbArm f | .sstep f
  | .trap f | .eretResume f | .eretSkip f | .uiret f | .crd f | .cwr f | .yield f | .wfe f | .dbrk f | .launch f | .prmt f
  | .save f | .vadd f | .vsub f | .vmul f | .vfma f | .vfms f | .vfnma f | .vmin f | .vmax f | .vabs f | .vneg f | .vcps f
  | .vbcst f | .viadd f | .visub f | .vimul f | .vand f | .vor f | .vxor f | .vshl f | .vshr f | .vsra f | .vclz f | .vpopc f
  | .bdset f | .qset f =>
    match f with
    | .r f => (f.pred, f.pneg)
    | .i f => (f.pred, f.pneg)
  | .pand f | .por f | .pxor f | .pnot f | .pmov f | .pset f | .psetReg f | .pcnt f | .pfirst f | .pany f | .bri f | .calli f
  | .ret f | .lbrk f | .lcnt f | .halt f | .tkwt f | .tkrd f | .tkclr f | .arvGated f | .eretRedirect f | .ccmt f | .cckp f
  | .crpl f | .cfrec f | .cres f | .cmap f | .cref f | .cpin f | .cseq f | .ctrn f | .vrcps f | .vrsqs f | .vexp2s f
  | .vlog2s f | .vcvt f | .vpack f | .vunpk f | .vcmp f | .vsel f | .vmov f | .viota f | .vshf f | .vperm f | .vrot f
  | .vred f | .vscan f | .vord f | .vdig f | .vamax f | .vqnt f | .vdqnt f | .go2d f | .go3d f | .ginc f | .gins f | .gseg f
  | .tclm f | .trls f | .mma f | .mmas f | .mzro f | .macc f | .mtrn f | .tcon f | .tchn f | .tbnd f | .catt f | .capp f
  | .cstb f => (f.pred, f.pneg)
  | .movi f | .movh f => (f.pred, f.pneg)
  | .lea f | .ld f | .st f | .ldl f | .vldl f | .prb f | .atom f | .atomf f | .cas f | .amaxr f | .bind f | .unbnd f | .acq f
  | .rel f | .rstk f | .rstd f | .ratom f | .vld f | .vst f | .vldg f | .vsts f | .vhadd f | .tld f | .mst f | .cord f
  | .qld f => (f.pred, f.pneg)
  | .br f | .brc f | .call f | .loop f | .moviLong f => (f.pred, f.pneg)
  | .cpy f | .tmov f | .gsx f | .fstt f | .fstl f | .xlnk f | .wstr f | .tful f | .temp f => (f.pred, f.pneg)
  | _ => (0, false)

/-- s0 and p0 are exempt from R69. -/
def exempt (r : Reg) : Bool := r.num = 0 && (r.file = .s || r.file = .p)

/-- The registers an instruction reads for R69: the operands, in the order of R451, and the guard predicate. -/
def reads (i : Instr) : List Reg :=
  match legal i with
  | none => []
  | some l => (l.reads ++ [(⟨.p, (guard i).1.toNat⟩ : Reg)]).filter fun r => !exempt r

/-- The registers an instruction writes for R69. -/
def writes (i : Instr) : List Reg :=
  match legal i with
  | none => []
  | some l => l.writes.filter fun r => !exempt r

/-- The generator register of a slot (R43). -/
def seedOf (k : Nat) : List Reg :=
  match k with
  | 0 => [⟨.cr, 0x00D⟩]
  | 1 => [⟨.cr, 0x009⟩]
  | 2 => [⟨.cr, 0x00A⟩]
  | 3 => [⟨.cr, 0x00B⟩]
  | _ => []

/-- An operation that rounds stochastically, which advances its slot's generator (R42, R43). -/
def stochastic : Instr → Bool
  | .fcvt (.r f) | .vcvt f | .vpack f | .vqnt f => f.rm == 4
  | .mst f => fld f.disp 14 3 = 4
  | _ => false

/-- The registers that an operation of slot `k` reads for R69, its slot's generator among them. -/
def readsAt (k : Nat) (i : Instr) : List Reg := reads i ++ if stochastic i then seedOf k else []
/-- The registers that an operation of slot `k` writes for R69, its slot's generator among them. -/
def writesAt (k : Nat) (i : Instr) : List Reg := writes i ++ if stochastic i then seedOf k else []

/-- The registers that an operation of slot `k` captures at issue, in the order of R451 (s0 included, the guard apart), its slot's
generator last (R319). (DEDUCED, log 120) -/
def captured (k : Nat) (i : Instr) : List Reg :=
  match legal i with
  | none => []
  | some l => l.reads ++ if stochastic i then seedOf k else []

end Legality
end Sys2Proof
end

