-- ==== Sys2Proof/WellFormed.lean ====
section
/-! DEFINITION. When an instruction is well formed: its fields break no rule of R141 that concerns one word alone. The rules
that concern a whole issue (R69, R73, R137) are checked at dispatch. -/

namespace Sys2Proof

/-- The instruction is an operation of a slot, not an event of the machine. -/
def Instr.isOp (i : Instr) : Bool := (Legality.legal i).isSome

/-- Its fields obey R122, R123, R129, R130, R79 and its own description. An event of the machine is always well formed. -/
def Instr.WellFormed (i : Instr) : Prop := Legality.cause i = none

/-- Well-formedness as a test. -/
def Instr.wellFormed (i : Instr) : Bool := Legality.cause i = none

/-- The test decides the proposition. -/
theorem Instr.wellFormed_iff (i : Instr) : i.wellFormed = true ↔ i.WellFormed := by
  simp [Instr.wellFormed, Instr.WellFormed]

end Sys2Proof
end

