-- ==== Sys2Proof/Decode.lean ====
section
/-! DEFINITION. The decoder and the encoder: bundle headers (R118), slot words and body formats (R120 to R128), the opcode map
(R138 to R140). Decoding is total; a word that encodes no operation is refused with its cause code (R143). -/

namespace Sys2Proof
namespace Decode

/-- FMT of a slot word (R120). -/
def fmtOf (w : Word) : Nat := Bits.fld w 48 2

/-- The register form of a word (R120, R124). -/
def unpackR (w : Word) : RForm :=
  { pred := w.extractLsb' 51 5, pneg := w.getLsbD 50, d := w.extractLsb' 42 6, a := w.extractLsb' 36 6
    b := w.extractLsb' 30 6, c := w.extractLsb' 24 6, dt := w.extractLsb' 19 5, st := w.extractLsb' 14 5
    rm := w.extractLsb' 11 3, sat := w.getLsbD 10, sub := w.extractLsb' 0 10 }

/-- The immediate form of a word (R125). -/
def unpackI (w : Word) : IForm :=
  { pred := w.extractLsb' 51 5, pneg := w.getLsbD 50, d := w.extractLsb' 42 6, a := w.extractLsb' 36 6
    dt := w.extractLsb' 32 4, imm := w.extractLsb' 0 32 }

/-- The memory form of a word (R126). -/
def unpackM (w : Word) : MForm :=
  { pred := w.extractLsb' 51 5, pneg := w.getLsbD 50, d := w.extractLsb' 42 6, base := w.extractLsb' 37 5
    idx := w.extractLsb' 31 6, chk := w.getLsbD 30, step := w.extractLsb' 22 8, dt := w.extractLsb' 17 5
    disp := w.extractLsb' 0 17 }

/-- The long form of a word (R127). -/
def unpackL (w : Word) : LForm :=
  { pred := w.extractLsb' 51 5, pneg := w.getLsbD 50, d := w.extractLsb' 42 6, imm := w.extractLsb' 0 42 }

/-- The command form of a word (R128). -/
def unpackC (w : Word) : CForm :=
  { pred := w.extractLsb' 51 5, pneg := w.getLsbD 50, delay := w.extractLsb' 40 8, desc := w.extractLsb' 35 5
    tc := w.extractLsb' 31 4, steps := w.extractLsb' 23 8, stepd := w.extractLsb' 15 8, aux := w.extractLsb' 9 6
    sub := w.extractLsb' 0 9 }

/-- An operation of FMT 0b00 and 0b01. -/
def ri (k : RI → Instr) (fmt : Nat) (w : Word) : Option Instr :=
  match fmt with
  | 0 => some (k (.r (unpackR w)))
  | 1 => some (k (.i (unpackI w)))
  | _ => none

/-- An operation of FMT 0b00 alone. -/
def rOnly (k : RForm → Instr) (fmt : Nat) (w : Word) : Option Instr := if fmt = 0 then some (k (unpackR w)) else none

/-- An operation of FMT 0b01 alone. -/
def iOnly (k : IForm → Instr) (fmt : Nat) (w : Word) : Option Instr := if fmt = 1 then some (k (unpackI w)) else none

/-- An operation of FMT 0b10 alone. -/
def mOnly (k : MForm → Instr) (fmt : Nat) (w : Word) : Option Instr := if fmt = 2 then some (k (unpackM w)) else none

/-- A long-form operation (FMT 0b11 of the S class). -/
def lOnly (k : LForm → Instr) (fmt : Nat) (w : Word) : Option Instr := if fmt = 3 then some (k (unpackL w)) else none

/-- A command (FMT 0b11 of the C class). -/
def cOnly (k : CForm → Instr) (fmt : Nat) (w : Word) : Option Instr := if fmt = 3 then some (k (unpackC w)) else none

/-- MOVI: the typed immediate form and the long form (R152). -/
def movi3 (fmt : Nat) (w : Word) : Option Instr :=
  match fmt with
  | 1 => some (.movi (unpackI w))
  | 3 => some (.moviLong (unpackL w))
  | _ => none

/-- PSET: SUB[7] tells the register source from the count (R163). -/
def pset (fmt : Nat) (w : Word) : Option Instr :=
  rOnly (fun f => if f.sub.getLsbD 7 then .psetReg f else .pset f) fmt w

/-- SUB of a sync operation in either form (R271). -/
def subOf : RI → BitVec 10
  | .r f => f.sub
  | .i f => Legality.subI f

/-- WAITTL: SUB[4] is ARM (R274). -/
def waittl (fmt : Nat) (w : Word) : Option Instr :=
  ri (fun f => if (subOf f).getLsbD 4 then .waittlArm f else .waittl f) fmt w

/-- TLRD: SUB[5:4] is sel, and sel 3 clears (R275). -/
def tlrd (fmt : Nat) (w : Word) : Option Instr :=
  ri (fun f => if Bits.fld (subOf f) 4 2 = 3 then .tlrdClear f else .tlrd f) fmt w

/-- ARV: SUB[4] is GATE; a gated ARV in the immediate form keeps its bit and is refused by its field rules (R277). -/
def arv (fmt : Nat) (w : Word) : Option Instr :=
  ri (fun f =>
    match f with
    | .r g => if g.sub.getLsbD 4 then .arvGated g else .arv f
    | .i _ => .arv f) fmt w

/-- WAITB: SUB[4] is ARM (R277). -/
def waitb (fmt : Nat) (w : Word) : Option Instr :=
  ri (fun f => if (subOf f).getLsbD 4 then .waitbArm f else .waitb f) fmt w

/-- ERET: the mode is SUB[1:0] or IMM[1:0]; modes without a meaning fall to mode 0, whose field rules refuse them (R321). -/
def eret (fmt : Nat) (w : Word) : Option Instr :=
  ri (fun f =>
    match f with
    | .r g => if Bits.fld g.sub 0 2 = 1 then .eretSkip f else if Bits.fld g.sub 0 2 = 2 then .eretRedirect g else .eretResume f
    | .i g => if Bits.fld g.imm 0 2 = 1 then .eretSkip f else .eretResume f) fmt w

/-- The operations of the S class by OP (R138); `none` where the OP is unassigned. (DEDUCED, log 34) -/
def mapS (op : Nat) : Option (Nat → Word → Option Instr) :=
  match op with
  | 0x01 => some (ri .add)
  | 0x02 => some (ri .sub)
  | 0x03 => some (ri .mul)
  | 0x04 => some (ri .mulh)
  | 0x05 => some (ri .mulhb)
  | 0x06 => some (ri .div)
  | 0x07 => some (ri .divb)
  | 0x08 => some (ri .rem)
  | 0x09 => some (ri .remb)
  | 0x0a => some (ri .neg)
  | 0x0b => some (ri .abs)
  | 0x0c => some (ri .min)
  | 0x0d => some (ri .max)
  | 0x0e => some (ri .minb)
  | 0x0f => some (ri .maxb)
  | 0x10 => some (ri .and)
  | 0x11 => some (ri .or)
  | 0x12 => some (ri .xor)
  | 0x13 => some (ri .andn)
  | 0x14 => some (ri .shl)
  | 0x15 => some (ri .shr)
  | 0x16 => some (ri .sra)
  | 0x17 => some (ri .rot)
  | 0x18 => some (ri .clz)
  | 0x19 => some (ri .ctz)
  | 0x1a => some (ri .popc)
  | 0x1b => some (ri .bswap)
  | 0x1c => some (ri .bfx)
  | 0x1d => some (ri .bfi)
  | 0x1e => some (ri .ext)
  | 0x1f => some (ri .sel)
  | 0x20 => some (ri .mov)
  | 0x21 => some movi3
  | 0x22 => some (iOnly .movh)
  | 0x23 => some (ri .cmp)
  | 0x24 => some (ri .tst)
  | 0x28 => some (mOnly .lea)
  | 0x29 => some (ri .adda)
  | 0x2a => some (ri .suba)
  | 0x2b => some (ri .sptst)
  | 0x2c => some (ri .spcst)
  | 0x2d => some (ri .awin)
  | 0x30 => some (rOnly .pand)
  | 0x31 => some (rOnly .por)
  | 0x32 => some (rOnly .pxor)
  | 0x33 => some (rOnly .pnot)
  | 0x34 => some (rOnly .pmov)
  | 0x35 => some pset
  | 0x36 => some (rOnly .pcnt)
  | 0x37 => some (rOnly .pfirst)
  | 0x38 => some (rOnly .pany)
  | 0x40 => some (lOnly .br)
  | 0x41 => some (lOnly .brc)
  | 0x42 => some (rOnly .bri)
  | 0x43 => some (lOnly .call)
  | 0x44 => some (rOnly .calli)
  | 0x45 => some (rOnly .ret)
  | 0x46 => some (lOnly .loop)
  | 0x47 => some (rOnly .lbrk)
  | 0x48 => some (rOnly .lcnt)
  | 0x49 => some (rOnly .halt)
  | 0x50 => some (ri .fadd)
  | 0x51 => some (ri .fsub)
  | 0x52 => some (ri .fmul)
  | 0x53 => some (ri .ffma)
  | 0x54 => some (ri .fdiv)
  | 0x55 => some (ri .fsqrt)
  | 0x56 => some (ri .fmin)
  | 0x57 => some (ri .fmax)
  | 0x58 => some (ri .fcmp)
  | 0x59 => some (ri .fcvt)
  | 0x5a => some (ri .fclass)
  | 0x60 => some (mOnly .ld)
  | 0x61 => some (mOnly .st)
  | 0x62 => some (mOnly .ldl)
  | 0x63 => some (mOnly .vldl)
  | 0x64 => some (mOnly .prb)
  | 0x68 => some (mOnly .atom)
  | 0x69 => some (mOnly .atomf)
  | 0x6a => some (mOnly .cas)
  | 0x6b => some (mOnly .amaxr)
  | 0x6c => some (mOnly .bind)
  | 0x6d => some (mOnly .unbnd)
  | 0x6e => some (mOnly .acq)
  | 0x6f => some (mOnly .rel)
  | 0x70 => some (ri .fence)
  | 0x71 => some waittl
  | 0x72 => some tlrd
  | 0x73 => some (ri .bar)
  | 0x74 => some arv
  | 0x75 => some waitb
  | 0x76 => some (ri .sstep)
  | 0x78 => some (mOnly .rstk)
  | 0x79 => some (mOnly .rstd)
  | 0x7a => some (mOnly .ratom)
  | 0x7b => some (rOnly .tkwt)
  | 0x7c => some (rOnly .tkrd)
  | 0x7d => some (rOnly .tkclr)
  | 0x80 => some (ri .trap)
  | 0x81 => some eret
  | 0x82 => some (ri .uiret)
  | 0x83 => some (ri .crd)
  | 0x84 => some (ri .cwr)
  | 0x85 => some (ri .yield)
  | 0x86 => some (ri .wfe)
  | 0x87 => some (ri .dbrk)
  | 0x88 => some (ri .launch)
  | 0x89 => some (ri .prmt)
  | 0x8a => some (ri .save)
  | 0x90 => some (rOnly .ccmt)
  | 0x91 => some (rOnly .cckp)
  | 0x92 => some (rOnly .crpl)
  | 0x93 => some (rOnly .cfrec)
  | 0x94 => some (rOnly .cres)
  | 0x95 => some (rOnly .cmap)
  | 0x96 => some (rOnly .cref)
  | 0x97 => some (rOnly .cpin)
  | 0x98 => some (rOnly .cseq)
  | 0x99 => some (rOnly .ctrn)
  | _ => none

/-- The operations of the V class by OP (R139); `none` where the OP is unassigned. -/
def mapV (op : Nat) : Option (Nat → Word → Option Instr) :=
  match op with
  | 0x01 => some (ri .vadd)
  | 0x02 => some (ri .vsub)
  | 0x03 => some (ri .vmul)
  | 0x04 => some (ri .vfma)
  | 0x05 => some (ri .vfms)
  | 0x06 => some (ri .vfnma)
  | 0x07 => some (ri .vmin)
  | 0x08 => some (ri .vmax)
  | 0x09 => some (ri .vabs)
  | 0x0a => some (ri .vneg)
  | 0x0b => some (ri .vcps)
  | 0x10 => some (rOnly .vrcps)
  | 0x11 => some (rOnly .vrsqs)
  | 0x12 => some (rOnly .vexp2s)
  | 0x13 => some (rOnly .vlog2s)
  | 0x18 => some (rOnly .vcvt)
  | 0x19 => some (rOnly .vpack)
  | 0x1a => some (rOnly .vunpk)
  | 0x20 => some (rOnly .vcmp)
  | 0x21 => some (rOnly .vsel)
  | 0x22 => some (rOnly .vmov)
  | 0x23 => some (ri .vbcst)
  | 0x24 => some (rOnly .viota)
  | 0x25 => some (rOnly .vshf)
  | 0x26 => some (rOnly .vperm)
  | 0x27 => some (rOnly .vrot)
  | 0x28 => some (rOnly .vred)
  | 0x29 => some (rOnly .vscan)
  | 0x30 => some (ri .viadd)
  | 0x31 => some (ri .visub)
  | 0x32 => some (ri .vimul)
  | 0x33 => some (ri .vand)
  | 0x34 => some (ri .vor)
  | 0x35 => some (ri .vxor)
  | 0x36 => some (ri .vshl)
  | 0x37 => some (ri .vshr)
  | 0x38 => some (ri .vsra)
  | 0x39 => some (ri .vclz)
  | 0x3a => some (ri .vpopc)
  | 0x40 => some (rOnly .vord)
  | 0x41 => some (rOnly .vdig)
  | 0x48 => some (rOnly .vamax)
  | 0x49 => some (rOnly .vqnt)
  | 0x4a => some (rOnly .vdqnt)
  | 0x50 => some (mOnly .vld)
  | 0x51 => some (mOnly .vst)
  | 0x52 => some (mOnly .vldg)
  | 0x53 => some (mOnly .vsts)
  | 0x54 => some (mOnly .vhadd)
  | 0x60 => some (rOnly .go2d)
  | 0x61 => some (rOnly .go3d)
  | 0x62 => some (rOnly .ginc)
  | 0x63 => some (rOnly .gins)
  | 0x64 => some (rOnly .gseg)
  | _ => none

/-- The operations of the M class by OP (R140); `none` where the OP is unassigned. -/
def mapM (op : Nat) : Option (Nat → Word → Option Instr) :=
  match op with
  | 0x01 => some (rOnly .tclm)
  | 0x02 => some (rOnly .trls)
  | 0x03 => some (mOnly .tld)
  | 0x04 => some (rOnly .mma)
  | 0x05 => some (rOnly .mmas)
  | 0x06 => some (rOnly .mzro)
  | 0x07 => some (mOnly .mst)
  | 0x08 => some (rOnly .macc)
  | 0x09 => some (rOnly .mtrn)
  | 0x10 => some (ri .bdset)
  | 0x11 => some (mOnly .cord)
  | 0x12 => some (rOnly .tcon)
  | 0x13 => some (rOnly .tchn)
  | 0x14 => some (rOnly .tbnd)
  | 0x20 => some (rOnly .catt)
  | 0x21 => some (rOnly .capp)
  | 0x22 => some (rOnly .cstb)
  | _ => none

/-- The operations of the Q class by OP (R140); `none` where the OP is unassigned. -/
def mapQ (op : Nat) : Option (Nat → Word → Option Instr) :=
  match op with
  | 0x01 => some (mOnly .qld)
  | 0x02 => some (ri .qset)
  | _ => none

/-- The operations of the C class by OP (R140); `none` where the OP is unassigned. -/
def mapC (op : Nat) : Option (Nat → Word → Option Instr) :=
  match op with
  | 0x01 => some (cOnly .cpy)
  | 0x02 => some (cOnly .tmov)
  | 0x03 => some (cOnly .gsx)
  | 0x04 => some (cOnly .fstt)
  | 0x05 => some (cOnly .fstl)
  | 0x06 => some (cOnly .xlnk)
  | 0x07 => some (cOnly .wstr)
  | 0x08 => some (cOnly .tful)
  | 0x09 => some (cOnly .temp)
  | _ => none

/-- The opcode map of a class. -/
def mapOf (cls : Class) (op : Nat) : Option (Nat → Word → Option Instr) :=
  match cls with
  | .s => mapS op
  | .v => mapV op
  | .m => mapM op
  | .q => mapQ op
  | .c => mapC op

/-- The operation a slot word holds, or the lowest cause code of R143 that applies to the word alone. (DEDUCED, log 34) -/
def slotWord (cls : Class) (w : Word) : Except Byte Instr :=
  let op := Bits.fld w 56 8
  if op = 0 then
    if w = 0 then .ok (.nop cls) else if fmtOf w != 0 then .error 3 else .error 4
  else
    match mapOf cls op with
    | none => .error 2
    | some k =>
      match k (fmtOf w) w with
      | none => .error 3
      | some i =>
        match Legality.cause i with
        | none => .ok i
        | some e => .error e

/-- The operation that OP and FMT of a slot word name, whatever its fields hold: what the dependence check sees of it (R69). -/
def rawOp (cls : Class) (w : Word) : Option Instr := (mapOf cls (Bits.fld w 56 8)).bind fun k => k (fmtOf w) w

/-- A bundle header (R118). -/
structure Header where
  /-- bits [31:21] are zero -/
  ok : Bool
  takesMeta : Bool
  rep : Nat
  sync : BitVec 7
  slots : BitVec 7
  deriving DecidableEq, Repr

/-- The fields of a header word. -/
def header (h : W32) : Header :=
  { ok := Bits.fld h 21 11 = 0, takesMeta := h.getLsbD 20, rep := Bits.fld h 14 6, sync := h.extractLsb' 7 7
    slots := h.extractLsb' 0 7 }

/-- The slots a header names, ascending. -/
def Header.named (h : Header) : List Slot := (List.finRange 7).filter fun k => h.slots.getLsbD k.val

/-- Bytes of a bundle: 4 + 8n (R116). -/
def Header.size (h : Header) : Nat := 4 + 8 * h.named.length

/-- The slot words that follow a header, in increasing slot number (R116). -/
def words : List Slot → List Byte → List (Slot × Word)
  | [], _ => []
  | k :: ks, bs => (k, Bits.leWord (bs.take 8)) :: words ks (bs.drop 8)

/-- The header and the slot words of a bundle's bytes. -/
def bundle (bs : List Byte) : Header × List (Slot × Word) :=
  let h := header (BitVec.ofNat 32 (Bits.leNat (bs.take 4)))
  (h, words h.named (bs.drop 4))

end Decode

namespace Encode

/-- The guard bits of a word (R120). -/
def guardBits (pred : BitVec 5) (pneg : Bool) : Nat := pred.toNat <<< 51 ||| pneg.toNat <<< 50

/-- A register form with FMT 0b00 (R124). -/
def packR (f : RForm) : Nat :=
  guardBits f.pred f.pneg ||| f.d.toNat <<< 42 ||| f.a.toNat <<< 36 ||| f.b.toNat <<< 30 ||| f.c.toNat <<< 24 |||
    f.dt.toNat <<< 19 ||| f.st.toNat <<< 14 ||| f.rm.toNat <<< 11 ||| f.sat.toNat <<< 10 ||| f.sub.toNat

/-- An immediate form with FMT 0b01 (R125). -/
def packI (f : IForm) : Nat :=
  guardBits f.pred f.pneg ||| 1 <<< 48 ||| f.d.toNat <<< 42 ||| f.a.toNat <<< 36 ||| f.dt.toNat <<< 32 ||| f.imm.toNat

/-- A memory form with FMT 0b10 (R126). -/
def packM (f : MForm) : Nat :=
  guardBits f.pred f.pneg ||| 2 <<< 48 ||| f.d.toNat <<< 42 ||| f.base.toNat <<< 37 ||| f.idx.toNat <<< 31 |||
    f.chk.toNat <<< 30 ||| f.step.toNat <<< 22 ||| f.dt.toNat <<< 17 ||| f.disp.toNat

/-- A long form with FMT 0b11 (R127). -/
def packL (f : LForm) : Nat := guardBits f.pred f.pneg ||| 3 <<< 48 ||| f.d.toNat <<< 42 ||| f.imm.toNat

/-- A command form with FMT 0b11 (R128). -/
def packC (f : CForm) : Nat :=
  guardBits f.pred f.pneg ||| 3 <<< 48 ||| f.delay.toNat <<< 40 ||| f.desc.toNat <<< 35 ||| f.tc.toNat <<< 31 |||
    f.steps.toNat <<< 23 ||| f.stepd.toNat <<< 15 ||| f.aux.toNat <<< 9 ||| f.sub.toNat

/-- A register or immediate form. -/
def packRI : RI → Nat
  | .r f => packR f
  | .i f => packI f

/-- The class and OP of an operation (R131, R138 to R140); `none` for an event of the machine. -/
def opCode : Instr → Option (Class × Nat)
  | .nop cls => some (cls, 0)
  | .add _ => some (.s, 0x01)
  | .sub _ => some (.s, 0x02)
  | .mul _ => some (.s, 0x03)
  | .mulh _ => some (.s, 0x04)
  | .mulhb _ => some (.s, 0x05)
  | .div _ => some (.s, 0x06)
  | .divb _ => some (.s, 0x07)
  | .rem _ => some (.s, 0x08)
  | .remb _ => some (.s, 0x09)
  | .neg _ => some (.s, 0x0a)
  | .abs _ => some (.s, 0x0b)
  | .min _ => some (.s, 0x0c)
  | .max _ => some (.s, 0x0d)
  | .minb _ => some (.s, 0x0e)
  | .maxb _ => some (.s, 0x0f)
  | .and _ => some (.s, 0x10)
  | .or _ => some (.s, 0x11)
  | .xor _ => some (.s, 0x12)
  | .andn _ => some (.s, 0x13)
  | .shl _ => some (.s, 0x14)
  | .shr _ => some (.s, 0x15)
  | .sra _ => some (.s, 0x16)
  | .rot _ => some (.s, 0x17)
  | .clz _ => some (.s, 0x18)
  | .ctz _ => some (.s, 0x19)
  | .popc _ => some (.s, 0x1a)
  | .bswap _ => some (.s, 0x1b)
  | .bfx _ => some (.s, 0x1c)
  | .bfi _ => some (.s, 0x1d)
  | .ext _ => some (.s, 0x1e)
  | .sel _ => some (.s, 0x1f)
  | .mov _ => some (.s, 0x20)
  | .movi _ => some (.s, 0x21)
  | .moviLong _ => some (.s, 0x21)
  | .movh _ => some (.s, 0x22)
  | .cmp _ => some (.s, 0x23)
  | .tst _ => some (.s, 0x24)
  | .lea _ => some (.s, 0x28)
  | .adda _ => some (.s, 0x29)
  | .suba _ => some (.s, 0x2a)
  | .sptst _ => some (.s, 0x2b)
  | .spcst _ => some (.s, 0x2c)
  | .awin _ => some (.s, 0x2d)
  | .pand _ => some (.s, 0x30)
  | .por _ => some (.s, 0x31)
  | .pxor _ => some (.s, 0x32)
  | .pnot _ => some (.s, 0x33)
  | .pmov _ => some (.s, 0x34)
  | .pset _ => some (.s, 0x35)
  | .psetReg _ => some (.s, 0x35)
  | .pcnt _ => some (.s, 0x36)
  | .pfirst _ => some (.s, 0x37)
  | .pany _ => some (.s, 0x38)
  | .br _ => some (.s, 0x40)
  | .brc _ => some (.s, 0x41)
  | .bri _ => some (.s, 0x42)
  | .call _ => some (.s, 0x43)
  | .calli _ => some (.s, 0x44)
  | .ret _ => some (.s, 0x45)
  | .loop _ => some (.s, 0x46)
  | .lbrk _ => some (.s, 0x47)
  | .lcnt _ => some (.s, 0x48)
  | .halt _ => some (.s, 0x49)
  | .fadd _ => some (.s, 0x50)
  | .fsub _ => some (.s, 0x51)
  | .fmul _ => some (.s, 0x52)
  | .ffma _ => some (.s, 0x53)
  | .fdiv _ => some (.s, 0x54)
  | .fsqrt _ => some (.s, 0x55)
  | .fmin _ => some (.s, 0x56)
  | .fmax _ => some (.s, 0x57)
  | .fcmp _ => some (.s, 0x58)
  | .fcvt _ => some (.s, 0x59)
  | .fclass _ => some (.s, 0x5a)
  | .ld _ => some (.s, 0x60)
  | .st _ => some (.s, 0x61)
  | .ldl _ => some (.s, 0x62)
  | .vldl _ => some (.s, 0x63)
  | .prb _ => some (.s, 0x64)
  | .atom _ => some (.s, 0x68)
  | .atomf _ => some (.s, 0x69)
  | .cas _ => some (.s, 0x6a)
  | .amaxr _ => some (.s, 0x6b)
  | .bind _ => some (.s, 0x6c)
  | .unbnd _ => some (.s, 0x6d)
  | .acq _ => some (.s, 0x6e)
  | .rel _ => some (.s, 0x6f)
  | .fence _ => some (.s, 0x70)
  | .waittl _ => some (.s, 0x71)
  | .waittlArm _ => some (.s, 0x71)
  | .tlrd _ => some (.s, 0x72)
  | .tlrdClear _ => some (.s, 0x72)
  | .bar _ => some (.s, 0x73)
  | .arv _ => some (.s, 0x74)
  | .arvGated _ => some (.s, 0x74)
  | .waitb _ => some (.s, 0x75)
  | .waitbArm _ => some (.s, 0x75)
  | .sstep _ => some (.s, 0x76)
  | .rstk _ => some (.s, 0x78)
  | .rstd _ => some (.s, 0x79)
  | .ratom _ => some (.s, 0x7a)
  | .tkwt _ => some (.s, 0x7b)
  | .tkrd _ => some (.s, 0x7c)
  | .tkclr _ => some (.s, 0x7d)
  | .trap _ => some (.s, 0x80)
  | .eretResume _ => some (.s, 0x81)
  | .eretSkip _ => some (.s, 0x81)
  | .eretRedirect _ => some (.s, 0x81)
  | .uiret _ => some (.s, 0x82)
  | .crd _ => some (.s, 0x83)
  | .cwr _ => some (.s, 0x84)
  | .yield _ => some (.s, 0x85)
  | .wfe _ => some (.s, 0x86)
  | .dbrk _ => some (.s, 0x87)
  | .launch _ => some (.s, 0x88)
  | .prmt _ => some (.s, 0x89)
  | .save _ => some (.s, 0x8a)
  | .ccmt _ => some (.s, 0x90)
  | .cckp _ => some (.s, 0x91)
  | .crpl _ => some (.s, 0x92)
  | .cfrec _ => some (.s, 0x93)
  | .cres _ => some (.s, 0x94)
  | .cmap _ => some (.s, 0x95)
  | .cref _ => some (.s, 0x96)
  | .cpin _ => some (.s, 0x97)
  | .cseq _ => some (.s, 0x98)
  | .ctrn _ => some (.s, 0x99)
  | .vadd _ => some (.v, 0x01)
  | .vsub _ => some (.v, 0x02)
  | .vmul _ => some (.v, 0x03)
  | .vfma _ => some (.v, 0x04)
  | .vfms _ => some (.v, 0x05)
  | .vfnma _ => some (.v, 0x06)
  | .vmin _ => some (.v, 0x07)
  | .vmax _ => some (.v, 0x08)
  | .vabs _ => some (.v, 0x09)
  | .vneg _ => some (.v, 0x0a)
  | .vcps _ => some (.v, 0x0b)
  | .vrcps _ => some (.v, 0x10)
  | .vrsqs _ => some (.v, 0x11)
  | .vexp2s _ => some (.v, 0x12)
  | .vlog2s _ => some (.v, 0x13)
  | .vcvt _ => some (.v, 0x18)
  | .vpack _ => some (.v, 0x19)
  | .vunpk _ => some (.v, 0x1a)
  | .vcmp _ => some (.v, 0x20)
  | .vsel _ => some (.v, 0x21)
  | .vmov _ => some (.v, 0x22)
  | .vbcst _ => some (.v, 0x23)
  | .viota _ => some (.v, 0x24)
  | .vshf _ => some (.v, 0x25)
  | .vperm _ => some (.v, 0x26)
  | .vrot _ => some (.v, 0x27)
  | .vred _ => some (.v, 0x28)
  | .vscan _ => some (.v, 0x29)
  | .viadd _ => some (.v, 0x30)
  | .visub _ => some (.v, 0x31)
  | .vimul _ => some (.v, 0x32)
  | .vand _ => some (.v, 0x33)
  | .vor _ => some (.v, 0x34)
  | .vxor _ => some (.v, 0x35)
  | .vshl _ => some (.v, 0x36)
  | .vshr _ => some (.v, 0x37)
  | .vsra _ => some (.v, 0x38)
  | .vclz _ => some (.v, 0x39)
  | .vpopc _ => some (.v, 0x3a)
  | .vord _ => some (.v, 0x40)
  | .vdig _ => some (.v, 0x41)
  | .vamax _ => some (.v, 0x48)
  | .vqnt _ => some (.v, 0x49)
  | .vdqnt _ => some (.v, 0x4a)
  | .vld _ => some (.v, 0x50)
  | .vst _ => some (.v, 0x51)
  | .vldg _ => some (.v, 0x52)
  | .vsts _ => some (.v, 0x53)
  | .vhadd _ => some (.v, 0x54)
  | .go2d _ => some (.v, 0x60)
  | .go3d _ => some (.v, 0x61)
  | .ginc _ => some (.v, 0x62)
  | .gins _ => some (.v, 0x63)
  | .gseg _ => some (.v, 0x64)
  | .tclm _ => some (.m, 0x01)
  | .trls _ => some (.m, 0x02)
  | .tld _ => some (.m, 0x03)
  | .mma _ => some (.m, 0x04)
  | .mmas _ => some (.m, 0x05)
  | .mzro _ => some (.m, 0x06)
  | .mst _ => some (.m, 0x07)
  | .macc _ => some (.m, 0x08)
  | .mtrn _ => some (.m, 0x09)
  | .bdset _ => some (.m, 0x10)
  | .cord _ => some (.m, 0x11)
  | .tcon _ => some (.m, 0x12)
  | .tchn _ => some (.m, 0x13)
  | .tbnd _ => some (.m, 0x14)
  | .catt _ => some (.m, 0x20)
  | .capp _ => some (.m, 0x21)
  | .cstb _ => some (.m, 0x22)
  | .qld _ => some (.q, 0x01)
  | .qset _ => some (.q, 0x02)
  | .cpy _ => some (.c, 0x01)
  | .tmov _ => some (.c, 0x02)
  | .gsx _ => some (.c, 0x03)
  | .fstt _ => some (.c, 0x04)
  | .fstl _ => some (.c, 0x05)
  | .xlnk _ => some (.c, 0x06)
  | .wstr _ => some (.c, 0x07)
  | .tful _ => some (.c, 0x08)
  | .temp _ => some (.c, 0x09)
  | _ => none

/-- The slot word of an operation without its OP field; `none` for an event of the machine. -/
def bodyOf : Instr → Option Nat
  | .nop _ => some 0
  | .add f | .sub f | .mul f | .mulh f | .mulhb f | .div f | .divb f | .rem f | .remb f | .neg f | .abs f | .min f
  | .max f | .minb f | .maxb f | .and f | .or f | .xor f | .andn f | .shl f | .shr f | .sra f | .rot f | .clz f
  | .ctz f | .popc f | .bswap f | .bfx f | .bfi f | .ext f | .sel f | .mov f | .cmp f | .tst f | .adda f | .suba f
  | .sptst f | .spcst f | .awin f | .fadd f | .fsub f | .fmul f | .ffma f | .fdiv f | .fsqrt f | .fmin f | .fmax f
  | .fcmp f | .fcvt f | .fclass f | .fence f | .waittl f | .waittlArm f | .tlrd f | .tlrdClear f | .bar f | .arv f
  | .waitb f | .waitbArm f | .sstep f | .trap f | .eretResume f | .eretSkip f | .uiret f | .crd f | .cwr f | .yield f
  | .wfe f | .dbrk f | .launch f | .prmt f | .save f | .vadd f | .vsub f | .vmul f | .vfma f | .vfms f | .vfnma f
  | .vmin f | .vmax f | .vabs f | .vneg f | .vcps f | .vbcst f | .viadd f | .visub f | .vimul f | .vand f | .vor f
  | .vxor f | .vshl f | .vshr f | .vsra f | .vclz f | .vpopc f | .bdset f | .qset f => some (packRI f)
  | .movi f | .movh f => some (packI f)
  | .moviLong f | .br f | .brc f | .call f | .loop f => some (packL f)
  | .lea f | .ld f | .st f | .ldl f | .vldl f | .prb f | .atom f | .atomf f | .cas f | .amaxr f | .bind f | .unbnd f
  | .acq f | .rel f | .rstk f | .rstd f | .ratom f | .vld f | .vst f | .vldg f | .vsts f | .vhadd f | .tld f | .mst f
  | .cord f | .qld f => some (packM f)
  | .pand f | .por f | .pxor f | .pnot f | .pmov f | .pset f | .psetReg f | .pcnt f | .pfirst f | .pany f | .bri f
  | .calli f | .ret f | .lbrk f | .lcnt f | .halt f | .arvGated f | .tkwt f | .tkrd f | .tkclr f | .eretRedirect f
  | .ccmt f | .cckp f | .crpl f | .cfrec f | .cres f | .cmap f | .cref f | .cpin f | .cseq f | .ctrn f | .vrcps f
  | .vrsqs f | .vexp2s f | .vlog2s f | .vcvt f | .vpack f | .vunpk f | .vcmp f | .vsel f | .vmov f | .viota f
  | .vshf f | .vperm f | .vrot f | .vred f | .vscan f | .vord f | .vdig f | .vamax f | .vqnt f | .vdqnt f | .go2d f
  | .go3d f | .ginc f | .gins f | .gseg f | .tclm f | .trls f | .mma f | .mmas f | .mzro f | .macc f | .mtrn f
  | .tcon f | .tchn f | .tbnd f | .catt f | .capp f | .cstb f => some (packR f)
  | .cpy f | .tmov f | .gsx f | .fstt f | .fstl f | .xlnk f | .wstr f | .tful f | .temp f => some (packC f)
  | _ => none

/-- The slot word of an operation (R120): OP above its body. -/
def slotWord (i : Instr) : Option Word :=
  match opCode i, bodyOf i with
  | some (_, op), some b => some (BitVec.ofNat 64 (op <<< 56 ||| b))
  | _, _ => none

end Encode

/-- The words of a well-formed operation: a bundle of one slot word, header first, for the slot that `k` names (R116). -/
def encode (k : Slot) (i : Instr) : Option (List W32) :=
  match Encode.slotWord i with
  | some w => some [BitVec.ofNat 32 (2 ^ k.val), w.extractLsb' 0 32, w.extractLsb' 32 32]
  | none => none

/-- The instruction that the decoder reads from a bundle of one slot word whose bits are `w`: the header is bits [31:0], the
slot word follows it (R116). The table of this hardware numbers no bits, so a row is read as such a bundle. -/
def decodeTableWord (nbits w : Nat) : Option Instr :=
  let b := Decode.bundle (Bits.natLe (max ((nbits + 7) / 8) 60) (w % 2 ^ nbits))
  match b.1.ok, b.2 with
  | true, [(k, x)] =>
    match Decode.slotWord (Class.ofSlot k) x with
    | .ok i => some i
    | .error _ => none
  | _, _ => none

end Sys2Proof
end

