-- ==== Sys2Proof/Machine/State.lean ====
section
/-! DEFINITION. The state of the machine: one context in the focus, every other context, and the package around them with its
share of the load-store domain. All of it is plain data. -/

namespace Sys2Proof.Machine

/-- Bytes of memory by key, addresses strictly rising, no entry zero: an unlisted byte reads as zero (DESIGN CHOICE, log 1). The key of a byte
is (8·package + region)·2^48 + offset; region 0 holds device-physical addresses (R23), 1 baskets, 2 hampers, 3 pockets by
package core number, 4 trays by package core number, 5 the mailbox pages of BAR0 (R435). The pocket and tray of a context that is
out of its core stand in region 6 of package 256 + uid. The host's memory stands from key 2^128 on. -/
abbrev Mem := List Host.Cell

/-- An entry of a window table (R200). -/
structure WinEntry where
  vbase : BitVec 36
  perm : BitVec 4
  scope : BitVec 4
  tier : BitVec 4
  npage : BitVec 28
  dbase : BitVec 36
  deriving DecidableEq, Repr

/-- A command error record (R242, R332). -/
structure ErrRec where
  op : Byte
  tc : BitVec 4
  link : BitVec 3
  cause : Byte
  number : Word
  coords : List W32
  remain : Word
  addr : Word
  deriving DecidableEq, Repr

/-- A timeline counter (R273, R331). -/
structure Counter where
  issued : Nat
  done : Nat
  /-- numbers above DONE that are verified or cleared -/
  early : List Nat
  /-- poisoned numbers not yet cleared, ascending; POISON is the first, or 0 -/
  poisoned : List Nat
  /-- the record slot -/
  record : Option ErrRec
  deriving DecidableEq, Repr

/-- An open level of the loop engine (R84, R167, R170). -/
structure Level where
  /-- address of the LOOP bundle -/
  loop : Word
  trips : Word
  lc : Word
  first : Word
  last : Word
  epi : Nat
  lp : Nat
  treg : Nat
  deriving DecidableEq, Repr

/-- The issue of an operation as a record shows it (R320, R322): bundle address, MPC and issue number, the slot word, its effective
address, zero for forms without one, and its guard predicate. -/
structure Site where
  addr : Word
  mpc : Word
  rep : Nat
  word : Word
  ea : Word
  guard : Word
  deriving DecidableEq, Repr

/-- Where the bytes of an access lie, once its pointer is decoded and windowed (R197, R200, R204). -/
inductive Place where
  /-- a byte key: own pocket, basket or hamper -/
  | port (key : Nat)
  /-- a device-virtual address of a space at the MTUs of this package -/
  | virt (asn : Byte) (dva : Nat)
  /-- a device-virtual address at a die of the domain -/
  | remote (die : Nat) (asn : Byte) (dva : Nat)
  /-- an offset of control space (R440) -/
  | control (off : Nat)
  deriving DecidableEq, Repr

/-- The read-modify-write operations at memory (R263, R408). -/
inductive AtomOp where
  | add | and | or | xor | min | max | xchg | fadd | fmin | fmax | cas | swapZero
  deriving DecidableEq, Repr

/-- What a request does at its place. -/
inductive Action where
  | read (len : Nat)
  | write (bytes : List Byte)
  | atom (op : AtomOp) (ty : Nat) (len : Nat) (v cmp : Nat)
  deriving DecidableEq, Repr

/-- How a landing result goes into its register: the file and number, and the load conversion of R226 (a type code; `pair`
splits 16 bytes over two s registers). -/
structure LandDst where
  reg : Reg
  ty : Nat
  pair : Bool
  deriving DecidableEq, Repr

/-- Where a request stands; times are values of the clock. -/
inductive ReqState where
  /-- it waits at the source: a new route, a ticket that names eight dies (R414), mergeable RATOMs (R411) -/
  | source
  /-- on its way, there at a time -/
  | sent (time : Nat)
  /-- parked at its MTU, with its number in the order of arrival (R205), and the number of the next write when it arrived (R207) -/
  | parked (order at' : Nat)
  /-- answered receiver-not-ready or busy, resent at a time (R405) -/
  | retry (time : Nat) (busy : Bool)
  /-- held in the turnstile of its target die since a time (R414, R415) -/
  | held (since : Nat)
  /-- held in a router for merging until a time (R410) -/
  | merging (time : Nat)
  /-- merged into another request, with which it is acknowledged (R410) -/
  | merged (into : Nat)
  deriving DecidableEq, Repr

/-- An access in the memory system: a store, a landing read, an atomic, a ticket store. -/
structure Req where
  id : Nat
  uid : Nat
  slot : Slot
  /-- the bundle issue it belongs to (R450) -/
  idx : Nat
  site : Site
  /-- the pointer, for records -/
  ea : Word
  place : Place
  act : Action
  scope : BitVec 3
  priv : Bool
  ctxid : Word
  /-- die of origin, domain number -/
  src : Nat
  /-- landing entry that awaits the answer -/
  land : Option Nat
  /-- the ticket an RSTK carries, and those an RSTD carries (R414) -/
  ticket : Option Word
  carried : List Word
  isRstd : Bool
  kmask : List Word
  /-- RATOM data (R409, R410): mergeable, and HOLD -/
  ratom : Bool
  mergeable : Bool
  hold : Nat
  /-- the clock at its issue (R225) -/
  issued : Nat
  /-- TKEXP values carried (R407), the time of the first receiver-not-ready answer, and the last interval in µs (R405) -/
  limit : Nat
  rnrt : Nat
  since : Option Nat
  backoff : Nat
  /-- offsets of the bytes that carry poison with them (R447) -/
  poison : List Nat
  state : ReqState
  deriving DecidableEq, Repr

/-- An answer on its way back to its source (R409, R225). -/
structure Resp where
  id : Nat
  uid : Nat
  land : Option Nat
  bytes : List Byte
  /-- it acknowledges a RATOM; it acknowledges a write or an atomic -/
  ratom : Bool
  write : Bool
  /-- the die that answers -/
  die : Nat
  /-- remote-access error: class, cause and address -/
  err : Option (Byte × Byte × Word)
  site : Site
  idx : Nat
  slot : Slot
  ctxid : Word
  /-- the key of the first byte served; the die it goes to, and when it is there, once its router has accepted it (R398, R399) -/
  key : Option Nat
  dest : Nat
  time : Option Nat
  deriving DecidableEq, Repr

/-- A chain step with its operands captured (R309 to R311): shapes before and after, bonds, role, core type and slot, the
boundary halves, CHST after it, and its array cost P. -/
structure ChainStep where
  slot : Nat
  base : Nat
  cap : Nat
  bf : Bool
  cur : Nat
  o : Nat
  x : Nat
  o' : Nat
  x' : Nat
  rl : Nat
  rr : Nat
  n : Nat
  m : Nat
  role : Nat
  ct : Nat
  chst : Word
  p : Nat
  deriving DecidableEq, Repr

/-- An MST under way (R301, R302): source tile as read at issue; for an early one the accumulator values it may take, the first
by its index in the tile's sequence, their number, and its free numbers; conversion, destination and fold. -/
structure MstJob where
  z : Nat
  tile : Tile
  early : Option (Nat × Nat × Nat)
  dt : Nat
  rm : BitVec 3
  sat : Bool
  seed : Word
  dest : Req
  fold : Option Req
  deriving DecidableEq, Repr

/-- A memory action of the core's own slots that is performed at its due cycle (R75, R192). Offsets are pocket offsets. -/
inductive MemOp where
  /-- a scalar load of R227 -/
  | ld (reg : Reg) (ty : Nat) (off len : Nat)
  /-- pocket bytes written -/
  | st (writes : List (Nat × List Byte))
  /-- a vector load: lane and offset of each active lane -/
  | vld (d : Nat) (lanes : List (Nat × Nat))
  /-- VHADD: type code, and offset with addend of each active lane in order -/
  | vhadd (ty : Nat) (lanes : List (Nat × W32))
  /-- QLD -/
  | qld (d : Nat) (off : Nat)
  /-- TLD: tray slot, pocket offset of the contents, length, swizzle -/
  | tld (slot off len : Nat) (swz : BitVec 4)
  /-- CORD -/
  | cord (n off : Nat)
  /-- a request that enters the memory system -/
  | send (r : Req)
  /-- an MST -/
  | mst (j : MstJob)
  /-- the result of a TCON, with the number of the next write when it issued (R310) -/
  | tcon (st : ChainStep) (since : Nat)
  deriving DecidableEq, Repr

/-- One effect of a result that falls due. -/
inductive Eff where
  /-- a register of the files s, a, p, k, ts, bd -/
  | reg (r : Reg) (v : Word)
  /-- a vector register: `val` where `mask` is set, the register's value at the write elsewhere (R172) -/
  | vec (d : Nat) (val mask : Vec)
  /-- a latch set, and the 8-byte words of it that come with poison (R303) -/
  | latch (d : Nat) (val : Latch) (poison : List Nat)
  /-- flags into FPST (R46) -/
  | flags (f : BitVec 13)
  /-- s[d] with what a CRD read of state outside the team, an item of record mode (R431) -/
  | outside (num d : Nat) (v : Word)
  /-- a control register written by CWR (R335) -/
  | cwr (num : Nat) (v : Word)
  /-- CHST as chain operations and TBND write it -/
  | chst (v : Word)
  /-- GEOMODE counts (R396) -/
  | esc (n1 n2 : Nat)
  /-- the tray slot becomes releasing (R288) -/
  | release (slot : Nat)
  deriving DecidableEq, Repr

/-- A result in flight (R74, R75). -/
structure Flight where
  due : Nat
  idx : Nat
  site : Site
  /-- issued while a completion-interrupt handler ran (R282) -/
  act : Bool
  effs : List Eff
  mem : Option MemOp
  deriving DecidableEq, Repr

/-- A geometry result being decided (R387, R391). -/
structure GeoJob where
  val : Vec
  mask : Vec
  n1 : Nat
  n2 : Nat
  /-- cycles of stage 0, and of stages 1 and 2 -/
  l0 : Nat
  esc : Nat
  /-- cycles until it is ready -/
  left : Nat
  /-- the V slot whose unit decides it -/
  unit : Slot
  deriving DecidableEq, Repr

/-- An entry of the landing buffer (R79, R80). -/
structure Landing where
  id : Nat
  slot : Slot
  due : Nat
  idx : Nat
  site : Site
  act : Bool
  dst : Option LandDst
  /-- it takes the phase of an ARV, which is no item of record mode (R431) -/
  arrival : Bool
  /-- the effects to write, once the data is there -/
  data : Option (List Eff)
  geo : Option GeoJob
  /-- the destination is pending (R80) -/
  pend : Bool
  /-- captured at a trap entry, from which ERET re-injects it (R316) -/
  saved : Bool
  /-- the 8-byte words of its data that are poisoned in the replay buffer (R446) -/
  poison : List Nat
  /-- in replay mode, the request that is not sent while the trace supplies the data (R432) -/
  unsent : Option Req
  deriving DecidableEq, Repr

/-- What an operation that can trap captured at issue (R319, R451). -/
structure Capture where
  instr : Instr
  regs : List (Reg × Vec)
  tiles : List (Nat × Tile)
  guard : Word
  ea : Word
  os : Word
  od : Word
  /-- geometry tests whose non-finite operands are marked (R395) -/
  marked : Option Word
  deriving DecidableEq, Repr

/-- A wait of a slot in an operation that has issued (R214, R283, R326). -/
inductive Wait where
  | acq (req : Nat) (place : Place) (ea n : Word) (d : Nat) (scope : BitVec 3)
  | waittl (tc : Nat) (n : Word)
  | bar (b count d : Nat) (phase : Option Word)
  | waitb (b : Nat) (p : Word)
  | sstep (level : BitVec 3) (k : Option Nat)
  | fence (scope : BitVec 3)
  | tkwt (handles : List Word)
  | wfe (d : Nat) (left : Option Nat)
  | launch (addr : Word) (d : Nat) (released : Bool)
  /-- PRMT with its place in the governor's order of arrival (R428) -/
  | prmt (d cls asked : Nat)
  | save (addr : Word) (mask : Nat) (written : Bool)
  /-- PRB from the byte `ea` on (R232) -/
  | prb (ea : Word)
  | wtbase (v : Word) (sent : Bool)
  /-- a TCLM for which no slot was free (R287) -/
  | tclm (d : Nat)
  /-- a context instruction whose accesses are not complete: the time at which it tries them next, whether it is a CATT, which a trap or a
  freeze abandons (R364, R365), and the time of its first receiver-not-ready answer with the last interval in µs and the die (R405) -/
  | context (ready : Nat) (catt : Bool) (rnr : Option (Nat × Nat × Nat))
  deriving DecidableEq, Repr

/-- A slot of the sequencer (R70, R74, R132, R133, R319). -/
structure SlotState where
  /-- bundle issues consumed -/
  pos : Nat
  time : Nat
  ea : Word
  os : Word
  od : Word
  flights : List Flight
  wait : Option Wait
  /-- held by the hold line until the lowest position reaches its own (R72) -/
  held : Bool
  /-- stopped by a trap it raised (R315) -/
  stopped : Bool
  /-- captured operands: of the trap it raised, or to replay with (R319) -/
  cap : Option Capture
  /-- a trapped operation to be taken as completed without effect (R321 mode 1) -/
  skip : Bool
  /-- loop predicates as this slot sees them: the register, its value, and 1 plus the issue with which its trip began, 0 before any
  (R168) -/
  pview : List (Nat × Word × Nat)
  /-- cycles of stall after a taken transfer (R165) -/
  cool : Nat
  deriving DecidableEq, Repr

/-- A loop predicate as the loop engine sets it (R167, R168): the register, its value, and, where a LOOP opens its level, that LOOP's
issue. -/
structure LpSet where
  reg : Nat
  val : Word
  opened : Option Nat
  deriving DecidableEq, Repr

/-- One issue of a bundle in the slots' queues (R67, R70). -/
structure Issue where
  idx : Nat
  /-- index of the bundle's first issue (R450) -/
  start : Nat
  addr : Word
  next : Word
  rep : Nat
  /-- MPC before the bundle's first issue and before this issue (R136, R372) -/
  mpc0 : Word
  mpc : Word
  sync : BitVec 7
  ops : List (Option Instr)
  /-- slots whose operation is new in this issue -/
  fresh : BitVec 7
  metaWord : Option Word
  /-- the levels as this issue's operations read them (R168) -/
  levels : List Level
  /-- loop predicates that begin with this issue -/
  lp : List LpSet
  /-- the sticky operations before this issue, to which an illegal encoding returns (R142) -/
  stickyBefore : List (Option Instr)
  deriving DecidableEq, Repr

/-- What a transfer or a loop operation asks of dispatch at the end of its bundle. -/
inductive Redirect where
  /-- continue at an address -/
  | goto (a : Word)
  /-- continue at the bundle after the one at an address -/
  | after (a : Word)
  deriving DecidableEq, Repr

/-- A completed entry into trap or interrupt handling that dispatch must make between issues. -/
structure Raised where
  idx : Nat
  slot : Nat
  cls : Byte
  cause : Byte
  smask : BitVec 7
  code : BitVec 16
  detail : Word
  addr : Word
  site : Site
  /-- words 8 to 15 of the record from byte 64 on, for CTXF (R354) -/
  ctxf : List Word
  /-- the captured registers, for OPND0 to OPND5 (R451) -/
  opnds : List Vec
  /-- the operation counts as completed (R354, TRAP, DBRK) -/
  completed : Bool
  /-- found after address generation: taken as soon as it is reported (R322) -/
  late : Bool
  deriving DecidableEq, Repr

/-- The sequencer of a core: dispatch, loop engine and slots (R66 to R86). -/
structure Pipe where
  pc : Word
  mpc : Word
  /-- next issue number within the bundle at `pc`, and MPC before its first issue -/
  rep : Nat
  mpc0 : Word
  /-- index of the next issue dispatched, and of the current bundle's first issue -/
  count : Nat
  start : Nat
  /-- dispatch finished a bundle's last issue and has not tested its end (R168): address and next address -/
  ended : Option (Word × Word)
  /-- S must resolve an issue before dispatch continues (R73, R169) -/
  blocked : Bool
  redirect : Option Redirect
  /-- levels to open at the end of the bundle (R167) -/
  opening : Option Level
  queue : List Issue
  /-- the operation each slot would re-issue, as dispatch knows it -/
  sticky : List (Option Instr)
  /-- open levels, innermost first, and how many of them each outstanding CALL or delivery suspended (R86) -/
  levels : List Level
  marks : List Nat
  /-- levels that a trap or a completion interrupt suspended -/
  base : Nat
  /-- the next issue is skipped whole: ERET mode 1 after an illegal encoding (R321) -/
  skipNext : Bool
  /-- HALT has been executed: nothing further is dispatched (R166) -/
  halt : Bool
  /-- loop predicates that the next issue carries -/
  lp : List LpSet
  slots : List SlotState
  deriving DecidableEq, Repr

/-- The issue whose operation a slot is executing. -/
structure Now where
  slot : Slot
  issue : Issue
  cap : Option Capture
  /-- the operation did not issue and tries again (R72, R77, R79) -/
  stalled : Bool
  /-- it returned to another sequencer state, from which the slots go on (R321, R337) -/
  moved : Bool
  deriving DecidableEq, Repr

/-- A binding (R266). -/
structure Binding where
  obj : Word
  base : Word
  len : Word
  scope : BitVec 3
  deriving DecidableEq, Repr

/-- An arm entry (R281). -/
structure Arm where
  /-- false: timeline counter; true: barrier -/
  kind : Bool
  num : Nat
  n : Word
  fired : Bool
  pois : Bool
  deriving DecidableEq, Repr

/-- Bytes of an access that has been performed: its number; the runs of its bytes that are meant, by offset and length, none for all;
and the issue of the knowing context from which on its accesses come after it. -/
structure Cover where
  num : Nat
  part : Option (List (Nat × Nat))
  issue : Nat
  deriving DecidableEq, Repr

/-- What a release covers as it issues (R218, R279): the bindings, whether their overflow widens it (R268), and what its context knows. -/
structure Snap where
  binds : List Binding
  wide : Bool
  known : List Cover
  deriving DecidableEq, Repr

/-- A gated arrival that waits (R279). -/
structure Gated where
  b : Nat
  count : Nat
  tc : Nat
  n : Nat
  idx : Nat
  snap : Snap
  deriving DecidableEq, Repr

/-- A release that the S slot does not wait for: REL, an ungated ARV (R270, R278). -/
inductive Release where
  | rel (idx : Nat) (req : Req) (snap : Snap)
  | arv (idx : Nat) (b count : Nat) (land : Option Nat) (snap : Snap)
  deriving DecidableEq, Repr

/-- A step of a contraction-order program (R308). -/
abbrev OrderWord := W32

/-- An array operation that occupies the array (R77, R295, R297): an MMA or MMAS with its form and whether it is sparse, its
metadata word, the tray slots of its operands, the blocks entered, its age and the cycles it occupies the array; its issue, the Q time at
which Q consumed its bundle with it, and the latch sets that a replayed one has captured (R295, R319). -/
structure ArrayJob where
  form : Option (RForm × Bool)
  metaWord : Word
  idx : Nat
  qtime : Option Nat
  caps : List (Reg × Vec)
  slotA : Nat
  slotB : Nat
  block : Nat
  age : Nat
  total : Nat
  deriving DecidableEq, Repr

/-- The values an accumulator tile passes through, numbered in order (R77, R300): the number of the current one, those that the
last array operation passes through (from `lo`, `len` of them), the M time of its issue, and former values with the M time at
which each was replaced. -/
structure TileHist where
  tile : Nat
  count : Nat
  lo : Nat
  len : Nat
  since : Nat
  vals : List (Nat × Nat × Tile)
  deriving DecidableEq, Repr

/-- A running TCHN (R311): its counter and number, its steps, the running one and the cycles left of it. -/
structure Chain where
  tc : Nat
  num : Nat
  steps : List ChainStep
  next : Nat
  left : Nat
  deriving DecidableEq, Repr

/-- A tray slot header (R285). -/
structure TrayHead where
  state : BitVec 2
  swz : BitVec 4
  len : Nat
  deriving DecidableEq, Repr

/-- An issued engine command (R83, R236). -/
structure Cmd where
  id : Nat
  uid : Nat
  slot : Slot
  /-- the bundle issue it belongs to (R215) -/
  idx : Nat
  op : Instr
  tc : Nat
  num : Nat
  /-- slot time of its start, and whether it has started -/
  startAt : Nat
  started : Bool
  desc : Word
  aux : Word
  os : Word
  od : Word
  /-- tray slot held by the handle at issue (R258) -/
  tray : Option Nat
  core : Nat
  priv : Bool
  asn : Byte
  ctxid : Word
  bundle : Word
  /-- window table and descriptor as read at the start -/
  wins : List WinEntry
  words : List Word
  retries : Nat
  left : Nat
  /-- the cores of its team at issue, with the contexts on them, whose pockets it may name (R199, R237) -/
  mates : List (Nat × Nat)
  /-- TKEXP.RNRT at issue, and the time of the first receiver-not-ready answer with the last interval in µs (R243, R405) -/
  rnrt : Nat
  rnr : Option (Nat × Nat)
  /-- per slot of its context, the issue before which that slot's writes are ordered before the command; and, once it has started, what is
  ordered before it, and the requests among it that were still under way (R215) -/
  synced : List Nat
  known : List Cover
  behind : List Nat
  deriving DecidableEq, Repr

/-- A command that has verified before its counter has come to its number (R81): its issue and slot, whether it sets or clears the bits, and
the contexts and tiles. -/
structure TileDone where
  tc : Nat
  num : Nat
  idx : Nat
  slot : Nat
  full : Bool
  tiles : List (Nat × Nat)
  deriving DecidableEq, Repr

/-- Who accesses memory (R210, R211, R224): a context, an engine command of a context by its counter and number, the MAC of a queue pair,
the host, or the steward core of a die. -/
inductive Agent where
  | ctx (uid : Nat)
  | engine (uid tc num : Nat)
  | mac (qp : Nat)
  | host
  | steward (die : Nat)
  deriving DecidableEq, Repr

/-- Where an agent stands, for the sets of R210: its core, its die. -/
structure Seat where
  core : Option Nat
  die : Option Nat
  deriving DecidableEq, Repr

/-- Where an access to memory comes from, for the order of R211: who makes it, of which bundle issue and slot; the request, 0 for none;
the scope of an atomic (R221); for a remote store its target die, its ticket and the tickets that it names (R225, R416). -/
structure Origin where
  agent : Agent
  idx : Nat
  slot : Nat
  req : Nat
  atomic : Option Nat
  die : Option Nat
  ticket : Option Word
  kmask : List Word
  deriving DecidableEq, Repr

/-- A scope at which bytes of a write are performed, from where its agent then stood (R210). -/
structure Shared where
  scope : Nat
  seat : Seat
  part : Option (List (Nat × Nat))
  deriving DecidableEq, Repr

/-- An access that has been performed: its number and origin; the runs of bytes that it wrote, each with its key and the bytes it replaced;
those that it read; what others did that is ordered before it (R211); and the scopes at which it is performed (R210). -/
structure Past where
  num : Nat
  origin : Origin
  runs : List (Nat × List Byte)
  reads : List (Nat × Nat)
  after : List Cover
  shared : List Shared
  deriving DecidableEq, Repr

/-- What a release is of (R218, R222, R278, R420, R439): a sync object by the key of its first byte, a barrier of a team, a superstep at a
level, a launched grid, a mailbox page, the ended grids of a fabric group. -/
inductive Gate where
  | object (key : Nat)
  | arrival (team : Nat × Nat) (b : Nat)
  | step (level : Nat)
  | grid (id : Nat)
  | mail (page : Nat)
  | ended (fgroup : Nat)
  deriving DecidableEq, Repr

/-- A release that has been made: its release number, phase or count, who made it and where that stood, its scope, and what it covers,
each with the scope at which it acts (R203). -/
structure Released where
  gate : Gate
  number : Nat
  agent : Agent
  seat : Seat
  scope : Nat
  acts : List (Nat × Cover)
  deriving DecidableEq, Repr

/-- What an agent sees of a byte in place of what memory holds: the byte as it was before a write (R212, R224), the byte that a write under
way gives it, or an unverified one (R216, R310). -/
inductive Seen where
  | before (num : Nat)
  /-- `vec`: the write is a TCON's, and only vector accesses may see it early (R310) -/
  | coming (b : Byte) (vec : Bool)
  | free (b : Byte)
  deriving DecidableEq, Repr

/-- A register's value before a write by a slot, which the other slots named may still read (R78). -/
structure OldReg where
  reg : Reg
  val : Vec
  writer : Slot
  readers : BitVec 7
  deriving DecidableEq, Repr

/-- An instruction's write to a loop predicate: the register, the writer's trip as its slot numbers it, the value, the writer. -/
structure LpWrite where
  reg : Nat
  trip : Nat
  val : Word
  writer : Slot
  deriving DecidableEq, Repr

/-- Where a context stands. -/
inductive Run where
  | empty
  | running
  | halting
  | halted
  | stopped
  | draining
  | freezing
  | frozen
  | swapped
  deriving DecidableEq, Repr

/-- A context (R57). -/
structure Ctx where
  uid : Nat
  run : Run
  core : Nat
  grid : Nat
  team : Nat
  member : Nat
  rank : Nat
  sreg : Vector Word 64
  areg : Vector Word 32
  preg : Vector Word 32
  /-- the model's own: instructions' writes to loop predicates, the latest first, that a slot in an earlier trip has still to see
  (R85, R168) -/
  lpWrites : List LpWrite
  vreg : Vector Vec 64
  zreg : Vector Tile 8
  tsreg : Vector Word 16
  bdreg : Vector Nat 16
  kreg : Vector Word 16
  slreg : Vector Latch 4
  tcs : Vector Counter 16
  /-- register values that a write has replaced and that slots may still read; and those that a slot reads now in place of the
  register (R78) -/
  olds : List OldReg
  oldViews : List (Slot × OldReg)
  /-- issues with a SYNC of several slots that have been consumed, the latest first (R215) -/
  syncs : List (BitVec 7 × Nat)
  /-- poisoned 8-byte words of the register files (R446): the register, and the number of the word in it -/
  rpoison : List (Reg × Nat)
  ctxid : Word
  ctxstat : Word
  domc : Word
  domd : Word
  domp : Word
  domf : Word
  fpst : Word
  /-- flags that fell due in the current cycle, which join FPST at its end (R46) -/
  fpnow : BitVec 13
  /-- control registers that a CWR has written in the current cycle, over which no update of the device prevails (R335, R396) -/
  crNow : List Nat
  rseed0 : Word
  rseed1 : Word
  rseedm : Word
  rseeds : Word
  uivec : Word
  uipc : Word
  uistat : Word
  /-- a clear of EN that takes effect after UIRET (R284) -/
  uiclear : Bool
  bcap : Word
  chst : Word
  ldra : Word
  geomode : Word
  rwin : Word
  tkexp : Word
  cflim : Word
  trapvec : Word
  traprec : Word
  faultrec : Word
  preq : Word
  wtbase : Word
  prmst : Word
  trstat : Word
  windows : List WinEntry
  bindings : List Binding
  bovf : Bool
  arms : List (Option Arm)
  gated : List Gated
  ssteps : Vector Nat 5
  order : List OrderWord
  orderLen : Nat
  tileBits : List Nat
  /-- bits changed in the present cycle: the tile, and the command of this context that changed it, none for another core's copy
  (R260) -/
  tileNow : List (Nat × Option (Nat × Nat))
  /-- tile bits of commands that have verified, until their counter comes to their numbers (R81) -/
  tileWait : List TileDone
  trayHeads : Vector TrayHead 16
  landings : List Landing
  replay : List Landing
  releases : List Release
  pipe : Pipe
  now : Now
  raised : List Raised
  /-- the sequencer as it stood at trap entry (R317, R321), and the record written -/
  trapped : Option (Pipe × Raised)
  /-- the pocket offset of the record that the last trap entry wrote -/
  recordAt : Nat
  trapShadow : List (Reg × Word)
  uiShadow : List (Reg × Word)
  /-- the sequencer as it stood at the delivery of a completion interrupt, and UIPC as written then (R282, R283) -/
  uiSaved : Option (Pipe × Word)
  array : Option ArrayJob
  hist : List TileHist
  chain : Option Chain
  /-- cycles the drain port and the TLD port are still taken (R289, R302) -/
  drain : Nat
  tldPort : Nat
  /-- cycles the escalation stages of each geometry unit are still taken (R391) -/
  geoBusy : Nat × Nat
  wfeLatch : BitVec 3
  ratoms : Nat
  /-- waiting-for-event code given to a debugger (R336) -/
  dbgCode : Option (BitVec 16)
  /-- record mode (R431, R432): base and length of the segment, mode, cycles since the first bundle, entries so far -/
  trBase : Word
  trLen : Nat
  trMode : BitVec 2
  trCycle : Nat
  trCount : Nat
  /-- drain of a loop asked for: cycles since the request (R324) -/
  drainFor : Nat
  drainDrn : Option Word
  /-- open levels when the drain began, 0 once its level has closed; and that level's trip register -/
  drainDepth : Nat
  drainReg : Nat
  /-- in its last cycle no slot consumed an issue or a cycle of stall -/
  idle : Bool
  deriving DecidableEq, Repr

/-- A page of a device-virtual space at one package's MTUs (R204, R207). -/
inductive PageState where
  | resident | absent | migrating
  deriving DecidableEq, Repr

/-- A page-table entry, for a page of 4 KiB, or, `big`, of 2 MiB: 512 page numbers and frames from an aligned one on. -/
structure Page where
  ref : PageRef
  big : Bool
  state : PageState
  /-- device-physical page number: HBM, flash or CXL by R23 -/
  frame : Nat
  writable : Bool
  cow : Bool
  /-- when a PRB last probed it (R232) -/
  probed : Option Nat
  deriving DecidableEq, Repr

/-- An entry of a ticket table (R412, R414). -/
structure TicketEntry where
  die : Nat
  entry : Nat
  gen : BitVec 16
  pending : Bool
  dests : List Nat
  deriving DecidableEq, Repr

/-- A message of the ticket service between dies (R414): a landing, a release or a cancel from one die to another, about a ticket of
the origin die, there at a time once its router has accepted it (R398). -/
structure TicketMsg where
  /-- 0 landing, 1 release, 2 cancel -/
  kind : Nat
  src : Nat
  die : Nat
  origin : Nat
  ticket : Word
  time : Option Nat
  deriving DecidableEq, Repr

/-- A team barrier (R276). -/
structure Barrier where
  team : Nat × Nat
  b : Nat
  count : Nat
  arrived : Nat
  phase : Nat
  deriving DecidableEq, Repr

/-- A live grid (R418, R422). -/
structure Grid where
  id : Nat
  fgroup : Nat
  asn : Byte
  /-- the launching die (accepting), record words and window image as read at acceptance -/
  die : Nat
  record : List Word
  image : List WinEntry
  /-- dies that take its teams, ascending (R418) -/
  dies : List Nat
  /-- valid dependences: index, grid, counter, number (R422) -/
  deps : List (Nat × Nat × Nat × Nat)
  eligible : Bool
  /-- base rank of its contexts in its fabric group, and the set's size at acceptance (R452) -/
  base : Nat
  domSize : Nat
  /-- size of its fabric group's set as it stands (R452) -/
  groupSize : Nat
  /-- SETID of its PKG and DOMAIN sets, and of the DIE set of each of its dies (R61) -/
  setPkg : Nat
  setDom : Nat
  setDies : List (Nat × Nat)
  deriving DecidableEq, Repr

/-- A team of a live grid (R423, R424). -/
structure Team where
  grid : Nat
  num : Nat
  die : Nat
  resident : Bool
  /-- it has run before and has a saved image -/
  swapped : Bool
  ended : Bool
  prio : Nat
  /-- effective priority with which it was placed -/
  eff : Nat
  /-- the clock when it became eligible and waiting, or resident, or began a new quantum (R338) -/
  since : Nat
  /-- it is being swapped out -/
  leaving : Bool
  /-- the clock when it was placed last -/
  placed : Nat
  deriving DecidableEq, Repr

/-- A transducer lane (R251, R253): base-die lanes 0 to 127; compress and expand lanes 128 + 2·cluster and one above. -/
structure Lane where
  num : Nat
  tab : Word
  key : Nat
  nstate : Nat
  deriving DecidableEq, Repr

/-- One key slot of a link end (R403, R404): its key, the invocation counters of the frames sealed and received with it; whether the
sender has switched away from it, and whether the receiver has retired it. -/
structure KeySlot where
  key : Option (BitVec 256)
  counter : Nat
  rx : Nat
  spent : Bool
  retired : Bool
  deriving DecidableEq, Repr

/-- What crosses a link at once: a flit, or a sealed frame of 1 to 16 flits with its tag (R400, R403); `seq` is the number of the first. -/
structure Sent where
  seq : Nat
  flits : List (List Byte)
  tag : Option (BitVec 128)
  deriving DecidableEq, Repr

/-- A link end (R28, R400 to R404). -/
structure Link where
  ref : LinkRef
  ports : Nat
  up : Bool
  encrypted : Bool
  /-- sequence numbers (12 bits) of the next flit sent, of the first one not acknowledged, and of the next one expected -/
  txSeq : Nat
  acked : Nat
  rxSeq : Nat
  /-- the last 512 flits sent; those to be sent again after the link has trained; what the last event put on the link -/
  replay : List Sent
  again : List Sent
  wire : List Sent
  /-- the replay the receiver asks for; the number last asked of the sender, and the replays of it that failed -/
  asked : Option Nat
  failSeq : Option Nat
  fails : Nat
  /-- per lane, since the link trained: last cumulative count received and slots consumed; slots freed, the count that this end returns
  (R402) -/
  credits : List (Nat × Nat)
  freed : List Nat
  /-- messages to be sent, each with its lane, what is left of one begun among them; and flits of VL0 since the last of VL2 (R399) -/
  outbox : List (Nat × List Byte)
  turns : Nat
  slot0 : KeySlot
  slot1 : KeySlot
  /-- the slot used to seal, the slot of the frames received, and flits received since the marker -/
  useSlot : Bool
  rxSlot : Bool
  sinceMark : Option Nat
  frameFails : Nat
  /-- the security event for a missing key has been raised (R404) -/
  warned : Bool
  /-- bytes of a message begun, by lane; and messages delivered, with their lanes -/
  inbox : List (Nat × List Byte)
  delivered : List (Nat × List Byte)
  deriving DecidableEq, Repr

/-- A queue pair (R442). -/
structure QueuePair where
  num : Nat
  asn : Byte
  mac : Word
  peer : Word
  post : Word
  comp : Word
  served : Nat
  stopped : Bool
  deriving DecidableEq, Repr

/-- An entry of a steward error queue (R438). -/
structure ErrEntry where
  die : Nat
  kind : Byte
  seq : Nat
  ctxid : Word
  body : List Byte
  deriving DecidableEq, Repr

/-- A steward (R20): the age of the machine when its launch unit last sent it a request, whether that request is open, whether it has failed,
and whether it has stopped answering. -/
structure Steward where
  since : Nat
  asked : Bool
  failed : Bool
  silent : Bool
  deriving DecidableEq, Repr

/-- Boot state (R443, R444): the images staged for copies A and B since the device was made, the fused minimum, the copy a raise
request stands beside, the copy that is active (true: B), and the image that was booted. -/
structure Boot where
  stagedA : Option (List Byte)
  stagedB : Option (List Byte)
  fused : BitVec 32
  raise : Option Bool
  active : Bool
  booted : List Byte
  deriving DecidableEq, Repr

/-- One turn of the agenda: which agent moves next. (DESIGN CHOICE, log 4) -/
inductive Turn where
  /-- an event of the machine happens, with what the outside supplies -/
  | event (i : Instr) (inp : Input)
  /-- another context comes into the focus -/
  | focus (uid : Nat)
  /-- every core runs one cycle -/
  | cycle
  /-- slot `k` of a context reads a register as it was before the `n`-th of the writes that it need not see yet; with no such write, as it
  is (R78) -/
  | oldReg (uid : Nat) (k : Slot) (r : Reg) (n : Nat)
  /-- an agent sees `len` bytes from a key on as they were before write `num`; or as the memory holds them (R212, R224) -/
  | view (a : Agent) (key len : Nat) (num : Option Nat)
  /-- an agent sees, of `len` bytes from a key on, the new bytes, or unverified ones, where a write under way gives them (R216, R240, R299,
  R310) -/
  | unverified (a : Agent) (key len : Nat) (new : Bool)
  deriving DecidableEq, Repr

/-- The machine. (DESIGN CHOICE, log 4) (DESIGN CHOICE, log 123) -/
structure State where
  ctx : Ctx
  others : List Ctx
  agenda : List Turn
  input : Input
  /-- the model's counter of free values -/
  fresh : Nat
  /-- the model's delays of coming requests and commands, in cycles; none listed is no delay -/
  delays : List Nat
  /-- the model's stalls of coming cycles: the slots of a context that stand still; none listed is no stall -/
  pauses : List (BitVec 7)
  clock : Nat
  /-- the time since reset, in units of 1/18,000 µs -/
  age : Nat
  mem : Mem
  /-- accesses performed, of reads those that can race; of the writes of a byte, the latest first (R211, R212) -/
  history : List Past
  /-- what others did that is ordered before the later accesses of an agent (R211) -/
  known : List (Agent × List Cover)
  /-- releases made (R218, R222, R278, R420) -/
  released : List Released
  /-- bytes that an agent sees otherwise than as the memory holds them: agent, key, and what it sees (R212, R216, R224) -/
  views : List (Agent × Nat × Seen)
  /-- poisoned granules, by the key of their first byte (R446) -/
  poison : List Nat
  pages : List Page
  /-- pages that a steward has just declared it cannot supply (R205) -/
  denied : List PageRef
  /-- references of physical pages, frames queued for reuse (R207) -/
  frames : List (Nat × Nat)
  reuse : List Nat
  reqs : List Req
  resps : List Resp
  cmds : List Cmd
  lanes : List Lane
  barriers : List Barrier
  /-- messages of the ticket service on their way, in the order in which they were sent -/
  ticketMsgs : List TicketMsg
  tickets : List TicketEntry
  grids : List Grid
  gridCount : Nat
  teams : List Team
  stewards : Vector Steward 4
  errq : List ErrEntry
  errSeq : Vector Nat 4
  /-- power classes counted against the budget (R428), throttle state of each die (R429) -/
  throttle : Vector (BitVec 2) 4
  budget : Nat
  quantum : Vector Nat 4
  dims : Nat × Nat × Nat
  coords : Nat × Nat × Nat
  links : List Link
  /-- ends of links elsewhere in the domain that are down (R398) -/
  farDown : List LinkRef
  /-- steward 0 has refused the domain's shape at boot: the fabric-shape error (R29) -/
  shapeError : Bool
  /-- source and target dies between which messages must be delivered before the new route is used (R398) -/
  draining : List (Nat × Nat)
  poolDown : List (Nat × Nat)
  evstat : Word
  even : Word
  bootst : Word
  resmap : Word
  msix : Nat
  /-- error counters by die and kind: corrected, uncorrected (R448) -/
  errCount : List ((Nat × Nat) × (Nat × Nat))
  coreErrors : List (Nat × Nat)
  /-- mailbox pages named by host events not yet served (R436) -/
  hevts : List Nat
  /-- host pages mapped by MAPHOST, and the frame of each (R434, R437) -/
  hostmaps : List (Nat × Nat)
  qps : List QueuePair
  boot : Boot
  /-- the SPDM response last given (R445) -/
  spdm : List Byte
  gatedCores : List (Nat × Option (List WinEntry))
  flashHead : Vector Nat 4
  flashFree : List (Nat × Nat)
  /-- the mailbox page being served and its copy (R436) -/
  mailbox : Option (Nat × List Byte)
  wtUpdate : Option (Nat × List WinEntry × List Nat)
  /-- WTBASE writes through control space that wait for the update before them: the context and the value (R329) -/
  wtQueue : List (Nat × Word)
  /-- cores promised to waiting teams at the last quantum boundary: grid, team and cores (R424) -/
  promised : List (Nat × Nat × List Nat)
  deriving DecidableEq, Repr

/-- Why a step stops with a fault. -/
inductive Fault where
  /-- raised by `step`: the agenda names a slot operation, which only dispatch issues. Safe: no agenda of the hardware's own
  events holds one. -/
  | notAnEvent
  deriving DecidableEq, Repr

/-- Why a step is refused. -/
inductive Refusal where
  /-- raised by an arm of `exec` whose instruction has no meaning yet, with its mnemonic. Safe: nothing is claimed of it. -/
  | notModelled (mnemonic : String)
  deriving DecidableEq, Repr

/-- A slot with nothing issued (R68). -/
def SlotState.start : SlotState :=
  { pos := 0, time := 0, ea := 0, os := 0, od := 0, flights := [], wait := none, held := false, stopped := false, cap := none
    skip := false, pview := [], cool := 0 }

/-- The site of no operation. -/
def Site.none : Site := { addr := 0, mpc := 0, rep := 0, word := 0, ea := 0, guard := 0 }

/-- An issue that holds nothing. -/
def Issue.empty : Issue :=
  { idx := 0, start := 0, addr := 0, next := 0, rep := 0, mpc0 := 0, mpc := 0, sync := 0, ops := [], fresh := 0
    metaWord := none, levels := [], lp := [], stickyBefore := [] }

/-- A sequencer about to dispatch at an address, every slot idle (R68). -/
def Pipe.init (pc mpc : Word) : Pipe :=
  { pc := pc, mpc := mpc, rep := 0, mpc0 := mpc, count := 0, start := 0, ended := none, blocked := false, redirect := none
    opening := none, queue := [], sticky := List.replicate 7 none, levels := [], marks := [], base := 0, skipNext := false, halt := false, lp := []
    slots := List.replicate 7 SlotState.start }

/-- A timeline counter at launch (R273). -/
def Counter.zero : Counter := { issued := 0, done := 0, early := [], poisoned := [], record := none }

/-- The registers of a shadow bank, s56 to s63, a24 to a31 and p24 to p31, all zero (R282, R317, R419). -/
def shadowZero : List (Reg × Word) :=
  ((List.range 8).map fun i => (⟨.s, 56 + i⟩, 0)) ++ ((List.range 8).map fun i => (⟨.a, 24 + i⟩, 0)) ++
    ((List.range 8).map fun i => (⟨.p, 24 + i⟩, 0))

/-- A context whose registers hold their reset values, not yet running (R419). (DESIGN CHOICE, log 2)
(DESIGN CHOICE, log 3) -/
def Ctx.reset : Ctx :=
  { uid := 0, run := .empty, core := 0, grid := 0, team := 0, member := 0, rank := 0
    sreg := Vector.replicate 64 0, areg := Vector.replicate 32 0
    preg := (Vector.replicate 32 0).set 0 (BitVec.allOnes 64)
    lpWrites := [], vreg := Vector.replicate 64 0, zreg := Vector.replicate 8 (Vector.replicate 64 0), tsreg := Vector.replicate 16 0
    bdreg := Vector.replicate 16 1, kreg := Vector.replicate 16 0
    slreg := Vector.replicate 4 (BitVec.ofNat 512 ((List.range 64).foldl (fun acc _ => acc * 256 + 0x7F) 0))
    tcs := Vector.replicate 16 Counter.zero, olds := [], oldViews := [], syncs := [], rpoison := []
    ctxid := 0, ctxstat := 0, domc := 0x0000010000000000, domd := 0x0000010000000000, domp := 0x0000010000000000
    domf := 0x0000010000000000, fpst := 0, fpnow := 0, crNow := []
    rseed0 := 0x9E3779B97F4A7C15, rseed1 := 0x9E3779B97F4A7C15, rseedm := 0x9E3779B97F4A7C15, rseeds := 0x9E3779B97F4A7C15
    uivec := 0, uipc := 0, uistat := 0, uiclear := false, bcap := 0, chst := 0, ldra := 0, geomode := 0, rwin := 0
    tkexp := 0x000186A0000003E8, cflim := 4, trapvec := 0, traprec := 0, faultrec := 0, preq := 0, wtbase := 0, prmst := 0
    trstat := 0, windows := [], bindings := [], bovf := false, arms := List.replicate 8 none, gated := []
    ssteps := Vector.replicate 5 0, order := [], orderLen := 0, tileBits := [], tileNow := [], tileWait := []
    trayHeads := Vector.replicate 16 ⟨0, 15, 0⟩, landings := [], replay := [], releases := []
    pipe := Pipe.init 0 0, now := ⟨0, Issue.empty, none, false, false⟩, raised := [], trapped := none, recordAt := 0
    trapShadow := shadowZero, uiShadow := shadowZero, uiSaved := none, array := none, hist := [], chain := none
    drain := 0, tldPort := 0, geoBusy := (0, 0), wfeLatch := 0, ratoms := 0, dbgCode := none, trBase := 0, trLen := 0
    trMode := 0, trCycle := 0, trCount := 0, drainFor := 0, drainDrn := none, drainDepth := 0, drainReg := 0, idle := false }

/-- The machine right after reset: no context on any core, stewards not yet released, nothing listed in memory. (DESIGN CHOICE, log 2) -/
def State.reset : State :=
  { ctx := Ctx.reset, others := [], agenda := [], input := Input.zero, fresh := 0, delays := [], pauses := []
    clock := 0, age := 0, mem := [], history := [], known := [], released := [], views := [], poison := []
    pages := [], denied := [], frames := [], reuse := [], reqs := [], resps := [], cmds := [], lanes := [], barriers := []
    ticketMsgs := [], tickets := [], grids := [], gridCount := 0, teams := []
    stewards := Vector.replicate 4 ⟨0, false, false, false⟩, errq := [], errSeq := Vector.replicate 4 0
    throttle := Vector.replicate 4 0, budget := 0, quantum := Vector.replicate 4 0, dims := (1, 1, 1), coords := (0, 0, 0)
    links := [], farDown := [], shapeError := false, draining := [], poolDown := [], evstat := 0, even := 0, bootst := 0, resmap := 0, msix := 0
    errCount := [], coreErrors := [], hevts := [], hostmaps := [], qps := []
    boot := ⟨none, none, 0, none, false, []⟩, spdm := [], gatedCores := []
    flashHead := Vector.replicate 4 0, flashFree := [], mailbox := none, wtUpdate := none, wtQueue := [], promised := [] }

end Sys2Proof.Machine
end

