-- ==== Sys2Proof/Machine/Mem.lean ====
section
/-! DEFINITION. The store of bytes: its canonical form, reading and writing of byte runs, and the keys under which the bytes of
each region stand. -/

namespace Sys2Proof.Machine
namespace Mem

/-- Canonical form: keys strictly rising and no entry zero. (DESIGN CHOICE, log 1) -/
def wf : Mem → Bool
  | [] => true
  | [c] => c.2 != 0
  | c :: d :: r => c.2 != 0 && decide (c.1 < d.1) && wf (d :: r)

/-- The byte at a key; a byte nothing has written reads as zero (DESIGN CHOICE, log 1). -/
def byte (m : Mem) (k : Nat) : Byte :=
  match m.find? fun c => c.1 == k with
  | some c => c.2
  | none => 0

/-- `n` bytes from key `k` on, out of entries whose keys are `k` or above. (DESIGN CHOICE, log 1) -/
def expand : Nat → Nat → Mem → List Byte
  | _, 0, _ => []
  | k, n + 1, [] => 0 :: expand (k + 1) n []
  | k, n + 1, c :: cs => if c.1 = k then c.2 :: expand (k + 1) n cs else 0 :: expand (k + 1) n (c :: cs)

/-- The `n` bytes from key `k` on. (DESIGN CHOICE, log 11) -/
def read (m : Mem) (k n : Nat) : List Byte := expand k n (m.dropWhile fun c => decide (c.1 < k))

/-- The entries of a run of bytes: those that are not zero. -/
def cells : Nat → List Byte → Mem
  | _, [] => []
  | k, b :: bs => if b = 0 then cells (k + 1) bs else (k, b) :: cells (k + 1) bs

/-- The run `bs` written from key `k` on. -/
def write (m : Mem) (k : Nat) (bs : List Byte) : Mem :=
  (m.takeWhile fun c => decide (c.1 < k)) ++ cells k bs ++ m.dropWhile fun c => decide (c.1 < k + bs.length)

/-- The number the `n` bytes at `k` hold, little-endian (R4). -/
def readNat (m : Mem) (k n : Nat) : Nat := Bits.leNat (read m k n)

/-- The `len` bytes from `lo` on moved to `dest`, whose bytes they replace; those left behind are zero. -/
def shift (m : Mem) (lo len dest : Nat) : Mem :=
  let inside (c : Host.Cell) : Bool := decide (lo ≤ c.1) && decide (c.1 < lo + len)
  let rest := m.filter fun c => !inside c
  (rest.takeWhile fun c => decide (c.1 < dest)) ++ (m.filter inside).map (fun c => (c.1 - lo + dest, c.2)) ++
    rest.dropWhile fun c => decide (c.1 < dest + len)

end Mem

/-- Keys of one package's regions. -/
def regionKey (pkg region off : Nat) : Nat := (pkg * 8 + region) * 2 ^ 48 + off

/-- The key of a device-physical address (R23) of the package with key number `pkg`. -/
def physKey (pkg a : Nat) : Nat := regionKey pkg 0 a
/-- The key of an offset in the basket of package cluster `c`. -/
def basketKey (c off : Nat) : Nat := regionKey 0 1 (c * 2 ^ 24 + off)
/-- The key of an offset in the hamper of die `d`. -/
def hamperKey (d off : Nat) : Nat := regionKey 0 2 (d * 2 ^ 26 + off)
/-- The key of an offset in the pocket of a package core. -/
def pocketKey (core off : Nat) : Nat := regionKey 0 3 (core * 2 ^ 21 + off)
/-- The key of a byte of a tray slot of a package core. -/
def trayKey (core slot off : Nat) : Nat := regionKey 0 4 (core * 2 ^ 18 + slot * 2 ^ 14 + off)
/-- The key of a byte of the mailbox pages (R435). -/
def mailKey (off : Nat) : Nat := regionKey 0 5 off

/-- The key of a byte of the host's memory, by its host address (R434, R437). -/
def hostKey (a : Nat) : Nat := 2 ^ 128 + a

/-- Bytes of a pocket (R17). -/
def pocketSize : Nat := 0x180000

end Sys2Proof.Machine
end

