-- ==== Sys2Proof/Machine/Ops.lean ====
section
/-! DEFINITION. The named operations over registers, slots and memory that every meaning shares: register reads and writes, the
guard, results in flight, effective addresses, pointers and their checks (R197 to R203), traps (R313 to R322). -/

namespace Sys2Proof.Machine

/-- What `exec` and `step` answer. -/
abbrev Out := Host.Outcome State Fault Refusal

/-! ### Slots -/

/-- The state of slot `k`. -/
def Ctx.slot (c : Ctx) (k : Slot) : SlotState := c.pipe.slots.getD k.val SlotState.start

/-- Slot `k` changed by `f`. -/
def Ctx.mapSlot (c : Ctx) (k : Slot) (f : SlotState → SlotState) : Ctx :=
  { c with pipe := { c.pipe with slots := c.pipe.slots.modify k.val f } }

/-- The focused context changed by `f`. -/
def State.mapCtx (s : State) (f : Ctx → Ctx) : State := { s with ctx := f s.ctx }

/-- The executing slot. -/
def State.k (s : State) : Slot := s.ctx.now.slot

/-- The executing slot's state. -/
def State.slot (s : State) : SlotState := s.ctx.slot s.k

/-- A change made when a condition holds. -/
def State.when (s : State) (b : Bool) (f : State → State) : State := if b then f s else s

/-- The executing slot changed by `f`. -/
def State.mapSlot (s : State) (f : SlotState → SlotState) : State := s.mapCtx fun c => c.mapSlot s.k f

/-- The operation is not issued now; its slot tries again in the next cycle. -/
def State.stall (s : State) : State := s.mapCtx fun c => { c with now := { c.now with stalled := true } }

/-- The operation is new in this issue, not a sticky or repeated re-issue (R67). -/
def State.isNew (s : State) : Bool := s.ctx.now.issue.fresh.getLsbD s.k.val

/-- A value of the model's free counter, and the state with the counter advanced. (DESIGN CHOICE, log 4) -/
def State.takeFresh (s : State) : Nat × State := (s.fresh, { s with fresh := s.fresh + 1 })

/-- The delay of the next request or command, and the state with it taken. (DESIGN CHOICE, log 4) (DESIGN CHOICE, log 8)
(DESIGN CHOICE, log 107) -/
def State.takeDelay (s : State) : Nat × State :=
  match s.delays with
  | [] => (0, s)
  | d :: ds => (d, { s with delays := ds })

/-! ### Control and status bits -/

/-- CTXSTAT.PRIV (R333). -/
def Ctx.priv (c : Ctx) : Bool := c.ctxstat.getLsbD 1
/-- CTXSTAT.TACT. -/
def Ctx.tact (c : Ctx) : Bool := c.ctxstat.getLsbD 2
/-- CTXSTAT.DBG. -/
def Ctx.dbg (c : Ctx) : Bool := c.ctxstat.getLsbD 7
/-- UISTAT.ACT (R284). -/
def Ctx.uiAct (c : Ctx) : Bool := c.uistat.getLsbD 31
/-- UISTAT.EN. -/
def Ctx.uiEn (c : Ctx) : Bool := c.uistat.getLsbD 30
/-- The address-space number of CTXID (R333). -/
def Ctx.asn (c : Ctx) : Byte := c.ctxid.extractLsb' 56 8
/-- The compute die of the core a context runs on (R15). -/
def Ctx.die (c : Ctx) : Nat := c.core / 128 % 4
/-- The cluster of the package a context runs on (R15). -/
def Ctx.cluster (c : Ctx) : Nat := c.core / 16 % 32
/-- DOMC.SIZE, the team's size (R61). -/
def Ctx.teamSize (c : Ctx) : Nat := Bits.fld c.domc 40 23

/-- The domain die number of die `d` of this package (R26): x + 8·y + 64·z. -/
def State.domDie (s : State) (d : Nat) : Nat :=
  (2 * s.coords.1 + d % 2) + 8 * (2 * s.coords.2.1 + d / 2 % 2) + 64 * s.coords.2.2

/-- CORELOC.DDIE of the focused context's core (R31). -/
def State.ddie (s : State) : Nat := s.domDie s.ctx.die

/-- The domain holds a die of this number (R26, R29). -/
def State.diePresent (s : State) (n : Nat) : Bool :=
  n % 8 < 2 * s.dims.1 && n / 8 % 8 < 2 * s.dims.2.1 && n / 64 < s.dims.2.2

/-- The key number of the package that holds a domain die: 0 for this package, else 1 + px + 4·py + 16·pz. -/
def State.pkgOf (s : State) (n : Nat) : Nat :=
  let p := (n % 8 / 2, n / 8 % 8 / 2, n / 64)
  if p = s.coords then 0 else 1 + p.1 + 4 * p.2.1 + 16 * p.2.2

/-! ### Registers -/

/-- s[n]; s0 reads zero (R99). (DESIGN CHOICE, log 10) -/
def Ctx.sval (c : Ctx) (n : Nat) : Word := if n = 0 then 0 else (c.sreg[n]?).getD 0
/-- a[n]. -/
def Ctx.aval (c : Ctx) (n : Nat) : Word := (c.areg[n]?).getD 0
/-- p[n] as slot `k` sees it: p0 reads all ones; a loop predicate reads the value of the slot's own trip (R168). -/
def Ctx.pval (c : Ctx) (k : Slot) (n : Nat) : Word :=
  if n = 0 then BitVec.allOnes 64
  else match (c.slot k).pview.lookup n with
    | some v => v.1
    | none => (c.preg[n]?).getD 0
/-- v[n]. -/
def Ctx.vval (c : Ctx) (n : Nat) : Vec := (c.vreg[n]?).getD 0
/-- z[n]. -/
def Ctx.zval (c : Ctx) (n : Nat) : Tile := (c.zreg[n]?).getD (Vector.replicate 64 0)
/-- ts[n] (R286). -/
def Ctx.tsval (c : Ctx) (n : Nat) : Word := (c.tsreg[n]?).getD 0
/-- k[n] (R412). -/
def Ctx.kval (c : Ctx) (n : Nat) : Word := (c.kreg[n]?).getD 0
/-- bd[n] (R305). -/
def Ctx.bdval (c : Ctx) (n : Nat) : Nat := (c.bdreg[n]?).getD 1
/-- Latch set n (R293). -/
def Ctx.slval (c : Ctx) (n : Nat) : Latch := (c.slreg[n]?).getD 0
/-- Timeline counter n (R273). -/
def Ctx.tcval (c : Ctx) (n : Nat) : Counter := (c.tcs[n]?).getD Counter.zero

/-- A control register that the context holds and that several slots read. -/
def Ctx.crRaw (c : Ctx) (n : Nat) : Word :=
  match n with
  | 0x009 => c.rseed0
  | 0x00A => c.rseed1
  | 0x00B => c.rseedm
  | 0x00D => c.rseeds
  | 0x014 => c.bcap
  | 0x015 => c.chst
  | 0x018 => c.geomode
  | 0x01B => c.cflim
  | _ => 0

/-- A register of any file as slot `k` reads it, in the low bits of 2,048. (DESIGN CHOICE, log 10) -/
def Ctx.regVal (c : Ctx) (k : Slot) (r : Reg) : Vec :=
  match r.file with
  | .s => (c.sval r.num).setWidth 2048
  | .a => (c.aval r.num).setWidth 2048
  | .p => (c.pval k r.num).setWidth 2048
  | .v => c.vval r.num
  | .ts => (c.tsval r.num).setWidth 2048
  | .k => (c.kval r.num).setWidth 2048
  | .sl => (c.slval r.num).setWidth 2048
  | .bd => BitVec.ofNat 2048 (c.bdval r.num)
  | .cr => (c.crRaw r.num).setWidth 2048
  | .lc | .z | .tc => 0

/-- The value before a write of another slot in which slot `k` reads a register, where it does (R78). (DESIGN CHOICE, log 10) -/
def Ctx.oldRead (c : Ctx) (k : Slot) (r : Reg) : Option Vec :=
  if c.oldViews = [] then none else (c.oldViews.find? fun v => v.1 = k && v.2.reg == r).map fun v => v.2.val

/-- The value in which the executing operation reads a register, where that is not the register's own: the captured one when its slot
replays a trapped operation (R319), or one before a write that its slot need not see yet (R78). (DEDUCED, log 112) -/
def State.captured (s : State) (r : Reg) : Option Vec :=
  (s.ctx.now.cap.bind fun c => c.regs.lookup r).or (s.ctx.oldRead s.k r)

/-- s[n] as the executing operation reads it. -/
def State.rs (s : State) (n : Nat) : Word :=
  match s.captured ⟨.s, n⟩ with
  | some v => v.setWidth 64
  | none => s.ctx.sval n
/-- a[n] as the executing operation reads it. -/
def State.ra (s : State) (n : Nat) : Word :=
  match s.captured ⟨.a, n⟩ with
  | some v => v.setWidth 64
  | none => s.ctx.aval n
/-- p[n] as the executing operation reads it. -/
def State.rp (s : State) (n : Nat) : Word :=
  match s.captured ⟨.p, n⟩ with
  | some v => v.setWidth 64
  | none => s.ctx.pval s.k n
/-- v[n] as the executing operation reads it. -/
def State.rv (s : State) (n : Nat) : Vec :=
  match s.captured ⟨.v, n⟩ with
  | some v => v
  | none => s.ctx.vval n
/-- ts[n] as the executing operation reads it. -/
def State.rts (s : State) (n : Nat) : Word :=
  match s.captured ⟨.ts, n⟩ with
  | some v => v.setWidth 64
  | none => s.ctx.tsval n
/-- k[n] as the executing operation reads it. -/
def State.rk (s : State) (n : Nat) : Word :=
  match s.captured ⟨.k, n⟩ with
  | some v => v.setWidth 64
  | none => s.ctx.kval n
/-- bd[n] as the executing operation reads it. -/
def State.rbd (s : State) (n : Nat) : Nat :=
  match s.captured ⟨.bd, n⟩ with
  | some v => v.toNat
  | none => s.ctx.bdval n
/-- A control register of `crRaw` as the executing operation reads it. -/
def State.rcr (s : State) (n : Nat) : Word :=
  match s.captured ⟨.cr, n⟩ with
  | some v => v.setWidth 64
  | none => s.ctx.crRaw n
/-- Latch set n as the executing operation reads it. -/
def State.rsl (s : State) (n : Nat) : Latch :=
  match s.captured ⟨.sl, n⟩ with
  | some v => v.setWidth 512
  | none => s.ctx.slval n
/-- z[n] as the executing operation reads it. (DEDUCED, log 112) -/
def State.rz (s : State) (n : Nat) : Tile :=
  match s.ctx.now.cap.bind fun c => c.tiles.lookup n with
  | some t => t
  | none => s.ctx.zval n

/-- The trip whose value of p[n] a slot sees: 1 plus the issue with which it began, 0 where no loop has set it. (DEDUCED, log 20) -/
def SlotState.trip (x : SlotState) (n : Nat) : Nat := ((x.pview.lookup n).map Prod.snd).getD 0

/-- A slot's view of p[n] set. -/
def SlotState.seeP (x : SlotState) (n : Nat) (v : Word) (trip : Nat) : SlotState :=
  { x with pview := (n, v, trip) :: x.pview.filter fun e => e.1 != n }

/-- An instruction of a slot in trip `t` of p[n] has written it, in place of `old` in the predicate file: the slots in the same trip see the
write, those in an earlier or a later one keep their own trip's value (R85, R168). (DEDUCED, log 20) -/
def Pipe.seeWrite (p : Pipe) (n t : Nat) (old v : Word) : Pipe :=
  { p with slots := p.slots.map fun x =>
      if x.trip n = t then (if (x.pview.lookup n).isSome then x.seeP n v t else x)
      else if x.trip n < t && (x.pview.lookup n).isNone then x.seeP n old 0 else x }

/-- A handler's write to p[n], as the code it interrupted sees it. (DEDUCED, log 20) -/
def Pipe.overwrite (p : Pipe) (n : Nat) (v : Word) : Pipe :=
  { p with slots := p.slots.map fun x => { x with pview := x.pview.map fun e => if e.1 = n then (n, v, e.2.2) else e } }

/-- p[n] written by slot `k` (R85, R168). (DEDUCED, log 20) -/
def Ctx.putPred (c : Ctx) (k : Slot) (n : Nat) (v : Word) : Ctx :=
  let t := (c.slot k).trip n
  let old (p : Pipe) : Pipe := if n < 24 then p.overwrite n v else p
  { c with preg := c.preg.setIfInBounds n v, pipe := c.pipe.seeWrite n t ((c.preg[n]?).getD 0) v
           lpWrites := if t = 0 then c.lpWrites else ⟨n, t, v, k⟩ :: c.lpWrites
           trapped := c.trapped.map fun q => (old q.1, q.2), uiSaved := c.uiSaved.map fun q => (old q.1, q.2) }

/-- Words of a register are written whole: poison on them goes (R447). (DEDUCED, log 133) -/
def Ctx.cleanReg (c : Ctx) (r : Reg) (word : Nat → Bool) : Ctx :=
  if c.rpoison = [] then c else { c with rpoison := c.rpoison.filter fun p => !(p.1 == r && word p.2) }

/-- A word of a register is poisoned (R446). (DEDUCED, log 133) -/
def Ctx.soilReg (c : Ctx) (r : Reg) (word : Nat) : Ctx :=
  if c.rpoison.contains (r, word) then c else { c with rpoison := (r, word) :: c.rpoison }

/-- A register of the files s, a, p, k, ts, bd written by an operation of slot `k`; writes to s0 and p0 are discarded (R130). -/
def Ctx.putReg (c : Ctx) (k : Slot) (r : Reg) (v : Word) : Ctx :=
  match r.file with
  | .s => if r.num = 0 then c else { c with sreg := c.sreg.setIfInBounds r.num v }
  | .a => { c with areg := c.areg.setIfInBounds r.num v }
  | .p => if r.num = 0 then c else c.putPred k r.num v
  | .k => { c with kreg := c.kreg.setIfInBounds r.num v }
  | .ts => { c with tsreg := c.tsreg.setIfInBounds r.num v }
  | .bd => { c with bdreg := c.bdreg.setIfInBounds r.num v.toNat }
  | .v | .lc | .z | .sl | .tc | .cr => c

/-- Control registers that slots other than the writer's read. (DESIGN CHOICE, log 10) -/
def crShared (n : Nat) : Bool :=
  n = 0x009 || n = 0x00A || n = 0x00B || n = 0x00D || n = 0x014 || n = 0x015 || n = 0x018 || n = 0x01B

/-- The registers that effects write, as the other slots may still read them (R78); FPST has an order of its own (R46).
(DESIGN CHOICE, log 10) -/
def Eff.regs : Eff → List Reg
  | .reg r _ => [r]
  | .vec d _ _ => [⟨.v, d⟩]
  | .latch d _ _ => [⟨.sl, d⟩]
  | .outside _ d _ => [⟨.s, d⟩]
  | .cwr n _ => if crShared n then [⟨.cr, n⟩] else []
  | .chst _ => [⟨.cr, 0x015⟩]
  | .esc _ _ => [⟨.cr, 0x018⟩]
  | .flags _ | .release _ => []

/-- The slots that may still read a register as it was before a write of slot `k`: the others, and of a loop predicate those in the
writer's trip (R78, R168). (DESIGN CHOICE, log 10) -/
def Ctx.oldReaders (c : Ctx) (k : Slot) (r : Reg) : BitVec 7 :=
  BitVec.ofNat 7 ((List.finRange 7).foldl (fun a m =>
    if m = k || (r.file == .p && (c.slot m).trip r.num != (c.slot k).trip r.num) then a else a + 2 ^ m.val) 0)

/-- Slot `k` is about to make effects: the other slots may still read what its registers hold now (R78). (DESIGN CHOICE, log 10) -/
def Ctx.keepOld (c : Ctx) (k : Slot) (es : List Eff) : Ctx :=
  { c with olds := ((es.flatMap Eff.regs).map fun r => ⟨r, c.regVal k r, k, c.oldReaders k r⟩) ++ c.olds }

/-- Slots consume an issue of a SYNC that names them: each sees the writes of the others that have fallen due (R78). (DESIGN CHOICE, log 10) -/
def Ctx.syncOlds (c : Ctx) (sync : BitVec 7) : Ctx :=
  if c.olds = [] && c.oldViews = [] then c
  else
    let off (o : OldReg) : OldReg := if sync.getLsbD o.writer.val then { o with readers := o.readers &&& ~~~sync } else o
    { c with
      olds := (c.olds.map off).filter fun o => o.readers != 0
      oldViews := c.oldViews.filter fun v => !(sync.getLsbD v.1.val && sync.getLsbD v.2.writer.val) }

/-- Slot `k` reads a register as it was before the `n`-th of the writes that it need not see yet; with none, as it is (R78).
(DESIGN CHOICE, log 10) -/
def Ctx.readOld (c : Ctx) (k : Slot) (r : Reg) (n : Nat) : Ctx :=
  let rest := c.oldViews.filter fun v => !(v.1 = k && v.2.reg == r)
  match (c.olds.filter fun o => o.reg == r && o.readers.getLsbD k.val)[n]? with
  | some o => { c with oldViews := (k, o) :: rest }
  | none => { c with oldViews := rest }

/-- The registers that a shadow bank replaces (R282, R317). -/
def shadowedReg (r : Reg) : Bool :=
  (r.file == .s && 56 ≤ r.num) || (r.file == .a && 24 ≤ r.num) || (r.file == .p && 24 ≤ r.num)

/-- A register of a bank replaced. -/
def bankSet (b : List (Reg × Word)) (r : Reg) (v : Word) : List (Reg × Word) :=
  b.map fun e => if e.1 == r then (r, v) else e

/-- A result written to its register. A result of code interrupted by a completion interrupt goes to that code's copy of a
shadowed register, and a handler's to the handler's (R282). -/
def Ctx.writeReg (c : Ctx) (act : Bool) (k : Slot) (r : Reg) (v : Word) : Ctx :=
  if shadowedReg r && act != c.uiAct then { c with uiShadow := bankSet c.uiShadow r v } else (c.cleanReg r fun _ => true).putReg k r v

/-- A 64-bit register of the banked files. -/
def Ctx.bankVal (c : Ctx) (r : Reg) : Word :=
  match r.file with
  | .s => c.sval r.num
  | .a => c.aval r.num
  | _ => (c.preg[r.num]?).getD 0

/-- The registers of a bank exchanged with the context's. -/
def Ctx.swapBank (c : Ctx) (bank : List (Reg × Word)) : Ctx × List (Reg × Word) :=
  let out := bank.map fun e => (e.1, c.bankVal e.1)
  let c' := bank.foldl (fun c e =>
    match e.1.file with
    | .s => { c with sreg := c.sreg.setIfInBounds e.1.num e.2 }
    | .a => { c with areg := c.areg.setIfInBounds e.1.num e.2 }
    | _ => { c with preg := c.preg.setIfInBounds e.1.num e.2 }) c
  (c', out)

/-- The operation the executing slot issues. -/
def State.curInstr (s : State) : Instr := ((s.ctx.now.issue.ops.getD s.k.val none)).getD (.nop .s)

/-- An operation in the memory form (R126). -/
def memoryForm (i : Instr) : Bool :=
  match Encode.bodyOf i with
  | some b => (b >>> 48) % 4 == 2
  | none => false

/-! ### The guard and results in flight -/

/-- The guard predicate of the executing operation, inversion applied (R121). -/
def State.guardVal (s : State) (pred : BitVec 5) (pneg : Bool) : Word :=
  let g := match s.ctx.now.cap with
    | some c => c.guard
    | none => s.rp pred.toNat
  if pneg then ~~~g else g

/-- An S, M, Q or C operation acts (R121). -/
def State.acts (s : State) (pred : BitVec 5) (pneg : Bool) : Bool := (s.guardVal pred pneg).getLsbD 0

/-- `act` when the guard holds; otherwise the operation has no effect (R121). -/
def State.guarded (s : State) (pred : BitVec 5) (pneg : Bool) (act : State → State) : State :=
  if s.acts pred pneg then act s else s

/-- The issue of the executing operation, for records (R320). -/
def State.site (s : State) : Site :=
  let i := s.ctx.now.issue
  let op := s.curInstr
  { addr := i.addr, mpc := i.mpc, rep := i.rep, word := (Encode.slotWord op).getD 0, ea := if memoryForm op then s.slot.ea else 0
    guard := match s.ctx.now.cap with
      | some c => c.guard
      | none => s.rp (Legality.guard op).1.toNat }

/-- A result due `lat` cycles of the executing slot's time after now (R74, R75). (DEDUCED, log 9) -/
def State.post (s : State) (lat : Nat) (effs : List Eff) (mem : Option MemOp := none) : State :=
  s.mapSlot fun x =>
    { x with flights := x.flights ++ [⟨x.time + lat, s.ctx.now.issue.idx, s.site, s.ctx.uiAct, effs, mem⟩] }

/-- A register result due after `lat` cycles. -/
def State.postReg (s : State) (lat : Nat) (r : Reg) (v : Word) : State := s.post lat [.reg r v]

/-! ### Effective addresses -/

/-- The effective address of a memory-form operation (R126, R132): `first` on its first issue, the sticky copy advanced by
STEP × unit on a re-issue, the captured one at a replay. -/
def State.eaOf (s : State) (f : MForm) (unit : Nat) (first : Word) : Word :=
  match s.ctx.now.cap with
  | some c => c.ea
  | none => if s.isNew then first else Bits.addI s.slot.ea (f.step.toInt * unit)

/-- EA of R126: a[BASE] + s[IDX] + sext(DISP). -/
def State.eaStd (s : State) (f : MForm) (unit : Nat) : Word :=
  s.eaOf f unit (Bits.addI (s.ra f.base.toNat + s.rs f.idx.toNat) f.disp.toInt)

/-- EA of the landing loads: DISP[6:0] is the displacement (R126, R229). -/
def State.eaLand (s : State) (f : MForm) (unit : Nat) : Word :=
  s.eaOf f unit (Bits.addI (s.ra f.base.toNat + s.rs f.idx.toNat) (Bits.sInt 7 f.disp.toNat))

/-- EA of the forms whose DISP[9:0] is a signed offset (R261, R301, R408, R413). -/
def State.eaOfs (s : State) (f : MForm) (unit : Nat) : Word :=
  s.eaOf f unit (Bits.addI (s.ra f.base.toNat) (Bits.sInt 10 f.disp.toNat))

/-- EA of the indexed vector forms: a[BASE] + sext(DISP) (R192). -/
def State.eaIdx (s : State) (f : MForm) (unit : Nat) : Word :=
  s.eaOf f unit (Bits.addI (s.ra f.base.toNat) f.disp.toInt)

/-- EA of RSTD: a[BASE] (R413). -/
def State.eaBase (s : State) (f : MForm) (unit : Nat) : Word := s.eaOf f unit (s.ra f.base.toNat)

/-- A memory-form operation: its address steps whether or not it acts (R133); then `act` runs under the guard. -/
def State.memForm (s : State) (f : MForm) (ea : Word) (act : State → State) : State :=
  let s := s.mapSlot fun x => { x with ea := ea }
  if s.acts f.pred f.pneg then act s else s

/-! ### Pointers -/

/-- The spaces of R197. -/
inductive Space where
  | global | pocket | basket | hamper | remote | control | hole
  deriving DecidableEq, Repr

/-- The space a pointer's bits 63:56 select (R197). -/
def spaceOf (p : Word) : Space :=
  if !p.getLsbD 63 then .global
  else
    match Bits.fld p 56 8 with
    | 0x80 => .pocket
    | 0x81 => .basket
    | 0x82 => .hamper
    | 0x84 => .remote
    | 0x88 => .control
    | _ => .hole

/-- A bit that must be zero is set (R197). -/
def mbzBad (p : Word) : Bool :=
  match spaceOf p with
  | .global => Bits.fld p 48 15 != 0
  | .pocket => Bits.fld p 21 26 != 0
  | .basket => Bits.fld p 24 27 != 0
  | .hamper => Bits.fld p 26 28 != 0
  | .remote | .control | .hole => false

/-- The core a pocket pointer names: 0x1FF is the executing core (R16). -/
def pocketCore (core : Nat) (p : Word) : Nat := if Bits.fld p 47 9 = 0x1FF then core else Bits.fld p 47 9

/-- The window entry that covers a virtual address (R200). -/
def findWindow (ws : List WinEntry) (va : Nat) : Option WinEntry :=
  ws.find? fun w => w.npage != 0 && w.vbase.toNat * 4096 ≤ va && va < (w.vbase.toNat + w.npage.toNat) * 4096

/-- The address a window maps `va` to (R200). -/
def WinEntry.map (w : WinEntry) (va : Nat) : Nat := w.dbase.toNat * 4096 + va - w.vbase.toNat * 4096

/-- The permissions of R202, by bit of PERM. -/
inductive Perm where
  | read | write | exec | atomic
  deriving DecidableEq, Repr

/-- A window grants a permission (R200). -/
def WinEntry.allows (w : WinEntry) : Perm → Bool
  | .read => w.perm.getLsbD 0
  | .write => w.perm.getLsbD 1
  | .exec => w.perm.getLsbD 2
  | .atomic => w.perm.getLsbD 3

/-- Control-space offsets that hold storage (R440): the BAR0 image, the wake words, the control registers. -/
def controlValid (off : Nat) : Bool :=
  match off / 2 ^ 48 with
  | 0x00 => off % 2 ^ 48 < 65536
  | 0x20 => off % 2 ^ 48 < 4096
  | 0x30 => off % 2 ^ 48 < 2 ^ 22
  | _ => false

/-- The append-log ports (R440). -/
def logPort (off : Nat) : Bool := 0x10 ≤ off / 2 ^ 48 && off / 2 ^ 48 ≤ 0x13

/-- A check of R198 that failed: its order, and the class and cause of the outcome (R313, R314). -/
structure Bad where
  order : Nat
  cls : Byte
  cause : Byte
  deriving DecidableEq, Repr

/-- What an access is, for the checks of R198. -/
structure Access where
  perm : Perm
  size : Nat
  /-- natural alignment to the size is required (check 6) -/
  aligned : Bool
  /-- it reaches only the executing core's pocket -/
  pocketOnly : Bool
  deriving DecidableEq, Repr

/-- The checks of R198 on the access at `ea`, in order, and the place of its bytes when all hold. (DEDUCED, log 116) -/
def State.check (s : State) (x : Access) (ea : Word) : Except Bad Place :=
  let sp := spaceOf ea
  let va := Bits.fld ea 0 48
  let off := Bits.fld ea 0 56
  let align := x.aligned && ea.toNat % x.size != 0
  if sp = .hole || mbzBad ea || (sp = .remote && !s.diePresent (Bits.fld ea 48 8)) || (x.pocketOnly && sp != .pocket) then
    .error ⟨1, 0x24, 0⟩
  else
    match sp with
    | .control =>
      if !s.ctx.priv then .error ⟨2, 0x02, 2⟩
      else if x.perm = .atomic || logPort off then .error ⟨1, 0x24, 0⟩
      else if !controlValid off || !controlValid (off + x.size - 1) then .error ⟨5, 0x22, 0⟩
      else .ok (.control off)
    | .pocket =>
      let o := Bits.fld ea 0 21
      if pocketCore s.ctx.core ea != s.ctx.core then .error ⟨3, 0x23, 0⟩
      else if pocketSize < o + x.size then .error ⟨5, 0x22, 0⟩
      else if align then .error ⟨6, 0x22, 1⟩
      else .ok (.port (pocketKey s.ctx.core o))
    | .basket =>
      let o := Bits.fld ea 0 24
      if 2 ^ 24 < o + x.size then .error ⟨5, 0x22, 0⟩
      else if align then .error ⟨6, 0x22, 1⟩
      else .ok (.port (basketKey (Bits.fld ea 51 5) o))
    | .hamper =>
      let o := Bits.fld ea 0 26
      if 2 ^ 26 < o + x.size then .error ⟨5, 0x22, 0⟩
      else if align then .error ⟨6, 0x22, 1⟩
      else .ok (.port (hamperKey (Bits.fld ea 54 2) o))
    | _ =>
      match findWindow s.ctx.windows va with
      | none => .error ⟨4, 0x21, 0⟩
      | some w =>
        if !w.allows x.perm then .error ⟨4, 0x21, 0⟩
        else if (w.vbase.toNat + w.npage.toNat) * 4096 < va + x.size then .error ⟨5, 0x22, 0⟩
        else if align then .error ⟨6, 0x22, 1⟩
        else if sp = .remote then .ok (.remote (Bits.fld ea 48 8) s.ctx.asn (w.map va))
        else .ok (.virt s.ctx.asn (w.map va))

/-- The pocket offset of a place that is a byte of the executing core's pocket. -/
def State.pocketOff (s : State) (p : Place) : Nat :=
  match p with
  | .port k => k - pocketKey s.ctx.core 0
  | _ => 0

/-- The place is a byte of the executing core's pocket. -/
def State.inPocket (s : State) (p : Place) : Bool :=
  match p with
  | .port k => pocketKey s.ctx.core 0 ≤ k && k < pocketKey s.ctx.core pocketSize
  | _ => false

/-- The tiles that hold the bytes from a pocket offset on are all full (R82). -/
def Ctx.tilesFull (c : Ctx) (off len : Nat) : Bool :=
  (List.range ((off + len - 1) / 4096 - off / 4096 + 1)).all fun i => c.tileBits.contains (off / 4096 + i)

/-! ### Requests -/

/-- The request an operation of the executing slot would send to a place. -/
def State.newReq (s : State) (ea : Word) (p : Place) (act : Action) (scope : BitVec 3) (land : Option Nat) : Req :=
  { id := 0, uid := s.ctx.uid, slot := s.k, idx := s.ctx.now.issue.idx, site := s.site, ea := ea, place := p
    act := act, scope := scope, priv := s.ctx.priv, ctxid := s.ctx.ctxid, src := s.ddie, land := land, ticket := none
    carried := [], isRstd := false, kmask := [], ratom := false, mergeable := false, hold := 0, issued := s.clock
    limit := Bits.fld s.ctx.tkexp 0 20, rnrt := Bits.fld s.ctx.tkexp 32 20, since := none, backoff := 0, poison := [], state := .source }

/-- The delay that the outside chose, as a time from now. (DESIGN CHOICE, log 8) -/
def State.arrival (s : State) : Nat × State :=
  let (d, s) := s.takeDelay
  (s.clock + d, s)

/-- A request enters the memory system with a number of its own; a remote one at its source router. -/
def State.send (s : State) (r : Req) : State :=
  match r.place with
  | .remote _ _ _ => { s with reqs := s.reqs ++ [{ r with id := s.fresh, state := .source }], fresh := s.fresh + 1 }
  | _ =>
    let (t, s) := s.arrival
    { s with reqs := s.reqs ++ [{ r with id := s.fresh, state := .sent t }], fresh := s.fresh + 1 }

/-- A landing entry is free (R79). -/
def State.landFree (s : State) : Bool := s.ctx.landings.length < 16

/-- A landing entry taken by the executing operation, due `dist` cycles from now. -/
def State.takeLanding (s : State) (dist : Nat) (dst : Option LandDst) (geo : Option GeoJob) (arrival : Bool := false) : Nat × State :=
  let e : Landing :=
    { id := s.fresh, slot := s.k, due := s.slot.time + dist, idx := s.ctx.now.issue.idx, site := s.site
      act := s.ctx.uiAct, dst := dst, arrival := arrival, data := none, geo := geo, pend := false, saved := false, poison := [], unsent := none }
  (s.fresh, { s with fresh := s.fresh + 1, ctx := { s.ctx with landings := s.ctx.landings ++ [e] } })

/-! ### Poison (R446, R447) -/

/-- The bytes of the granule that poison covers at a key: 64 in HBM, flash, pools and the host, 8 in SRAM (R446). -/
def granule (key : Nat) : Nat := if 2 ^ 128 ≤ key || key / 2 ^ 48 % 8 = 0 then 64 else 8

/-- Some byte of a range is poisoned. -/
def State.poisoned (s : State) (key len : Nat) : Bool := s.poison.any fun g => g < key + len && key < g + granule g

/-- The granule that holds a byte is poisoned (R446). -/
def State.poisonAt (s : State) (key : Nat) : State :=
  let g := key / granule key * granule key
  if s.poison.contains g then s else { s with poison := g :: s.poison }

/-- Bytes written: a write that covers a whole poisoned granule clears it (R447). -/
def State.writeMem (s : State) (key : Nat) (bytes : List Byte) : State :=
  { s with mem := Mem.write s.mem key bytes
           poison := if s.poison = [] then [] else
             s.poison.filter fun g => !(key ≤ g && g + granule g ≤ key + bytes.length) }

/-! ### The steward error queues -/

/-- An entry appended to the steward error queue of a die (R438). -/
def State.pushErr (s : State) (die : Nat) (kind : Byte) (ctxid : Word) (body : List Byte) : State :=
  let n := (s.errSeq[die]?).getD 0
  { s with errq := s.errq ++ [⟨die, kind, n, ctxid, body⟩], errSeq := s.errSeq.setIfInBounds die ((n + 1) % 2 ^ 32) }

/-- The 64 bytes of a command error record (R332). -/
def ErrRec.bytes (r : ErrRec) : List Byte :=
  Bits.natLe 8 (r.op.toNat + r.tc.toNat * 2 ^ 8 + r.link.toNat * 2 ^ 12 + r.cause.toNat * 2 ^ 16) ++ Bits.wordLe r.number ++
    (((List.range 6).map fun i => Bits.natLe 4 ((r.coords.getD i 0).toNat)).flatten) ++ Bits.wordLe r.remain ++
    Bits.wordLe r.addr ++ Bits.natLe 8 0

/-! ### Control registers (R334) -/

/-- CORELOC (R31). -/
def State.coreloc (s : State) : Word := BitVec.ofNat 64 (s.ddie * 2 ^ 16 + s.ctx.core % 512)

/-- BNDST (R268). -/
def Ctx.bndst (c : Ctx) : Word := BitVec.ofNat 64 ((if c.bovf then 64 else 0) + c.bindings.length % 64)

/-- UISTAT: ARMED and PEND follow the arm entries (R284). (DEDUCED, log 145) -/
def Ctx.uistatNow (c : Ctx) : Word :=
  let n (f : Arm → Bool) := (c.arms.filter fun a => a.any f).length
  Bits.setFld (Bits.setFld c.uistat 16 8 (n fun a => a.fired)) 8 8 (n fun a => !a.fired)

/-- PRMST: THR is the throttle state of the die (R429, R430). -/
def State.prmstNow (s : State) : Word := Bits.setFld s.ctx.prmst 16 2 ((s.throttle[s.ctx.die]?).getD 0).toNat

/-- A control register as the focused context reads it (R334). -/
def State.crValue (s : State) (n : Nat) : Word :=
  let c := s.ctx
  match n with
  | 0x000 => c.ctxid
  | 0x001 => c.ctxstat
  | 0x002 => s.coreloc
  | 0x004 => c.domc
  | 0x005 => c.domd
  | 0x006 => c.domp
  | 0x007 => c.domf
  | 0x008 => c.fpst
  | 0x009 => c.rseed0
  | 0x00A => c.rseed1
  | 0x00B => c.rseedm
  | 0x00C => c.bndst
  | 0x00D => c.rseeds
  | 0x010 => c.uivec
  | 0x011 => c.uipc
  | 0x012 => c.uistatNow
  | 0x014 => c.bcap
  | 0x015 => c.chst
  | 0x016 => c.ldra
  | 0x018 => c.geomode
  | 0x019 => c.rwin
  | 0x01A => c.tkexp
  | 0x01B => c.cflim
  | 0x020 => c.trapvec
  | 0x021 => c.traprec
  | 0x022 => c.faultrec
  | 0x023 => c.preq
  | 0x024 => c.wtbase
  | 0x030 => s.prmstNow
  | 0x031 => c.trstat
  | _ => 0

/-! ### Raising traps and context errors -/

/-- The registers that steps of the contraction-order program read without a field of their own, in the order in which R311 names them:
the bond registers, BCAP, CHST, the handles (R308, R309, R451). (DEDUCED, log 120) -/
def orderRegs (ws : List OrderWord) : List Reg :=
  (ws.flatMap fun w => [⟨.bd, Bits.fld w 24 4⟩, ⟨.bd, Bits.fld w 20 4⟩]).eraseDups ++ [⟨.cr, 0x014⟩, ⟨.cr, 0x015⟩] ++
    (ws.map fun w => ⟨.ts, Bits.fld w 28 4⟩).eraseDups

/-- The registers that TCON and TCHN read: those of the step, or of every step (R309, R311, R451). (DEDUCED, log 120) -/
def Ctx.chainRegs (c : Ctx) (i : Instr) : List Reg :=
  let prog := c.order.take c.orderLen
  match i with
  | .tcon f => orderRegs (prog[Bits.fld f.sub 0 5]?).toList
  | .tchn _ => orderRegs prog
  | _ => []

/-- What the executing operation captures at issue (R319): the registers it reads in the order of R451, its guard, its
address. (DEDUCED, log 112) -/
def State.capture (s : State) : Capture :=
  let i := s.curInstr
  let chain := s.ctx.chainRegs i
  let rs := if chain = [] then Legality.captured s.k.val i else chain
  let g := Legality.guard i
  { instr := i
    regs := (rs.filter fun r => r.file != .z && r.file != .lc && r.file != .tc).map fun r =>
      (r, (s.captured r).getD (if r.file == .cr then (s.crValue r.num).setWidth 2048 else s.ctx.regVal s.k r))
    tiles := (rs.filter fun r => r.file == .z).map fun r => (r.num, s.rz r.num)
    guard := match s.ctx.now.cap with
      | some c => c.guard
      | none => s.rp g.1.toNat
    ea := s.slot.ea, os := s.slot.os, od := s.slot.od, marked := none }

/-- OPND0 to OPND5 of a capture (R451). -/
def Capture.opnds (c : Capture) : List Vec := (c.regs.take 6).map Prod.snd

/-- The slot mask of one slot; the header, slot 7, has no bit (R320, DEDUCED, log 91). -/
def slotMask (k : Nat) : BitVec 7 := BitVec.ofNat 7 (2 ^ k)

/-- The executing operation raises a precise trap or a context error: its slot stops at its issue with its operands captured
(R315, R319), and no other effect of it occurs. -/
def State.raise (s : State) (cls cause : Byte) (detail : Word := 0) (addr : Word := 0) : State :=
  let c := s.capture
  let r : Raised :=
    { idx := s.ctx.now.issue.idx, slot := s.k.val, cls := cls, cause := cause, smask := slotMask s.k.val, code := 0, detail := detail, addr := addr
      site := s.site, ctxf := [], opnds := c.opnds, completed := false, late := false }
  (s.mapSlot fun x => { x with stopped := true, cap := some c }).mapCtx fun c => { c with raised := c.raised ++ [r] }

/-- A check of R198 that failed, as the trap or context error it names. -/
def State.raiseBad (s : State) (b : Bad) (ea : Word) : State := s.raise b.cls b.cause 0 ea

/-- An illegal encoding found when the operation executes: causes 0x0B and 0x0C (R144). (DEDUCED, log 27) -/
def State.raiseIllegal (s : State) (cause : Byte) : State :=
  let r : Raised :=
    { idx := s.ctx.now.issue.idx, slot := s.k.val, cls := 0x01, cause := cause, smask := slotMask s.k.val, code := 0
      detail := 0, addr := 0, site := { s.site with word := 0, ea := 0, guard := 0 }, ctxf := [], opnds := [], completed := false, late := false }
  let c := s.capture
  (s.mapSlot fun x => { x with stopped := true, cap := some c }).mapCtx fun c => { c with raised := c.raised ++ [r] }

/-- A trap of an operation that counts as completed: TRAP, DBRK, the context fault (R315). -/
def State.raiseDone (s : State) (cls cause : Byte) (code : BitVec 16) (ctxf : List Word) : State :=
  let r : Raised :=
    { idx := s.ctx.now.issue.idx, slot := s.k.val, cls := cls, cause := cause, smask := slotMask s.k.val, code := code, detail := 0, addr := 0
      site := s.site, ctxf := ctxf, opnds := s.capture.opnds, completed := true, late := false }
  s.mapCtx fun c => { c with raised := c.raised ++ [r] }

/-! ### Taking a trap, and the return from it -/

/-- Among the events raised, the one that is taken: the earliest issue, an illegal encoding first, then the lowest slot
(R315 step 2). -/
def Raised.before (a b : Raised) : Bool :=
  if a.idx != b.idx then a.idx < b.idx
  else if (a.cls == 0x01) != (b.cls == 0x01) then a.cls == 0x01
  else a.slot < b.slot

/-- The event taken of those raised. -/
def chosen : List Raised → Option Raised
  | [] => none
  | r :: rs =>
    match chosen rs with
    | none => some r
    | some q => some (if q.before r then q else r)

/-- A slot holds a CATT that has not completed (R365). (DEDUCED, log 24) -/
def SlotState.attends (x : SlotState) : Bool :=
  match x.wait with
  | some (.context _ c _) => c
  | _ => false

/-- A slot holds another context instruction that has not completed (R365). (DEDUCED, log 24) -/
def SlotState.holdsContext (x : SlotState) : Bool :=
  match x.wait with
  | some (.context _ c _) => !c
  | _ => false

/-- The lagging slots have consumed the issue of `r`: every slot that has not stopped stands beyond it, or at it when the issue was
never made or a CATT of it, whose own fault would come after, is abandoned; no other context instruction is under way (R315, R142, R354,
R365). -/
def Ctx.trapReady (c : Ctx) (r : Raised) : Bool :=
  (c.pipe.slots.zipIdx).all fun x => !x.1.holdsContext && (x.1.stopped || (x.1.attends && x.1.pos = r.idx && r.slot < x.2) ||
    (if c.pipe.count ≤ r.idx then r.idx ≤ x.1.pos else r.idx < x.1.pos))

/-- SLIP: each slot's position minus b (R315 step 5, R320). -/
def Ctx.slip (c : Ctx) (r : Raised) : Word :=
  BitVec.ofNat 64 ((c.pipe.slots.foldr (fun x acc => acc * 32 + (if x.stopped then 0 else (x.pos - r.idx) % 32)) 0))

/-- The command error record that goes into ERREC: that of the counter a poisoned WAITTL names (R331). -/
def Ctx.errRecOf (c : Ctx) (r : Raised) : List Byte :=
  if (r.cls == 0x09 && Bits.fld r.detail 62 2 = 0) || r.cls == 0x27 then
    match (c.tcval (Bits.fld r.detail 0 4)).record with
    | some e => e.bytes
    | none => List.replicate 64 0
  else List.replicate 64 0

/-- Bytes 0 to 255 of a trap or context-error record (R320). (DEDUCED, log 37) -/
def Ctx.recordHead (c : Ctx) (r : Raised) : List Byte :=
  let head := r.cls.toNat * 2 ^ 56 + r.cause.toNat * 2 ^ 48 + (r.slot % 8) * 2 ^ 45 + r.smask.toNat * 2 ^ 38 +
    (r.site.rep % 64) * 2 ^ 32 + r.code.toNat
  let ctxf := if r.ctxf = [] then c.errRecOf r
    else ((r.ctxf ++ List.replicate (8 - r.ctxf.length) 0).map Bits.wordLe).flatten
  Bits.natLe 8 head ++ Bits.wordLe r.site.addr ++ Bits.wordLe r.site.mpc ++ Bits.wordLe (c.slip r) ++ Bits.wordLe r.site.word ++
    Bits.wordLe r.site.ea ++ Bits.wordLe r.detail ++ Bits.wordLe r.addr ++ ctxf.take 64 ++ Bits.wordLe r.site.guard ++
    List.replicate 120 0

/-- OPND0 to OPND5 (R320, R451); a geometry-operand trap writes none (R395). (DEDUCED, log 64) -/
def Raised.recordOps (r : Raised) : List Byte :=
  if r.cls == 0x08 then [] else ((List.range 6).map fun i => Bits.natLe 256 ((r.opnds.getD i 0).toNat)).flatten

/-- The pocket offset of the trap-record tile (R320). -/
def Ctx.recordOff (c : Ctx) : Nat := Bits.fld c.traprec 12 9 * 4096

/-- A result of an array operation or an MST, which runs to completion whatever its core does (R316). -/
def Flight.array (f : Flight) : Bool :=
  match f.mem with
  | some (.mst _) | some (.tcon _ _) => true
  | _ => false

/-- A geometry operation begins in its unit, whose stages 1 and 2 are taken for `busy` cycles of each of the two (R391). -/
def GeoJob.begin (j : GeoJob) (busy : Nat × Nat) : GeoJob × (Nat × Nat) :=
  let first := j.unit.val = 1
  if j.esc = 0 then ({ j with left := j.l0 }, busy)
  else
    let t := max j.l0 (if first then busy.1 else busy.2) + j.esc
    ({ j with left := t }, if first then (t, busy.2) else (busy.1, t))

/-- Geometry results that are not ready are abandoned and run again from stage 0, in order (R397). -/
def geoAgain : List Landing → (Nat × Nat) → List Landing × (Nat × Nat)
  | [], b => ([], b)
  | e :: es, b =>
    match e.geo with
    | some j =>
      let (j, b) := if j.left = 0 then (j, b) else j.begin b
      let (es, b) := geoAgain es b
      ({ e with geo := some j } :: es, b)
    | none =>
      let (es, b) := geoAgain es b
      (e :: es, b)

/-- A freeze, swap or SAVE of a context makes its geometry operations run again, those captured before the others in the order of their issue
(R391, R397). -/
def Ctx.againGeo (c : Ctx) : Ctx :=
  let (rs, b) := geoAgain c.replay (0, 0)
  let (ls, b) := geoAgain c.landings b
  { c with landings := ls, replay := rs, geoBusy := b }

/-- Results not yet due, and landing entries, as they wait in the replay buffer: their due times count from the slot's time; those
captured at a trap entry wait for ERET, whatever freezes and resumes the handler; array operations go on at a trap (R316).
(DEDUCED, log 15) -/
def Ctx.captureFlight (c : Ctx) (trap : Bool) : Ctx :=
  let pipe := { c.pipe with slots := c.pipe.slots.map fun x =>
    { x with flights := (x.flights.filter fun f => !(trap && f.array)).map fun f => { f with due := f.due - x.time } } }
  { c with pipe := pipe, landings := []
           replay := c.replay ++ c.landings.map fun l => { l with due := l.due - (c.slot l.slot).time, saved := trap } }

/-- A sequencer aligned and idle at an address, its slot times and issue count going on (R317 step 5). -/
def Pipe.aligned (p : Pipe) (pc mpc : Word) (flights : Bool) : Pipe :=
  let n := p.count
  { Pipe.init pc mpc with
    count := n, start := n
    slots := p.slots.map fun x =>
      { SlotState.start with pos := n, time := x.time, flights := x.flights.filter fun f => flights || f.array } }

/-- The lowest position of a sequencer's slots. -/
def Pipe.lowest (p : Pipe) : Nat := p.slots.foldl (fun a x => min a x.pos) p.count

/-- How far the issue numbers of a saved sequencer go up at the return of a handler whose next number is `n`: its lowest becomes
that number. -/
def Pipe.lift (saved : Pipe) (n : Nat) : Nat := n - saved.lowest

/-- Issue numbers of a saved sequencer that its slots have not all consumed go up by `n`. -/
def Pipe.shiftIdx (saved : Pipe) (n i : Nat) : Nat := if saved.lowest ≤ i && i < saved.count then i + n else i

/-- The number of a trip under the issue numbers of `shiftIdx`. -/
def Pipe.shiftTrip (saved : Pipe) (n t : Nat) : Nat := if t = 0 then 0 else saved.shiftIdx n (t - 1) + 1

/-- A loop predicate under the issue numbers of `shiftIdx`. -/
def LpSet.shift (saved : Pipe) (n : Nat) (l : LpSet) : LpSet := { l with opened := l.opened.map (saved.shiftIdx n) }

/-- The slots of a saved sequencer take up again at the present slot times, beside what the handler left in flight (R316, R321):
an entry whose offset is r is due when its slot's time has advanced r. -/
def Pipe.rejoin (saved cur : Pipe) : Pipe :=
  let n := saved.lift cur.count
  { saved with
    count := saved.count + n, start := saved.start + n
    queue := saved.queue.map fun i => { i with idx := i.idx + n, start := i.start + n, lp := i.lp.map (LpSet.shift saved n) }
    lp := saved.lp.map (LpSet.shift saved n)
    slots := (List.range 7).map fun i =>
      let a := saved.slots.getD i SlotState.start
      let b := cur.slots.getD i SlotState.start
      { a with pos := a.pos + n, time := b.time, cool := 0, pview := a.pview.map fun e => (e.1, e.2.1, saved.shiftTrip n e.2.2)
               flights := b.flights ++ a.flights.map fun f => { f with due := f.due + b.time, idx := saved.shiftIdx n f.idx } } }

/-- A release's snapshot under other issue numbers. -/
def Snap.shift (sh : Nat → Nat) (p : Snap) : Snap := { p with known := p.known.map fun v => { v with issue := sh v.issue } }

/-- What stands beside the slots of a saved sequencer takes its new issue numbers. -/
def State.shiftIssues (s : State) (saved : Pipe) (n : Nat) : State :=
  let u := s.ctx.uid
  let sh := saved.shiftIdx n
  { s with
    reqs := s.reqs.map fun r => if r.uid = u then { r with idx := sh r.idx } else r
    resps := s.resps.map fun r => if r.uid = u then { r with idx := sh r.idx } else r
    cmds := s.cmds.map fun c => if c.uid = u then { c with idx := sh c.idx, synced := c.synced.map sh } else c
    history := s.history.map fun w => if w.origin.agent = .ctx u then { w with origin := { w.origin with idx := sh w.origin.idx } } else w
    known := s.known.map fun k => if k.1 = .ctx u then (k.1, k.2.map fun v => { v with issue := sh v.issue }) else k
    ctx :=
      { s.ctx with
        releases := s.ctx.releases.map fun
          | .rel i q p => .rel (sh i) { q with idx := sh q.idx } (p.shift sh)
          | .arv i b k l p => .arv (sh i) b k l (p.shift sh)
        gated := s.ctx.gated.map fun g => { g with idx := sh g.idx, snap := g.snap.shift sh }
        tileWait := s.ctx.tileWait.map fun d => { d with idx := sh d.idx }
        replay := s.ctx.replay.map fun l => if l.saved then { l with idx := sh l.idx } else l
        lpWrites := s.ctx.lpWrites.map fun w => { w with trip := saved.shiftTrip n w.trip } } }

/-- The landing entries of the replay buffer back in the landing buffer: those of a trap entry, or those of a freeze. (DEDUCED, log 15) -/
def Ctx.reinject (c : Ctx) (trap : Bool) : Ctx :=
  { c with replay := c.replay.filter fun l => l.saved != trap
           landings := ((c.replay.filter fun l => l.saved == trap).map fun l =>
             { l with due := l.due + (c.slot l.slot).time, saved := false }) ++ c.landings }

/-- A saved sequencer goes on in place of the present one; `trap`: with what the trap entry captured. -/
def State.rejoin (s : State) (saved : Pipe) (trap : Bool) : State :=
  let n := saved.lift s.ctx.pipe.count
  let s := s.shiftIssues saved n
  s.mapCtx fun c => if trap then { c with pipe := saved.rejoin c.pipe }.reinject true else { c with pipe := saved.rejoin c.pipe }

/-- The aligned sequencer of a handler: the open levels stand suspended, as at CALL (R86, R282, R317). -/
def Pipe.handler (p saved : Pipe) (pc mpc : Word) (flights : Bool) : Pipe :=
  { p.aligned pc mpc flights with levels := saved.levels, base := saved.levels.length }

/-- The loop predicates as S sees them, written into the predicate file. -/
def Ctx.foldPview (c : Ctx) : Ctx :=
  { c with preg := (c.slot 0).pview.foldl (fun p e => if e.1 = 0 then p else p.setIfInBounds e.1 e.2.1) c.preg }

/-- The slots as a handler's return finds them: a slot that raised a trap which was not taken replays from its capture (R315
step 3), as does the trapping slot unless its operation counts as completed. -/
def Pipe.settleTraps (p : Pipe) (r : Raised) : Pipe :=
  { p with slots := (List.range 7).map fun i =>
      let x := p.slots.getD i SlotState.start
      if i = r.slot && (r.completed || r.cls == 0x01) then { x with stopped := false, cap := none }
      else { x with stopped := false } }

/-- A control register as the device updates it from `old` to `new`: fields that a CWR has written in this cycle, those of `mask`, stay
(R335). -/
def Ctx.deviceSets (c : Ctx) (num : Nat) (mask old new : Word) : Word :=
  if c.crNow.contains num then (old &&& mask) ||| (new &&& ~~~mask) else new

/-- Trap entry (R316, R317): the record, the replay buffer, the saved sequencer, the shadow exchange, the status, and dispatch
at TRAPVEC.ADDR with all slots aligned. (DEDUCED, log 15) -/
def State.enterTrap (s : State) (r : Raised) : State :=
  let rec1 := s.ctx.recordHead r ++ r.recordOps
  let s := s.writeMem (pocketKey s.ctx.core s.ctx.recordOff) rec1
  let c := s.ctx.foldPview.captureFlight true
  let saved := c.pipe.settleTraps r
  let pipe := s.ctx.pipe.handler saved (c.trapvec &&& ~~~3) c.pipe.mpc false
  let (c, bank) := c.swapBank c.trapShadow
  let st := c.ctxstat
  let st := Bits.setFld st 4 1 c.uiEn.toNat
  let st := Bits.setFld st 3 1 c.priv.toNat
  let st := Bits.setFld (Bits.setFld st 1 1 1) 2 1 1
  { s with ctx := { c with trapShadow := bank, ctxstat := c.deviceSets 0x001 0x1A c.ctxstat st
                           uistat := c.deviceSets 0x012 (1 <<< 30) c.uistat (Bits.setFld c.uistat 30 1 0), raised := []
                           trapped := some (saved, r), recordAt := s.ctx.recordOff
                           pipe := pipe } }

/-- The handling of a trap is refused: no vector, no record tile, or a handler already running (R318). -/
def Ctx.unhandled (c : Ctx) : Bool := c.trapvec &&& ~~~3 == 0 || !c.traprec.getLsbD 0 || c.tact

/-- The status part of a return from a trap handler (R321): the shadow exchange, PRIV := PPRIV, UISTAT.EN := SEN, TACT clear. -/
def Ctx.leaveHandler (c : Ctx) : Ctx :=
  let (c, bank) := c.swapBank c.trapShadow
  let en := c.ctxstat.getLsbD 4
  { c with trapShadow := bank
           ctxstat := c.deviceSets 0x001 0x1A c.ctxstat (Bits.setFld (Bits.setFld c.ctxstat 1 1 (Bits.fld c.ctxstat 3 1)) 2 1 0)
           uistat := c.deviceSets 0x012 (1 <<< 30) c.uistat (Bits.setFld c.uistat 30 1 en.toNat), trapped := none }

/-- A capture with EA, GUARD and OPND0 to OPND5 read again from the record tile (R320); of a geometry-operand trap only GUARD,
and DETAIL, which marks the tests that take the non-finite code (R395). (DEDUCED, log 29) (DEDUCED, log 112) -/
def Capture.reread (c : Capture) (cls : Byte) (mem : Mem) (base : Nat) : Capture :=
  let w (off : Nat) : Word := BitVec.ofNat 64 (Mem.readNat mem (base + off) 8)
  if cls == 0x08 then { c with guard := w 128, marked := some (w 48) }
  else
    { c with
      ea := w 40, guard := w 128
      regs := c.regs.mapIdx fun i e =>
        if i < 6 then (e.1, BitVec.ofNat 2048 (Mem.readNat mem (base + 256 + 256 * i) 256)) else e }

/-- The return of ERET modes 0 and 1 (R321), with the record read where the entry wrote it: the saved sequencer and the replay buffer come
back; the trapping slot replays from its capture, or, in mode 1, takes its operation as completed without effect. (DEDUCED, log 29) -/
def State.returnTrap (s : State) (skip : Bool) : State :=
  match s.ctx.trapped with
  | none => s
  | some (saved, r) =>
    let base := pocketKey s.ctx.core s.ctx.recordAt
    let slots := saved.slots.mapIdx fun i x =>
      if i = r.slot then { x with cap := x.cap.map fun c => c.reread r.cls s.mem base, skip := skip && x.cap.isSome } else x
    (s.mapCtx Ctx.leaveHandler).rejoin { saved with slots := slots } true

/-- The return of ERET mode 2 (R321): everything captured is discarded and dispatch begins at `target`, aligned and idle; open
levels stay open. (DEDUCED, log 127) -/
def State.redirectTrap (s : State) (target : Word) : State :=
  match s.ctx.trapped with
  | none => s
  | some (saved, _) =>
    let c := s.ctx.leaveHandler
    let pipe := { c.pipe.aligned target c.pipe.mpc true with levels := saved.levels, marks := saved.marks, base := saved.base }
    { s with ctx := { c with pipe := pipe, landings := [], replay := [], lpWrites := [] } }

/-- A context error stops the context for good (R322): the record goes to FAULTREC, where that address passes the checks of a
store, and to the steward error queue of its die; nothing captured is re-injected. -/
def State.stopContext (s : State) (r : Raised) : State :=
  let head := s.ctx.recordHead r
  let far := s.ctx.faultrec &&& ~~~0xFF
  let s := s.pushErr s.ctx.die 0x01 s.ctx.ctxid (head.take 136)
  let s :=
    if far = 0 then s
    else
      match s.check ⟨.write, 256, false, false⟩ far with
      | .ok p => s.send (s.newReq far p (.write head) 4 none)
      | .error _ => s
  let c := s.ctx.captureFlight false
  let pipe := s.ctx.pipe.aligned c.pipe.pc c.pipe.mpc false
  { s with ctx := { c with run := .stopped, raised := [], pipe := pipe } }

end Sys2Proof.Machine
end

