-- ==== Sys2Proof/Machine/Flags.lean ====
section
/-! DEFINITION. Where the flags of each slot stand in FPST (R45), and results that carry flags (R46). -/

namespace Sys2Proof.Machine

/-- Flags of the S slot in FPST: bits [4:0] (R45). -/
def flagsS (f : Fp.Flags) : BitVec 13 := f.setWidth 13

/-- Flags of the V slots in FPST: bits [9:5] (R45). -/
def flagsV (f : Fp.Flags) : BitVec 13 := f.setWidth 13 <<< 5

/-- Flags of an MST conversion in FPST: invalid [10], overflow [11], inexact [12] (R45). -/
def flagsM (f : Fp.Flags) : BitVec 13 :=
  (if f.getLsbD 0 then 0x400 else 0) ||| (if f.getLsbD 2 then 0x800 else 0) ||| (if f.getLsbD 4 then 0x1000 else 0)

/-- A scalar floating-point result and its flags, due after `lat` cycles (R46, R154). -/
def State.postFp (s : State) (lat : Nat) (r : Reg) (v : Word) (f : Fp.Flags) : State :=
  s.post lat [.reg r v, .flags (flagsS f)]

end Sys2Proof.Machine
end

