-- ==== Sys2Proof/Machine/Operands.lean ====
section
/-! DEFINITION. The operand forms: integers by type (R146), immediates (R125), scalar floats (R154). -/

namespace Sys2Proof.Machine

/-- The width of an integer type code (R129). -/
def intWidth (t : Nat) : Nat :=
  match t with
  | 1 | 5 => 8 | 2 | 6 => 16 | 3 | 7 => 32 | _ => 64

/-- The type code is a two's complement type. -/
def intSigned (t : Nat) : Bool := 1 ≤ t && t ≤ 4

/-- Src(x, T) of R146. -/
def srcInt (t x : Nat) : Int :=
  if intSigned t then Bits.sInt (intWidth t) x else ((x % 2 ^ intWidth t : Nat) : Int)

/-- The N-bit pattern of a value. -/
def pat (t : Nat) (x : Int) : Nat := (x % (2 ^ intWidth t : Nat)).toNat

/-- An immediate of `n` bits extended by T, then read by Src (R125, R146). -/
def immInt (t n imm : Nat) : Int :=
  if intSigned t then srcInt t (BitVec.ofInt 64 (Bits.sInt n imm)).toNat else srcInt t (imm % 2 ^ n)

/-- An integer limited to the range of T (R36). -/
def clampInt (t : Nat) (r : Int) : Int :=
  let (lo, hi) := Fp.intRange (intSigned t) (intWidth t)
  if r < lo then lo else if hi < r then hi else r

/-- Fit(r, T) of R146. -/
def fitInt (sat : Bool) (t : Nat) (r : Int) : Word :=
  if sat then BitVec.ofInt 64 (clampInt t r) else BitVec.ofInt 64 (srcInt t (pat t r))

/-- A binary integer operation: `r` of the two operands (R146). -/
def intBinary (f : RI) (lat : Nat) (r : Nat → Int → Int → Int) (s : State) : State :=
  match f with
  | .r f =>
    let t := f.dt.toNat
    s.guarded f.pred f.pneg fun s =>
      s.postReg lat ⟨.s, f.d.toNat⟩ (fitInt f.sat t (r t (srcInt t (s.rs f.a.toNat).toNat) (srcInt t (s.rs f.b.toNat).toNat)))
  | .i f =>
    let t := f.dt.toNat
    s.guarded f.pred f.pneg fun s =>
      s.postReg lat ⟨.s, f.d.toNat⟩ (fitInt false t (r t (srcInt t (s.rs f.a.toNat).toNat) (immInt t 32 f.imm.toNat)))

/-- A unary integer operation; the immediate form takes its operand from IMM (R146). -/
def intUnary (f : RI) (lat : Nat) (r : Nat → Int → Int) (s : State) : State :=
  match f with
  | .r f =>
    let t := f.dt.toNat
    s.guarded f.pred f.pneg fun s =>
      s.postReg lat ⟨.s, f.d.toNat⟩ (fitInt f.sat t (r t (srcInt t (s.rs f.a.toNat).toNat)))
  | .i f =>
    let t := f.dt.toNat
    s.guarded f.pred f.pneg fun s =>
      s.postReg lat ⟨.s, f.d.toNat⟩ (fitInt false t (r t (immInt t 32 f.imm.toNat)))

/-- A shift: `r` of the type, the operand and the count, which is an unsigned 64-bit value (R149). -/
def intShift (f : RI) (r : Nat → Int → Nat → Int) (s : State) : State :=
  match f with
  | .r f =>
    let t := f.dt.toNat
    s.guarded f.pred f.pneg fun s =>
      s.postReg 1 ⟨.s, f.d.toNat⟩ (fitInt f.sat t (r t (srcInt t (s.rs f.a.toNat).toNat) (s.rs f.b.toNat).toNat))
  | .i f =>
    let t := f.dt.toNat
    s.guarded f.pred f.pneg fun s =>
      s.postReg 1 ⟨.s, f.d.toNat⟩ (fitInt false t (r t (srcInt t (s.rs f.a.toNat).toNat) f.imm.toNat))

/-- A predicate register written whole by a compare (R153). -/
def State.postPred (s : State) (lat d : Nat) (b : Bool) : State := s.postReg lat ⟨.p, d⟩ (Bits.allOnes b)

/-- A scalar float operand: the low bits of a register (R154). -/
def floatOf (t : Nat) (x : Word) : Fp.FVal := Fp.decode (Fp.ofCode t) (x.toNat % 2 ^ (Fp.ofCode t).width)

/-- A binary scalar float operation: `r` gives the pattern and flags (R154). -/
def floatBinary (f : RI) (r : Fp.Fmt → Fp.Mode → Nat → Nat → Nat × Fp.Flags) (s : State) : State :=
  match f with
  | .r f =>
    let t := Fp.ofCode f.dt.toNat
    s.guarded f.pred f.pneg fun s =>
      let (v, fl) := r t (.ofCode f.rm) ((s.rs f.a.toNat).toNat % 2 ^ t.width) ((s.rs f.b.toNat).toNat % 2 ^ t.width)
      s.postFp 4 ⟨.s, f.d.toNat⟩ (BitVec.ofNat 64 v) fl
  | .i f =>
    let t := Fp.ofCode f.dt.toNat
    s.guarded f.pred f.pneg fun s =>
      let (v, fl) := r t .rne ((s.rs f.a.toNat).toNat % 2 ^ t.width) (f.imm.toNat % 2 ^ t.width)
      s.postFp 4 ⟨.s, f.d.toNat⟩ (BitVec.ofNat 64 v) fl

/-- A unary scalar float operation; the immediate form takes its operand from IMM (R146, R154). -/
def floatUnary (f : RI) (r : Fp.Fmt → Fp.Mode → Nat → Nat × Fp.Flags) (s : State) : State :=
  match f with
  | .r f =>
    let t := Fp.ofCode f.dt.toNat
    s.guarded f.pred f.pneg fun s =>
      let (v, fl) := r t (.ofCode f.rm) ((s.rs f.a.toNat).toNat % 2 ^ t.width)
      s.postFp 4 ⟨.s, f.d.toNat⟩ (BitVec.ofNat 64 v) fl
  | .i f =>
    let t := Fp.ofCode f.dt.toNat
    s.guarded f.pred f.pneg fun s =>
      let (v, fl) := r t .rne (f.imm.toNat % 2 ^ t.width)
      s.postFp 4 ⟨.s, f.d.toNat⟩ (BitVec.ofNat 64 v) fl

/-- An exact result rounded once to the type (R40, R155). (DEDUCED, log 45) -/
def rounded (t : Fp.Fmt) (md : Fp.Mode) (x : Fp.FVal × Fp.Flags) : Nat × Fp.Flags :=
  let (v, fl) := Fp.arith t md x.1
  (v, fl ||| x.2)

/-- The lesser or greater of two patterns, −0 below +0; one NaN gives the other operand (R155, R174). -/
def fpMinMax (isMax : Bool) (t : Fp.Fmt) (x y : Nat) : Nat × Fp.Flags :=
  let a := Fp.decode t x
  let b := Fp.decode t y
  let fl := Fp.flagIf (a.isSig || b.isSig) Fp.iv
  if a.isNaN && b.isNaN then (t.canonNaN, fl)
  else if a.isNaN then (y, fl)
  else if b.isNaN then (x, fl)
  else
    let less := match Fp.cmp a b with
      | .lt => true
      | .eq => a.sign && !b.sign
      | .gt => false
    (if less != isMax then x else y, fl)

/-- A value converted to the type `dt`, float or integer (R47 to R49, R157). -/
def convertTo (dt : Nat) (md : Fp.Mode) (sat : Bool) (rnd : Nat) (v : Fp.FVal) : Word × Fp.Flags :=
  if 9 ≤ dt then
    let (x, fl) := Fp.round (Fp.ofCode dt) md sat rnd v
    (BitVec.ofNat 64 x, fl)
  else
    let (i, fl) := Fp.toInt (intSigned dt) (intWidth dt) md rnd v
    (BitVec.ofInt 64 i, fl)

/-- The conditions of FCMP and VCMP: holds for two values (R156, R180). -/
def fpCond (cond : Nat) (a b : Fp.FVal) : Bool :=
  if a.isNaN || b.isNaN then cond = 1 || cond = 6
  else
    let o := Fp.cmp a b
    match cond with
    | 0 => o == .eq
    | 1 => o != .eq
    | 2 => o == .lt
    | 3 => o != .gt
    | 4 => o == .gt
    | 5 => o != .lt
    | 6 => false
    | _ => true

/-- The conditions of CMP and VCMP on integers (R153, R180). -/
def intCond (cond : Nat) (x y : Int) : Bool :=
  match cond with
  | 0 => x = y
  | 1 => x ≠ y
  | 2 => x < y
  | 3 => x ≤ y
  | 4 => y < x
  | _ => y ≤ x

end Sys2Proof.Machine
end

