-- ==== Sys2Proof/Machine/Flow.lean ====
section
/-! DEFINITION. The S slot's control transfers and hardware loops (R73, R84 to R86, R164 to R170): what each asks of dispatch at
the end of its bundle. -/

namespace Sys2Proof.Machine

/-- The levels that the innermost outstanding CALL, delivery or handler does not suspend, innermost first (R86). (DEDUCED, log 129) -/
def Pipe.activeCount (p : Pipe) : Nat := p.levels.length - p.marks.headD p.base

/-- Active levels whose body does not hold the target are closed, inner to outer (R86). -/
def leaveLoops (target : Word) : Nat → List Level → List Level
  | 0, ls => ls
  | _ + 1, [] => []
  | n + 1, l :: ls => if l.first ≤ target && target ≤ l.last then l :: ls else leaveLoops target n ls

/-- S has decided what its bundle's operation asks of dispatch (R73, R169). -/
def State.unblock (s : State) : State := s.mapCtx fun c => { c with pipe := { c.pipe with blocked := false } }

/-- A taken transfer: dispatch continues at the target and every slot stalls for 2 cycles (R73, R165). -/
def State.transfer (s : State) (target : Word) : State :=
  s.mapCtx fun c =>
    { c with pipe :=
      { c.pipe with
        blocked := false, redirect := some (.goto target)
        slots := c.pipe.slots.map fun x => { x with cool := 2 } } }

/-- A branch: a taken transfer that closes the levels it leaves (R86). -/
def State.branch (s : State) (target : Word) : State :=
  (s.transfer target).mapCtx fun c =>
    { c with pipe := { c.pipe with levels := leaveLoops target c.pipe.activeCount c.pipe.levels } }

/-- A call: the open levels are suspended and the link is written (R86, R165). -/
def State.callTo (s : State) (link : Nat) (target : Word) : State :=
  let s := s.postReg 1 ⟨.a, link⟩ s.ctx.now.issue.next
  (s.transfer target).mapCtx fun c => { c with pipe := { c.pipe with marks := c.pipe.levels.length :: c.pipe.marks } }

/-- A target or restart address that is not a multiple of 4 (R144). (DEDUCED, log 30) -/
def misaligned (t : Word) : Bool := Bits.fld t 0 2 != 0

/-- The target of a relative transfer (R127, R165). -/
def State.relTarget (s : State) (f : LForm) : Word := Bits.addI s.ctx.now.issue.addr (4 * f.imm.toInt)

/-- BR (R165). -/
def execBr (f : LForm) (s : State) : Out := .next (s.branch (s.relTarget f))

/-- BRC (R165). -/
def execBrc (f : LForm) (s : State) : Out :=
  if (s.rp (Bits.fld f.d 0 5)).getLsbD 0 != f.d.getLsbD 5 then .next (s.branch (s.relTarget f)) else .next s.unblock

/-- BRI (R165, R144). -/
def execBri (f : RForm) (s : State) : Out :=
  let t := s.ra f.a.toNat
  if misaligned t then .next (s.raiseIllegal 0x0C) else .next (s.branch t)

/-- CALL (R165). -/
def execCall (f : LForm) (s : State) : Out := .next (s.callTo f.d.toNat (s.relTarget f))

/-- CALLI: the target is read before the link is written (R165). -/
def execCalli (f : RForm) (s : State) : Out :=
  let t := s.ra f.a.toNat
  if misaligned t then .next (s.raiseIllegal 0x0C) else .next (s.callTo f.d.toNat t)

/-- RET: the levels that the matching CALL suspended are active again (R86, R165). -/
def execRet (f : RForm) (s : State) : Out :=
  let t := s.ra f.a.toNat
  if misaligned t then .next (s.raiseIllegal 0x0C)
  else .next ((s.transfer t).mapCtx fun c => { c with pipe := { c.pipe with marks := c.pipe.marks.tail } })

/-- LOOP (R167): a trip count of zero skips the body; otherwise a level opens at the end of the bundle. -/
def execLoop (f : LForm) (s : State) : Out :=
  let i := s.ctx.now.issue
  let last := i.addr + BitVec.ofNat 64 (4 * Bits.fld f.imm 24 18)
  let t := s.rs f.d.toNat + BitVec.ofNat 64 (Bits.fld f.imm 0 13)
  let l : Level :=
    { loop := i.addr, trips := t, lc := t, first := i.next, last := last, epi := Bits.fld f.imm 13 6, lp := Bits.fld f.imm 19 5
      treg := f.d.toNat }
  .next (s.mapCtx fun c =>
    if t = 0 then { c with pipe := { c.pipe with blocked := false, redirect := some (.after last) } }
    else { c with pipe := { c.pipe with blocked := false, opening := some l } })

/-- LBRK (R169). -/
def execLbrk (f : RForm) (s : State) : Out :=
  let taken := (s.rp f.a.toNat).getLsbD 0 != f.sub.getLsbD 3
  let n := min (Bits.fld f.sub 0 3) s.ctx.pipe.activeCount
  if taken && n != 0 then
    .next (s.mapCtx fun c =>
      match c.pipe.levels[n - 1]? with
      | none => { c with pipe := { c.pipe with blocked := false } }
      | some l =>
        { c with pipe :=
          { c.pipe with blocked := false, levels := c.pipe.levels.drop n, redirect := some (.after l.last) } })
  else .next s.unblock

/-- LCNT's result: lc of level N as the issue reads it, or the trips completed; 0 for a closed level (R168, R170). -/
def lcnt (levels : List Level) (n : Nat) (done : Bool) : Word :=
  match levels.reverse[n]? with
  | none => 0
  | some l => if done then l.trips - l.lc else l.lc

/-- LCNT (R170). -/
def execLcnt (f : RForm) (s : State) : Out :=
  .next (s.guarded f.pred f.pneg fun s =>
    s.postReg 1 ⟨.s, f.d.toNat⟩ (lcnt s.ctx.now.issue.levels (Bits.fld f.sub 0 3) (f.sub.getLsbD 3)))

/-- HALT (R166): nothing further is dispatched; the context ends once its work in flight is done. -/
def execHalt (_f : RForm) (s : State) : Out :=
  .next (s.mapCtx fun c => { c with pipe := { c.pipe with halt := true, blocked := false } })

end Sys2Proof.Machine
end

