-- ==== Sys2Proof/Machine/Order.lean ====
section
/-! DEFINITION. The order of R211 and what a read may return: who shares a scope (R203, R210), the writes performed, the releases and what
acquires them (R216 to R222, R278, R416, R420), and the values that an access not ordered after a write may see (R212, R216, R224). -/

namespace Sys2Proof.Machine

/-! ### Frames -/

/-- Page numbers that an entry takes. -/
def Page.frames (p : Page) : Nat := if p.big then 512 else 1

/-- The key of the first byte of a frame of a package: a frame for host memory holds the host's bytes (R434, R437). (DEDUCED, log 82) -/
def State.frameKey (s : State) (pkg f : Nat) : Nat :=
  match s.hostmaps.find? fun h => pkg == 0 && h.2 == f with
  | some h => hostKey (h.1 * 4096)
  | none => physKey pkg (f * 4096)

/-- The address in a device-virtual space of a package that a page-table entry gives to a byte. -/
def State.entryAddr (s : State) (p : Page) (key : Nat) : Option Nat :=
  let k := s.frameKey p.ref.pkg p.frame
  if k ≤ key && key < k + 4096 * p.frames then some (p.ref.page * 4096 + (key - k)) else none

/-! ### Scopes (R203, R210) -/

/-- The context of an agent; a MAC, the host and the stewards have none. -/
def Agent.uid : Agent → Option Nat
  | .ctx u => some u
  | .engine u _ _ => some u
  | .mac _ | .host | .steward _ => none

/-- A context. -/
def Agent.isCtx : Agent → Bool
  | .ctx _ => true
  | .engine _ _ _ | .mac _ | .host | .steward _ => false

/-- An engine command. -/
def Agent.isEngine : Agent → Bool
  | .engine _ _ _ => true
  | .ctx _ | .mac _ | .host | .steward _ => false

/-- The context of a number. -/
def State.ctxOf (s : State) (uid : Nat) : Option Ctx := (s.ctx :: s.others).find? fun c => c.uid == uid

/-- Where a context stands. -/
def Ctx.seat (c : Ctx) : Seat := ⟨some c.core, some c.die⟩

/-- Where an agent stands: a context on its core, an engine on that of its command's issue, a steward core on its die (R210). -/
def State.seatOf (s : State) (a : Agent) : Seat :=
  let ofCtx (u : Nat) : Seat := ((s.ctxOf u).map Ctx.seat).getD ⟨none, none⟩
  match a with
  | .ctx u => ofCtx u
  | .engine u tc n =>
    (match s.cmds.find? fun c => c.uid == u && c.tc == tc && c.num == n with
      | some c => ⟨some c.core, some (c.core / 128 % 4)⟩
      | none => ofCtx u)
  | .steward d => ⟨none, some d⟩
  | .mac _ | .host => ⟨none, none⟩

/-- Two seats lie in each other's set of a scope wider than CORE: CLUSTER, DIE, PKG, DOMAIN (R210). -/
def Seat.shares (a b : Seat) (scope : Nat) : Bool :=
  match scope with
  | 0 => false
  | 1 => a.core.any fun x => b.core.any fun y => x / 16 % 32 = y / 16 % 32
  | 2 => a.die.any fun x => b.die.any fun y => x = y
  | _ => true

/-- Two agents share a scope as they stand; at CORE scope a context with its own engines (R210). -/
def State.share (s : State) (a b : Agent) (scope : Nat) : Bool :=
  (a.uid.any fun x => b.uid.any fun y => x = y) || (s.seatOf a).shares (s.seatOf b) scope

/-- The window and the virtual address under which a context's window table gives a byte. -/
def State.windowOf (s : State) (c : Ctx) (pkg key : Nat) : Option (WinEntry × Nat) :=
  s.pages.findSome? fun p =>
    if p.ref.pkg = pkg && p.ref.asn == c.asn then
      (s.entryAddr p key).bind fun d =>
        (c.windows.find? fun w => w.npage != 0 && w.dbase.toNat * 4096 ≤ d && d < (w.dbase.toNat + w.npage.toNat) * 4096).map fun w =>
          (w, w.vbase.toNat * 4096 + d - w.dbase.toNat * 4096)
    else none

/-- The scope at which a context's operation of a scope acts on a byte: that of the window which holds it, where that is narrower; the
bytes of pockets, baskets and hampers are coherent at DOMAIN scope (R203). (DEDUCED, log 116) -/
def State.scopeAt (s : State) (c : Ctx) (key scope : Nat) : Nat :=
  if key < 2 ^ 51 && key / 2 ^ 48 != 0 then scope
  else
    match s.windowOf c (key / 2 ^ 51) key with
    | some w => min scope w.1.scope.toNat
    | none => scope

/-- The scope at which an agent's atomic acts on a byte (R203); only contexts have windows. -/
def State.scopeFor (s : State) (a : Agent) (key scope : Nat) : Nat :=
  match a.uid.bind s.ctxOf with
  | some c => s.scopeAt c key scope
  | none => scope

/-! ### Runs of bytes -/

/-- What two runs, each a first number and a length, have in common. -/
def runMeet (a b : Nat × Nat) : Option (Nat × Nat) :=
  let lo := max a.1 b.1
  let hi := min (a.1 + a.2) (b.1 + b.2)
  if lo < hi then some (lo, hi - lo) else none

/-- What a run leaves of another. -/
def runCut (b a : Nat × Nat) : List (Nat × Nat) :=
  let l := min (a.1 + a.2) b.1
  let h := max a.1 (b.1 + b.2)
  (if a.1 < l then [(a.1, l - a.1)] else []) ++ if h < a.1 + a.2 then [(h, a.1 + a.2 - h)] else []

/-- The runs of keys at which an address range of a context, `lo` to `lo + len` under its window table, stands in a package: only windows
that `p` holds of. -/
def State.windowRuns (s : State) (c : Ctx) (pkg : Option Nat) (p : WinEntry → Bool) (lo len : Nat) : List (Nat × Nat) :=
  s.pages.flatMap fun e =>
    if pkg.all (fun n => e.ref.pkg = n) && e.ref.asn == c.asn then
      (c.windows.filter fun w => w.npage != 0 && p w).filterMap fun w =>
        (runMeet (w.vbase.toNat * 4096, w.npage.toNat * 4096) (lo, len)).bind fun v =>
          (runMeet (v.1 - w.vbase.toNat * 4096 + w.dbase.toNat * 4096, v.2) (e.ref.page * 4096, 4096 * e.frames)).map fun d =>
            (s.frameKey e.ref.pkg e.frame + (d.1 - e.ref.page * 4096), d.2)
    else []

/-- The runs of keys in the region of a binding of a context (R217, R266). (DEDUCED, log 116) -/
def State.bindingRuns (s : State) (c : Ctx) (b : Binding) : List (Nat × Nat) :=
  let len := b.len.toNat
  let virtual (pkg : Nat) : List (Nat × Nat) := s.windowRuns c (some pkg) (fun _ => true) (Bits.fld b.base 0 48) len
  match spaceOf b.base with
  | .pocket => [(pocketKey (pocketCore c.core b.base) (Bits.fld b.base 0 21), len)]
  | .basket => [(basketKey (Bits.fld b.base 51 5) (Bits.fld b.base 0 24), len)]
  | .hamper => [(hamperKey (Bits.fld b.base 54 2) (Bits.fld b.base 0 26), len)]
  | .global => virtual 0
  | .remote => virtual (s.pkgOf (Bits.fld b.base 48 8))
  | .control | .hole => []

/-! ### Accesses and their bytes (R211, R212) -/

/-- The origin of an access of the focused context's own. -/
def State.originOf (s : State) (idx slot : Nat) : Origin :=
  { agent := .ctx s.ctx.uid, idx := idx, slot := slot, req := 0, atomic := none, die := none, ticket := none, kmask := [] }

/-- The origin of a request's access; the read of an ACQ, which no landing entry awaits, is atomic at its scope (R269). -/
def Req.origin (r : Req) : Origin :=
  { agent := .ctx r.uid, idx := r.idx, slot := r.slot.val, req := r.id
    atomic := match r.act with
      | .atom _ _ _ _ _ => some r.scope.toNat
      | .read _ => if r.land.isNone then some r.scope.toNat else none
      | .write _ => none
    die := match r.place with
      | .remote d _ _ => some d
      | _ => none
    ticket := r.ticket, kmask := r.kmask }

/-- The origin of a command's accesses. -/
def Cmd.origin (c : Cmd) : Origin :=
  { agent := .engine c.uid c.tc c.num, idx := c.idx, slot := c.slot.val, req := 0, atomic := none, die := none, ticket := none, kmask := [] }

/-- The origin of an access of an agent that issues no bundles. -/
def Agent.origin (a : Agent) : Origin :=
  { agent := a, idx := 0, slot := 0, req := 0, atomic := none, die := none, ticket := none, kmask := [] }

/-- Who made an access. -/
def Past.agent (w : Past) : Agent := w.origin.agent

/-- The runs of bytes of an access: those that it wrote, else those that it read. -/
def Past.span (w : Past) : List (Nat × Nat) := if w.runs = [] then w.reads else w.runs.map fun r => (r.1, r.2.length)

/-- The first byte of an access. -/
def Past.key (w : Past) : Nat := (w.span.head?.map Prod.fst).getD 0

/-- The place of a byte among the bytes of runs. -/
def offsetIn : List (Nat × Nat) → Nat → Option Nat
  | [], _ => none
  | r :: rs, k => if r.1 ≤ k && k < r.1 + r.2 then some (k - r.1) else (offsetIn rs k).map (r.2 + ·)

/-- An access touches a byte. -/
def Past.touches (w : Past) (key : Nat) : Bool := w.span.any fun r => r.1 ≤ key && key < r.1 + r.2

/-- What a write replaced in a byte; none where it did not write it. -/
def Past.old (w : Past) (key : Nat) : Option Byte :=
  w.runs.findSome? fun r => if r.1 ≤ key then r.2[key - r.1]? else none

/-- A write as it would be had it replaced `b` in a byte. -/
def Past.setOld (w : Past) (key : Nat) (b : Byte) : Past :=
  { w with runs := w.runs.map fun r => if r.1 ≤ key then (r.1, r.2.set (key - r.1) b) else r }

/-- The number of the next access that is recorded. -/
def State.nextNum (s : State) : Nat := (s.history.map fun w => w.num + 1).foldl max 0

/-- The access of a number. -/
def State.past (s : State) (num : Nat) : Option Past := s.history.find? fun w => w.num = num

/-- The writes of a byte, the latest first. -/
def State.onByte (s : State) (key : Nat) : List Past := s.history.filter fun w => (w.old key).isSome

/-- The writes of a byte from write `num` of it on, the latest first. -/
def State.newer (s : State) (key num : Nat) : List Past :=
  let ws := s.onByte key
  (ws.takeWhile fun w => w.num != num) ++ (ws.find? fun w => w.num = num).toList

/-- The write of a byte that write `num` of it replaced. -/
def State.replaced (s : State) (key num : Nat) : Option Past :=
  (((s.onByte key).dropWhile fun w => w.num != num).drop 1).head?

/-- Two lists of byte ranges overlap. -/
def rangesMeet (a b : List (Nat × Nat)) : Bool :=
  a.any fun x => b.any fun y => x.1 < y.1 + y.2 && y.1 < x.1 + x.2

/-! ### Covers -/

/-- A whole access. -/
def Past.whole (w : Past) : Cover := ⟨w.num, none, 0⟩

/-- A cover means a byte of its access. -/
def Cover.meets (v : Cover) (w : Past) (key : Nat) : Bool :=
  v.num = w.num && v.part.all fun ps => (offsetIn w.span key).any fun o => ps.any fun p => p.1 ≤ o && o < p.1 + p.2

/-- The bytes of an access that lie in runs of keys, by offset. -/
def partsIn : Nat → List (Nat × Nat) → List (Nat × Nat) → List (Nat × Nat)
  | _, [], _ => []
  | o, r :: rest, rs => (rs.filterMap fun x => (runMeet r x).map fun m => (o + (m.1 - r.1), m.2)) ++ partsIn (o + r.2) rest rs

/-- The runs of offsets that a cover means of its access. -/
def Cover.ranges (v : Cover) (w : Past) : List (Nat × Nat) := v.part.getD [(0, (w.span.map Prod.snd).sum)]

/-- A cover narrowed to runs of offsets; none where it means no byte of them. -/
def Cover.only (v : Cover) (w : Past) (ps : List (Nat × Nat)) : Option Cover :=
  let qs := (v.ranges w).flatMap fun x => ps.filterMap (runMeet x)
  if qs = [] then none else some (if qs.contains (0, (w.span.map Prod.snd).sum) then { v with part := none } else { v with part := some qs })

/-- What a cover means beside runs of offsets. -/
def Cover.butFor (v : Cover) (w : Past) (ps : List (Nat × Nat)) : Option Cover :=
  let qs := ps.foldl (fun acc p => acc.flatMap (runCut p)) (v.ranges w)
  if ps = [] then some v else if qs = [] then none else some { v with part := some qs }

/-- A cover by the scope at which a context's operation of a scope acts on its bytes (R203): the windows narrower than the scope, and the
rest. (DEDUCED, log 116) -/
def State.narrow (s : State) (c : Ctx) (scope : Nat) (w : Past) (v : Cover) : List (Nat × Cover) :=
  let low (p : WinEntry → Bool) : List (Nat × Nat) := partsIn 0 w.span (s.windowRuns c none p 0 (2 ^ 48))
  if c.windows.all fun x => scope ≤ x.scope.toNat then [(scope, v)]
  else
    ((List.range scope).filterMap fun lv => (v.only w (low fun x => x.scope.toNat = lv)).map fun v => (lv, v)) ++
      ((v.butFor w (low fun x => x.scope.toNat < scope)).map fun v => (scope, v)).toList

/-- Covers of numbered accesses that are recorded, with those. -/
def State.covers (s : State) (vs : List Cover) : List (Past × Cover) := vs.filterMap fun v => (s.past v.num).map fun w => (w, v)

/-! ### What an agent knows (R211) -/

/-- What others did that is ordered before the later accesses of an agent. -/
def State.knownTo (s : State) (a : Agent) : List Cover :=
  match a with
  | .engine u tc n =>
    (match s.cmds.find? fun c => c.uid == u && c.tc == tc && c.num == n with
      | some c => c.known ++ ((s.history.filter fun w => w.agent == .ctx u && c.behind.contains w.origin.req).map Past.whole)
      | none => [])
  | a => (s.known.lookup a).getD []

/-- What is ordered before an access of an origin. -/
def State.knownAt (s : State) (o : Origin) : List Cover := (s.knownTo o.agent).filter fun v => v.issue ≤ o.idx

/-- An access of a context comes after another of its own in bundle order (R213). -/
def Past.later (w : Past) (o : Origin) : Bool :=
  (o.idx < w.origin.idx || (w.origin.idx = o.idx && o.slot < w.origin.slot)) && w.agent == o.agent && w.agent.isCtx

/-- Accesses of an origin to a byte come after another access (R211, R213). -/
def State.knows (s : State) (o : Origin) (w : Past) (key : Nat) : Bool :=
  if w.agent == o.agent then !w.later o else (s.knownAt o).any fun v => v.meets w key

/-- An access of a byte is ordered before another of it. -/
def Past.precedes (v w : Past) (key : Nat) : Bool :=
  if v.agent == w.agent then !v.later w.origin else w.after.any fun x => x.meets v key

/-- What an agent sees of a byte is its value before a write performed already. -/
def Seen.past : Seen → Bool
  | .before _ => true
  | .coming _ _ | .free _ => false

/-- Accesses become ordered before every access of an agent from an issue on, with what is ordered before them (R211). (DEDUCED, log 116) -/
def State.learn (s : State) (a : Agent) (issue : Nat) (vs : List Cover) : State :=
  if vs = [] then s
  else
    let more : List Cover := (vs ++ (s.covers vs).flatMap fun x => x.1.after).map fun v => { v with issue := issue }
    { s with
      known := (a, (more ++ s.knownTo a).eraseDups) ::
        (s.known.filter fun k => k.1 != a)
      views := s.views.filter fun v => v.1 != a || v.2.2.past }

/-! ### Races (R224) -/

/-- Two accesses are atomics at a scope that their agents share (R221, R224). -/
def State.bothAtomic (s : State) (a b : Origin) : Bool :=
  match a.atomic, b.atomic with
  | some x, some y => s.share a.agent b.agent (min x y)
  | _, _ => false

/-- A write of an engine and a read, or a write of a context and a read of its own engine, are no race (R215, R216). (DESIGN CHOICE, log 11) -/
def engineRead (w r : Origin) : Bool :=
  w.agent.isEngine || (r.agent.isEngine && w.agent.isCtx && w.agent.uid == r.agent.uid)

/-- An earlier access of a byte and a later one race (R224). (DESIGN CHOICE, log 11) -/
def State.race (s : State) (key : Nat) (v w : Past) : Bool :=
  let wrote (x : Past) : Bool := (x.old key).isSome
  v.agent != w.agent && (wrote v || wrote w) && !v.precedes w key && !s.bothAtomic v.origin w.origin &&
    !(!wrote w && engineRead v.origin w.origin) && !(!wrote v && engineRead w.origin v.origin)

/-- Two accesses of a list, the latest first, race at a byte. -/
def State.raced (s : State) (key : Nat) : List Past → Bool
  | [] => false
  | w :: ws => (ws.any fun v => s.race key v w) || s.raced key ws

/-- A read of an origin races with a write of the byte (R224). -/
def State.readRaces (s : State) (o : Origin) (key : Nat) : Bool :=
  (s.onByte key).any fun w => w.agent != o.agent && !s.knows o w key && !s.bothAtomic w.origin o && !engineRead w.origin o

/-! ### What a read returns (R212) -/

/-- A read of an origin may return what write `num` replaced in a byte: no write ordered before the read stands between (R212), or the read
races or follows a race (R224); an atomic comes after every atomic of an agent that shares its scope (R221). (DESIGN CHOICE, log 11) -/
def State.mayRead (s : State) (o : Origin) (key num : Nat) : Bool :=
  let ws := s.newer key num
  (ws.any fun w => w.num = num) && !(ws.any fun w => s.bothAtomic w.origin o) &&
    (s.readRaces o key || s.raced key (s.history.filter fun w => w.touches key) ||
      !(ws.any fun w => s.knows o w key && (s.replaced key num).all fun v => v.precedes w key))

/-- The earliest write of some bytes that comes after an access of an origin in bundle order; that access sees the bytes as they were before
it (R213). -/
def State.ownLater (s : State) (o : Origin) (keys : List Nat) : Option Past :=
  (s.history.filter fun w => w.later o && keys.any fun k => (w.old k).isSome).getLast?

/-- What an agent sees of a byte otherwise than memory has it. -/
def State.viewOf (s : State) (a : Agent) (key : Nat) : Option Seen := (s.views.find? fun v => v.1 == a && v.2.1 = key).map fun v => v.2.2

/-- The earliest write of a byte among a write of the history and those after it. -/
def State.firstFrom (s : State) (key num : Nat) : Option Past :=
  (((s.history.takeWhile fun w => w.num != num) ++ (s.past num).toList).filter fun w => (w.old key).isSome).getLast?

/-- The write before which an access sees a byte: none, as memory has it; `lim` is its own later write, if any. -/
def State.tagOf (s : State) (o : Origin) (lim : Option Past) (key : Nat) : Option Nat :=
  let own := lim.bind fun w => (s.firstFrom key w.num).map Past.num
  match s.viewOf o.agent key with
  | some (.before n) =>
    if (own.all fun m => (s.newer key n).any fun w => w.num = m) && s.mayRead o key n then some n else own
  | _ => own

/-- A byte as it was before a write of it, or as memory has it. -/
def State.byteAt (s : State) (key : Nat) (tag : Option Nat) : Byte :=
  ((tag.bind s.past).bind fun w => w.old key).getD (Mem.byte s.mem key)

/-- A write seen at a byte under a tag. -/
def State.sees (s : State) (key : Nat) (tag : Option Nat) (w : Past) : Bool :=
  tag.all fun n => !((s.newer key n).any fun x => x.num = w.num)

/-- A write wrote bytes of one unit as one: an aligned run of at most 8 bytes, an atomic's of at most 16, or one of words; no engine does
(R212). -/
def Past.single (w : Past) (keys : List Nat) : Bool :=
  w.runs.any fun r =>
    let n := r.2.length
    !w.agent.isEngine && (keys.filter fun k => r.1 ≤ k && k < r.1 + n).length > 1 &&
      ((w.origin.atomic.isSome && n ≤ 16) || ((n = 2 || n = 4 || n = 8) && r.1 % n = 0) ||
        (n = 256 && r.1 % 4 = 0 && (keys.head?).all fun k => keys.all fun j => j / 4 = k / 4))

/-- The tags of the bytes of a unit that is read as one: no write is seen in part (R212). (DESIGN CHOICE, log 11) -/
def State.tagsOf (s : State) (o : Origin) (keys : List Nat) : List (Option Nat) :=
  let lim := s.ownLater o keys
  let tags := keys.map (s.tagOf o lim)
  let whole := s.history.all fun w => !w.single keys || (
    let seen := ((keys.zip tags).filter fun x => (w.old x.1).isSome).map fun x => s.sees x.1 x.2 w
    seen.all id || !(seen.any id))
  if keys.length ≤ 1 || whole then tags else keys.map fun k => lim.bind fun w => (s.firstFrom k w.num).map Past.num

/-- The units in which `len` bytes from a key on are read: as one when `u` is their number; else of `u` bytes. -/
def unitsOf (u key len : Nat) : List (List Nat) :=
  if u ≤ 1 || key % u != 0 || len % u != 0 then (List.range len).map fun i => [key + i]
  else (List.range (len / u)).map fun i => (List.range u).map fun j => key + u * i + j

/-- No byte is seen otherwise than memory has it by an access of an origin. -/
def State.plainly (s : State) (o : Origin) : Bool := s.views = [] && s.history.all fun w => !w.later o

/-- `len` bytes from a key on as an access of an origin sees them, in units of `u` bytes (R212, R213); `fresh` leaves unverified bytes out
(R196). (DESIGN CHOICE, log 11) -/
def State.see (s : State) (o : Origin) (u key len : Nat) (fresh : Bool := false) : List Byte :=
  if s.plainly o then Mem.read s.mem key len
  else (unitsOf u key len).flatMap fun ks => (ks.zip (s.tagsOf o ks)).map fun x =>
    match s.viewOf o.agent x.1 with
    | some (.coming b vec) => if vec && !(o.slot = 1 || o.slot = 2) then s.byteAt x.1 x.2 else b
    | some (.free b) => if fresh then s.byteAt x.1 x.2 else b
    | _ => s.byteAt x.1 x.2

/-- The size of the units in which an action of `n` bytes reads: at most 8 bytes, or an atomic's or a leaf's 16, as one; a vector by words;
others by bytes (R212, R345). -/
def unitOf (n : Nat) : Nat := if n ≤ 8 || n = 16 then n else if n = 256 then 4 else 1

/-- The bytes of runs as an access of an origin sees them, in units of `u` bytes. -/
def State.seeRuns (s : State) (o : Origin) (u : Nat) (rs : List (Nat × Nat)) : List Byte := rs.flatMap fun r => s.see o u r.1 r.2

/-- The write whose bytes an access sees at each byte of a unit. -/
def State.seenWrites (s : State) (o : Origin) (u : Nat) (rs : List (Nat × Nat)) : List Past :=
  (rs.flatMap fun r => (unitsOf u r.1 r.2).flatMap fun ks => (ks.zip (s.tagsOf o ks)).filterMap fun x =>
    match x.2 with
    | some n => s.replaced x.1 n
    | none => (s.onByte x.1).head?).eraseDups

/-- An agent's views of bytes replaced. (DESIGN CHOICE, log 11) -/
def State.setViews (s : State) (a : Agent) (key len : Nat) (vs : List (Nat × Seen)) : State :=
  { s with views := (vs.map fun v => (a, v.1, v.2)) ++ s.views.filter fun v => !(v.1 == a && key ≤ v.2.1 && v.2.1 < key + len) }

/-- The views of bytes as they were before write `num`, where one of those from it on wrote them. -/
def State.viewsBefore (s : State) (key len num : Nat) : List (Nat × Seen) :=
  if (s.past num).isNone then []
  else (List.range len).filterMap fun i => (s.firstFrom (key + i) num).map fun w => (key + i, .before w.num)

/-! ### Recording -/

/-- Reads that are recorded: all but those of a pocket or a tray (R199, R215, R216). (DESIGN CHOICE, log 11) -/
def raceable (key : Nat) : Bool := !(key < 2 ^ 51 && (key / 2 ^ 48 = 3 || key / 2 ^ 48 = 4))

/-- An access put into the history: the last read of an agent stands for the reads of the same bytes before it since the last write.
(DESIGN CHOICE, log 11) -/
def State.noteRead (s : State) (o : Origin) (rs : List (Nat × Nat)) : State :=
  let rs := rs.filter fun r => raceable r.1
  if rs = [] then s
  else
    let w : Past := { num := s.nextNum, origin := o, runs := [], reads := rs, after := s.knownAt o, shared := [] }
    let same (x : Past) : Bool := x.reads == rs && x.agent == o.agent
    { s with history := w :: ((s.history.takeWhile fun x => x.runs = []).filter fun x => !same x) ++ s.history.dropWhile fun x => x.runs = [] }

/-- A write over runs of bytes, made by `f` and recorded, after which a context sees its own bytes. -/
def State.recordedPlain (s : State) (o : Origin) (rs : List (Nat × Nat)) (f : State → State) : State :=
  let w : Past :=
    { num := s.nextNum, origin := o, runs := rs.map fun r => (r.1, Mem.read s.mem r.1 r.2), reads := [], after := s.knownAt o, shared := [] }
  let t := f s
  { t with
    history := w :: t.history
    views := if t.views = [] then [] else t.views.filter fun v => !(v.1 == w.agent && v.1.isCtx && (w.old v.2.1).isSome) }

/-- A byte that an access would write over a later one of its own context stands below that (R213): the memory keeps the later one's. -/
def State.buryByte (s : State) (o : Origin) (key : Nat) (b : Byte) : State :=
  match s.ownLater o [key] with
  | none => s
  | some w =>
    let below : Past :=
      { num := s.nextNum, origin := o, runs := [(key, [(w.old key).getD 0])], reads := [], after := s.knownAt o, shared := [] }
    { s with history := (s.history.takeWhile fun x => x.num != w.num) ++ w.setOld key b :: below ::
        (s.history.dropWhile fun x => x.num != w.num).drop 1 }

/-- A write over runs of bytes, made by `f` and recorded; bytes that a later access of its context has written keep what that wrote
(R213). -/
def State.recorded (s : State) (o : Origin) (rs : List (Nat × Nat)) (f : State → State) : State :=
  if s.history.all fun w => !w.later o then s.recordedPlain o rs f
  else
    let t := f s
    let keys := rs.flatMap fun r => (List.range r.2).map fun i => r.1 + i
    let under (k : Nat) : Bool := (s.ownLater o [k]).isSome
    let top := keys.filter fun k => !under k
    let u := s.recordedPlain o (top.map fun k => (k, 1)) fun s =>
      { t with mem := (keys.filter under).foldl (fun m k => Mem.write m k [Mem.byte s.mem k]) t.mem }
    (keys.filter under).foldl (fun u k => u.buryByte o k (Mem.byte t.mem k)) u

/-! ### Order over the fabric (R225, R416) -/

/-- The object pointer of a binding: a self-named pocket pointer normalised (R266). -/
def normObj (core : Nat) (p : Word) : Word :=
  if spaceOf p = .pocket && pocketCore core p = core then Bits.setFld p 47 9 0x1FF else p

/-- The writes that come before a write over the fabric for whoever reads its value: the earlier ones of its context to the same die
(R225), and those of the tickets that it named (R416). -/
def State.brings (s : State) (w : Past) : List Cover :=
  (s.history.filter fun v => v.runs != [] && v.agent == w.agent && v.num < w.num &&
    ((v.origin.die.isSome && v.origin.die == w.origin.die) || v.origin.ticket.any w.origin.kmask.contains)).map Past.whole

/-- What a context reads that came over the fabric brings what came before it (R225, R416). -/
def State.brought (s : State) (o : Origin) (u : Nat) (rs : List (Nat × Nat)) : State :=
  if !o.agent.isCtx || s.history.all fun w => w.origin.die.isNone then s
  else s.learn o.agent (o.idx + 1) (((s.seenWrites o u rs).filter fun w => w.origin.die.isSome).flatMap s.brings)

/-- An access reads bytes: the read is recorded, and brings what came before what it sees. -/
def State.readBy (s : State) (o : Origin) (u : Nat) (rs : List (Nat × Nat)) : State := (s.brought o u rs).noteRead o rs

/-! ### Releasing (R218 to R222) -/

/-- The accesses that a release of a context covers whose bundle starts at issue `start`: its own of earlier bundles, and what it was made to
see by then, `known` (R218, R220, R222, R278). Its reads are covered as its writes are. (DESIGN CHOICE, log 11) -/
def State.covered (s : State) (uid start : Nat) (known : List Cover) : List Cover :=
  ((s.history.filter fun w => w.agent == .ctx uid && w.origin.idx < start).map Past.whole) ++ known.filter fun v => v.issue ≤ start

/-- Accesses are performed at a scope, or at that of the window that holds them, in the sets of a seat (R203, R210). -/
def State.performAtScope (s : State) (c : Option Ctx) (seat : Seat) (scope : Nat) (vs : List Cover) : State :=
  { s with
    history := s.history.map fun w =>
      match vs.filter fun v => v.num = w.num with
      | [] => w
      | mine =>
        let more := mine.flatMap fun v => ((c.map fun c => s.narrow c scope w v).getD [(scope, v)]).map fun a => (⟨a.1, seat, a.2.part⟩ : Shared)
        { w with shared := (more ++ w.shared).eraseDups } }

/-- A release by an agent made, with what it covers. -/
def State.release (s : State) (g : Gate) (number : Nat) (a : Agent) (scope : Nat) (vs : List Cover) : State :=
  let c := a.uid.bind s.ctxOf
  let seat := s.seatOf a
  let acts := (s.covers vs).flatMap fun x => (c.map fun c => s.narrow c scope x.1 x.2).getD [(scope, x.2)]
  let t := s.performAtScope c seat scope vs
  { t with released := ⟨g, number, a, seat, scope, acts⟩ :: t.released }

/-- What the focused context's release covers as it issues. -/
def State.snap (s : State) : Snap := ⟨s.ctx.bindings, s.ctx.bovf, s.knownTo (.ctx s.ctx.uid)⟩

/-- A REL's increment of the object at a key, to `number`: it covers what lies in regions bound to the object at its scope, as the bindings and
the context's knowledge stood at its issue (R218, R270); while the bindings have overflowed it also performs what a FENCE would
(R268). (DEDUCED, log 116) -/
def State.releaseObject (s : State) (uid start scope : Nat) (obj : Word) (key number : Nat) (p : Snap) : State :=
  match s.ctxOf uid with
  | none => s
  | some c =>
    let o := normObj c.core obj
    let rs := (p.binds.filter fun b => b.obj == o && b.scope.toNat = scope).flatMap (s.bindingRuns c)
    let all := s.covered uid start p.known
    let t := if p.wide then s.performAtScope (some c) c.seat scope all else s
    t.release (.object key) number (.ctx uid) scope ((s.covers all).filterMap fun x => x.2.only x.1 (partsIn 0 x.1.span rs))

/-- FENCE of a context completes (R220): its covered writes are performed at the scope, and what others performed at it, where they and
the context share it, is ordered before its accesses from issue `from'` on. (DEDUCED, log 116) -/
def State.seeScope (s : State) (c : Ctx) (scope from' : Nat) : State :=
  if scope = 0 then s
  else
    s.learn (.ctx c.uid) from' ((s.history.filter fun w => w.agent != .ctx c.uid).flatMap fun w => w.shared.flatMap fun h =>
      (s.narrow c scope w ⟨w.num, h.part, 0⟩).filterMap fun a =>
        if a.1 ≤ h.scope && h.seat.shares c.seat a.1 then some a.2 else none)

/-- FENCE of the focused context completes (R220). (DEDUCED, log 116) -/
def State.fenceAt (s : State) (scope start : Nat) : State :=
  let c := s.ctx
  (s.performAtScope (some c) c.seat scope (s.covered c.uid start (s.knownTo (.ctx c.uid)))).seeScope c scope start

/-! ### Acquiring -/

/-- What releases give an agent: each of their covers, `pick` narrowing it, where the releaser's sets and its own share the scope at which it
acts, its windows narrowing that too (R203, R210). -/
def State.given (s : State) (c : Option Ctx) (seat : Seat) (rs : List Released) (pick : Past → Cover → Option Cover) : List Cover :=
  rs.flatMap fun r => r.acts.flatMap fun a =>
    match s.past a.2.num with
    | none => []
    | some w =>
      match pick w a.2 with
      | none => []
      | some v =>
        ((c.map fun c => s.narrow c a.1 w v).getD [(a.1, v)]).filterMap fun x => if r.seat.shares seat x.1 then some x.2 else none

/-- The ACQ of the focused context for number `n` of the object at a key completes (R219): what the releases up to `n` cover is ordered before
its accesses, where it has bound the bytes at the release's scope too. What a MAC released needs no binding (R442). While the bindings have
overflowed it sees what a FENCE would (R268). (DEDUCED, log 116) -/
def State.acquireObject (s : State) (obj : Word) (key n scope : Nat) : State :=
  let c := s.ctx
  let o := normObj c.core obj
  let from' := c.now.issue.start
  let rs := s.released.filter fun r => r.gate == .object key && r.number ≤ n
  let bound (sc : Nat) : List (Nat × Nat) := (c.bindings.filter fun b => b.obj == o && b.scope.toNat = sc).flatMap (s.bindingRuns c)
  let vs := rs.flatMap fun r => s.given (some c) c.seat [r] fun w v => match r.agent with
    | .mac _ => some v
    | _ => v.only w (partsIn 0 w.span (bound r.scope))
  let t := s.learn (.ctx c.uid) from' vs
  if c.bovf then t.seeScope c scope from' else t

/-- WAITTL of counter `tc` for number `n` completes: every operation numbered so far is ordered before the context's accesses (R216). -/
def State.acquireEngine (s : State) (tc n : Nat) : State :=
  let u := s.ctx.uid
  s.learn (.ctx u) s.ctx.now.issue.start ((s.history.filter fun w => match w.agent with
    | .engine v t k => v = u && t = tc && k ≤ n
    | _ => false).map Past.whole)

/-- A wait of the focused context on a team barrier, a superstep or the like completes: what the agents that `p` holds of released by the
gate up to a number is ordered before its accesses (R222, R278). -/
def State.acquireGate (s : State) (g : Gate) (n : Nat) (p : Agent → Bool) : State :=
  s.learn (.ctx s.ctx.uid) s.ctx.now.issue.start
    (s.given (some s.ctx) s.ctx.seat (s.released.filter fun r => r.gate == g && r.number ≤ n && p r.agent) fun _ v => some v)

/-! ### Bytes that move -/

/-- The part of a run of bytes from `k` on that stands in a run of keys, and where it goes: beside it what stays. -/
def runMoved (lo len dest : Nat) (r : Nat × List Byte) : List (Nat × List Byte) :=
  let moved := (runMeet (r.1, r.2.length) (lo, len)).toList.map fun m => (m.1 - lo + dest, (r.2.drop (m.1 - r.1)).take m.2)
  let rest := (runCut (lo, len) (r.1, r.2.length)).flatMap (runCut (dest, len))
  moved ++ rest.map fun m => (m.1, (r.2.drop (m.1 - r.1)).take m.2)

/-- The bytes from a key on stand elsewhere from now on, with what has been written and released there. -/
def State.rekey (s : State) (lo len dest : Nat) : State :=
  let go (k : Nat) : Option Nat :=
    if lo ≤ k && k < lo + len then some (k - lo + dest) else if dest ≤ k && k < dest + len then none else some k
  { s with
    history := s.history.map fun w =>
      { w with
        runs := w.runs.flatMap fun r => if (runMeet (r.1, r.2.length) (lo, len)).isNone && (runMeet (r.1, r.2.length) (dest, len)).isNone then [r]
          else runMoved lo len dest r
        reads := w.reads.filterMap fun r => (go r.1).map fun k => (k, r.2) }
    released := s.released.map fun r => match r.gate with
      | .object k => { r with gate := .object ((go k).getD k) }
      | _ => r
    views := s.views.filterMap fun v => (go v.2.1).map fun k => (v.1, k, v.2.2) }

/-- What was written and released from a key on is past: it stands where no byte is. -/
def State.forget (s : State) (lo len : Nat) : State :=
  let t := s.rekey lo len (2 ^ 160 + 2 ^ 60 * s.nextNum)
  { t with
    released := t.released.filter fun r => match r.gate with
      | .object k => k < 2 ^ 160
      | _ => true
    views := t.views.filter fun v => v.2.1 < 2 ^ 160 }

/-- The bytes from a key on stand elsewhere too from now on, as they were before access `lim`, if one is given: what was written and released
there counts for the copy. -/
def State.cloneKeys (s : State) (lo len dest : Nat) (lim : Option Nat) : State :=
  { s with
    history := s.history.map fun w => if lim.any fun n => n ≤ w.num then w else
      { w with runs := w.runs ++ w.runs.flatMap fun r => (runMeet (r.1, r.2.length) (lo, len)).toList.map fun m =>
          (m.1 - lo + dest, (r.2.drop (m.1 - r.1)).take m.2) }
    released := s.released.flatMap fun r => match r.gate with
      | .object k => if lo ≤ k && k < lo + len then [r, { r with gate := .object (k - lo + dest) }] else [r]
      | _ => [r] }

/-! ### Engine commands (R215) -/

/-- Per slot of a context, the issue before which its writes are ordered before a command of slot `k` in issue `i`: the last SYNC that names
both, that of the issue itself among them; of slot `k` itself, every one so far (R215). -/
def Ctx.syncedWith (c : Ctx) (k : Slot) (i : Issue) : List Nat :=
  (List.range 7).map fun m =>
    if m = k.val || (i.sync.getLsbD m && i.sync.getLsbD k.val) then i.idx
    else ((c.syncs.find? fun y => y.1.getLsbD m && y.1.getLsbD k.val && y.2 ≤ i.idx).map Prod.snd).getD 0

/-- What is ordered before a command which starts now (R215). (DEDUCED, log 116) -/
def State.commandKnows (s : State) (c : Cmd) : List Cover :=
  (s.knownTo (.ctx c.uid)).filter (fun v => v.issue ≤ c.idx) ++
    (s.history.filter fun w => w.agent == .ctx c.uid && w.origin.idx < c.synced.getD w.origin.slot 0).map Past.whole

end Sys2Proof.Machine
end

