-- ==== Sys2Proof/Machine/Vector.lean ====
section
/-! DEFINITION. The V slots' arithmetic, conversion, comparison, movement, reduction and quantisation (R171 to R191). -/

namespace Sys2Proof.Machine

/-- A result with its flags. -/
abbrev Lanes := List (Nat × Fp.Flags)

/-- The width of an element type (R171). -/
def elemWidth (t : Nat) : Nat :=
  match t with
  | 3 | 7 | 9 => 32
  | 2 | 6 | 10 | 11 => 16
  | _ => 8

/-- The register of a list of elements, element 0 first. -/
def packElems (w : Nat) (l : List Nat) : Vec :=
  BitVec.ofNat 2048 (l.foldr (fun x acc => acc * 2 ^ w + x % 2 ^ w) 0)

/-- The elements of a register, all 2048 / w of them. -/
def elems (v : Vec) (w : Nat) : List Nat := (List.range (2048 / w)).map fun e => Bits.elem v w e

/-- Element results gathered by lane: patterns joined, flags united (R171, R172). -/
def byLane (w : Nat) (r : Lanes) : Lanes :=
  (List.range 64).map fun i =>
    let part := (r.drop (i * (32 / w))).take (32 / w)
    ((part.foldr (fun x acc => acc * 2 ^ w + x.1 % 2 ^ w) 0), part.foldl (fun f x => f ||| x.2) 0)

/-- The flags of the active lanes (R45, R172). -/
def laneFlags (g : Word) (r : Lanes) : Fp.Flags :=
  (r.zipIdx).foldl (fun f x => if g.getLsbD x.2 then f ||| x.1.2 else f) 0

/-- The lanes that are active and raised invalid, as a predicate (R173). -/
def invalidLanes (g : Word) (r : Lanes) : Word :=
  BitVec.ofNat 64 ((r.zipIdx).foldr (fun x acc => 2 * acc + (if g.getLsbD x.2 && x.1.2.getLsbD 0 then 1 else 0)) 0)

/-- The invalid predicate that SUB asks for (R173). -/
def ivpEff (sub : BitVec 10) (g : Word) (r : Lanes) : List Eff :=
  if sub.getLsbD 9 then [.reg ⟨.p, Bits.fld sub 4 5⟩ (invalidLanes g r)] else []

/-- The lanes of a result written to v[d] where active, with flags and the invalid predicate (R172, R173). -/
def State.postLanes (s : State) (lat d : Nat) (g : Word) (sub : BitVec 10) (r : Lanes) : State :=
  s.post lat ([.vec d (packElems 32 (r.map Prod.fst)) (Bits.laneMask g), .flags (flagsV (laneFlags g r))] ++ ivpEff sub g r)

/-- A result of bits that no arithmetic made (R44, R181). -/
def State.postBits (s : State) (lat d : Nat) (g : Word) (v : Vec) : State := s.post lat [.vec d v (Bits.laneMask g)]

/-- The result of elements of width `w`. -/
def State.postElems (s : State) (lat d w : Nat) (g : Word) (sub : BitVec 10) (r : Lanes) : State :=
  s.postLanes lat d g sub (byLane w r)

/-! ### Floating-point arithmetic (R174, R175) -/

/-- Operands of a V operation by element: A, B (or IMM) and C (or D in the immediate form), width and mode. -/
def vecBinary (f : RI) (r : Fp.Fmt → Fp.Mode → Nat → Nat → Nat × Fp.Flags) (s : State) : State :=
  match f with
  | .r f =>
    let t := Fp.ofCode f.dt.toNat
    let w := elemWidth f.dt.toNat
    s.postElems 4 f.d.toNat w (s.guardVal f.pred f.pneg) f.sub
      (List.zipWith (r t (.ofCode f.rm)) (elems (s.rv f.a.toNat) w) (elems (s.rv f.b.toNat) w))
  | .i f =>
    let t := Fp.ofCode f.dt.toNat
    let w := elemWidth f.dt.toNat
    s.postElems 4 f.d.toNat w (s.guardVal f.pred f.pneg) 0
      ((elems (s.rv f.a.toNat) w).map fun x => r t .rne x (f.imm.toNat % 2 ^ w))

/-- A fused operation of three operands; the immediate form reads a, IMM and d (R174). -/
def vecFused (f : RI) (r : Fp.Mode → Fp.FVal → Fp.FVal → Fp.FVal → Fp.FVal × Fp.Flags) (s : State) : State :=
  match f with
  | .r f =>
    let t := Fp.ofCode f.dt.toNat
    let w := elemWidth f.dt.toNat
    let md := Fp.Mode.ofCode f.rm
    s.postElems 4 f.d.toNat w (s.guardVal f.pred f.pneg) f.sub
      (List.zipWith (fun x yz => rounded t md (r md (Fp.decode t x) (Fp.decode t yz.1) (Fp.decode t yz.2)))
        (elems (s.rv f.a.toNat) w) (List.zip (elems (s.rv f.b.toNat) w) (elems (s.rv f.c.toNat) w)))
  | .i f =>
    let t := Fp.ofCode f.dt.toNat
    let w := elemWidth f.dt.toNat
    let y := Fp.decode t (f.imm.toNat % 2 ^ w)
    s.postElems 4 f.d.toNat w (s.guardVal f.pred f.pneg) 0
      (List.zipWith (fun x z => rounded t .rne (r .rne (Fp.decode t x) y (Fp.decode t z)))
        (elems (s.rv f.a.toNat) w) (elems (s.rv f.d.toNat) w))

/-- A unary operation on patterns; the immediate form takes its operand from IMM (R171). (DEDUCED, log 132) -/
def vecUnary (f : RI) (r : Fp.Fmt → Nat → Nat) (s : State) : State :=
  match f with
  | .r f =>
    let w := elemWidth f.dt.toNat
    s.postBits 4 f.d.toNat (s.guardVal f.pred f.pneg)
      (packElems w ((elems (s.rv f.a.toNat) w).map (r (Fp.ofCode f.dt.toNat))))
  | .i f =>
    let w := elemWidth f.dt.toNat
    s.postBits 4 f.d.toNat (s.guardVal f.pred f.pneg)
      (packElems w (List.replicate (2048 / w) (r (Fp.ofCode f.dt.toNat) (f.imm.toNat % 2 ^ w))))

/-- VADD. -/
def execVadd (f : RI) (s : State) : Out :=
  .next (vecBinary f (fun t md x y => rounded t md (Fp.add md (Fp.decode t x) (Fp.decode t y))) s)
/-- VSUB. -/
def execVsub (f : RI) (s : State) : Out :=
  .next (vecBinary f (fun t md x y => rounded t md (Fp.add md (Fp.decode t x) (Fp.decode t y).neg)) s)
/-- VMUL. -/
def execVmul (f : RI) (s : State) : Out :=
  .next (vecBinary f (fun t md x y => rounded t md (Fp.mul (Fp.decode t x) (Fp.decode t y))) s)
/-- VFMA. -/
def execVfma (f : RI) (s : State) : Out := .next (vecFused f (fun md a b c => Fp.fma md a b c) s)
/-- VFMS: the negation of c is exact (R175). -/
def execVfms (f : RI) (s : State) : Out := .next (vecFused f (fun md a b c => Fp.fma md a b c.neg) s)
/-- VFNMA: the negation of the product is exact (R175). -/
def execVfnma (f : RI) (s : State) : Out := .next (vecFused f (fun md a b c => Fp.fma md a.neg b c) s)
/-- VMIN. -/
def execVmin (f : RI) (s : State) : Out := .next (vecBinary f (fun t _ x y => fpMinMax false t x y) s)
/-- VMAX. -/
def execVmax (f : RI) (s : State) : Out := .next (vecBinary f (fun t _ x y => fpMinMax true t x y) s)
/-- VABS. -/
def execVabs (f : RI) (s : State) : Out := .next (vecUnary f (fun t x => x % 2 ^ (t.exp + t.frac)) s)
/-- VNEG. -/
def execVneg (f : RI) (s : State) : Out := .next (vecUnary f (fun t x => x ^^^ 2 ^ (t.exp + t.frac)) s)

/-- VCPS: the exponent and fraction bits of a with the sign bit of b (R174). -/
def execVcps (f : RI) (s : State) : Out :=
  let r (t : Nat) (x y : Nat) : Nat :=
    let k := 2 ^ (elemWidth t - 1)
    x % k + y / k * k
  .next <| match f with
  | .r f =>
    let w := elemWidth f.dt.toNat
    s.postBits 4 f.d.toNat (s.guardVal f.pred f.pneg)
      (packElems w (List.zipWith (r f.dt.toNat) (elems (s.rv f.a.toNat) w) (elems (s.rv f.b.toNat) w)))
  | .i f =>
    let w := elemWidth f.dt.toNat
    s.postBits 4 f.d.toNat (s.guardVal f.pred f.pneg)
      (packElems w ((elems (s.rv f.a.toNat) w).map fun x => r f.dt.toNat x (f.imm.toNat % 2 ^ w)))

/-- A seed of every lane (R176). -/
def vecSeed (f : RForm) (r : Fp.FVal → Nat × Fp.Flags) (s : State) : State :=
  s.postLanes 6 f.d.toNat (s.guardVal f.pred f.pneg) f.sub ((elems (s.rv f.a.toNat) 32).map fun x => r (Fp.decode Fp.f32 x))

/-- VRCPS (R50, R51). -/
def execVrcps (f : RForm) (s : State) : Out := .next (vecSeed f Fp.rcps s)
/-- VRSQS (R50, R51). -/
def execVrsqs (f : RForm) (s : State) : Out := .next (vecSeed f Fp.rsqs s)
/-- VEXP2S (R50, R51). -/
def execVexp2s (f : RForm) (s : State) : Out := .next (vecSeed f Fp.exp2s s)
/-- VLOG2S (R50, R51). -/
def execVlog2s (f : RForm) (s : State) : Out := .next (vecSeed f Fp.log2s s)

/-! ### Conversions (R177 to R179) -/

/-- The generator of the executing slot (R43). -/
def State.seed (s : State) : Word :=
  match s.k.val with
  | 0 => s.rcr 0x00D
  | 1 => s.rcr 0x009
  | 2 => s.rcr 0x00A
  | _ => s.rcr 0x00B

/-- The generator of the executing slot advanced once when the mode is stochastic, and the value random values derive from
(R43). (DEDUCED, log 45) -/
def State.drawSeed (s : State) (md : Fp.Mode) : Word × State :=
  let x := Fp.advance s.seed
  if md = .rsto then
    (x, s.mapCtx fun c =>
      match s.k.val with
      | 0 => { c with rseeds := c.deviceSets 0x00D (BitVec.allOnes 64) c.rseeds x }
      | 1 => { c with rseed0 := c.deviceSets 0x009 (BitVec.allOnes 64) c.rseed0 x }
      | 2 => { c with rseed1 := c.deviceSets 0x00A (BitVec.allOnes 64) c.rseed1 x }
      | _ => { c with rseedm := c.deviceSets 0x00B (BitVec.allOnes 64) c.rseedm x })
  else (x, s)

/-- The exact value of an element pattern of a float or an integer type. -/
def elemVal (t x : Nat) : Fp.FVal :=
  if 9 ≤ t then Fp.decode (Fp.ofCode t) (x % 2 ^ (Fp.ofCode t).width) else Fp.ofInt (srcInt t x)

/-- An element converted: the pattern in the destination's width (R177). -/
def elemCvt (dt : Nat) (md : Fp.Mode) (sat : Bool) (seed : Word) (idx : Nat) (v : Fp.FVal) : Nat × Fp.Flags :=
  let (x, fl) := convertTo dt md sat (Fp.rnd seed idx) v
  (x.toNat % 2 ^ elemWidth dt, fl)

/-- VCVT (R177). -/
def execVcvt (f : RForm) (s : State) : Out :=
  let dt := f.dt.toNat
  let st := f.st.toNat
  let md := Fp.Mode.ofCode f.rm
  let g := s.guardVal f.pred f.pneg
  let (seed, s) := s.drawSeed md
  let dw := elemWidth dt
  let sw := elemWidth st
  let hs := Bits.fld f.sub 0 1
  let hd := Bits.fld f.sub 1 1
  let a := s.rv f.a.toNat
  let r : Lanes :=
    if dw = sw then
      byLane dw (((elems a sw).zipIdx).map fun x => elemCvt dt md f.sat seed x.2 (elemVal st x.1))
    else if sw = 16 then
      (List.range 64).map fun i => elemCvt dt md f.sat seed (2 * i + hs) (elemVal st (Bits.elem a 16 (2 * i + hs)))
    else
      (List.range 64).map fun i =>
        let x := elemCvt dt md f.sat seed i (elemVal st (Bits.elem a 32 i))
        let other := Bits.elem (s.rv f.d.toNat) 16 (2 * i + (1 - hd))
        (x.1 * 2 ^ (16 * hd) + other * 2 ^ (16 * (1 - hd)), x.2)
  .next (s.postLanes 3 f.d.toNat g f.sub r)

/-- The place of element `i` that R178 gives for a narrow type, q and L: its first bit, and the bits it fills. -/
def narrowPlace (t q : Nat) (l : Bool) (i : Nat) : Nat × Nat :=
  match t with
  | 16 => (256 * q + 4 * i, 4)
  | 14 | 15 => if l then (384 * q + 6 * i, 6) else (512 * q + 8 * i, 8)
  | _ => (512 * q + 8 * i, 8)

/-- The width of a narrow type's element (R34, R36). -/
def narrowWidth (t : Nat) : Nat :=
  match t with
  | 16 | 17 => 4
  | 14 | 15 => 6
  | _ => 8

/-- Bits of a register gathered from fields (place, width, value), and the mask of those fields. -/
def scatter (fs : List (Nat × Nat × Nat)) : Vec × Vec :=
  let put (g : Nat → Nat → Nat) := BitVec.ofNat 2048 (fs.foldl (fun acc x => acc ||| g x.2.1 x.2.2 <<< x.1) 0)
  (put fun w v => v % 2 ^ w, put fun w _ => 2 ^ w - 1)

/-- VPACK's conversion of one element (R178). (DEDUCED, log 40) -/
def packElem (dt st : Nat) (md : Fp.Mode) (sat : Bool) (seed : Word) (i x : Nat) : Nat × Fp.Flags :=
  if st = 0 then (x % 2 ^ narrowWidth dt, 0)
  else if 9 ≤ st || 9 ≤ dt then
    let (v, fl) := convertTo dt md sat (Fp.rnd seed i) (elemVal st x)
    (v.toNat % 2 ^ narrowWidth dt, fl)
  else ((fitInt sat dt (srcInt st x)).toNat % 2 ^ 8, 0)

/-- VPACK (R178). -/
def execVpack (f : RForm) (s : State) : Out :=
  let dt := f.dt.toNat
  let md := Fp.Mode.ofCode f.rm
  let g := s.guardVal f.pred f.pneg
  let (seed, s) := s.drawSeed md
  let r : Lanes := ((elems (s.rv f.a.toNat) 32).zipIdx).map fun x => packElem dt f.st.toNat md f.sat seed x.2 x.1
  let fs := ((r.zipIdx).filter fun x => g.getLsbD x.2).map fun x =>
    let p := narrowPlace dt (Bits.fld f.sub 0 3) (f.sub.getLsbD 3) x.2
    (p.1, p.2, x.1.1)
  let (v, m) := scatter fs
  .next (s.post 4 ([.vec f.d.toNat (Bits.merge m v (s.rv f.d.toNat)) (BitVec.allOnes 2048), .flags (flagsV (laneFlags g r))] ++
    ivpEff f.sub g r))

/-- VUNPK (R179). -/
def execVunpk (f : RForm) (s : State) : Out :=
  let dt := f.dt.toNat
  let st := f.st.toNat
  let g := s.guardVal f.pred f.pneg
  let a := (s.rv f.a.toNat).toNat
  let r : Lanes := (List.range 64).map fun i =>
    let p := narrowPlace st (Bits.fld f.sub 0 3) (f.sub.getLsbD 3) i
    let x := Bits.nfld a p.1 (narrowWidth st)
    if dt = 9 then Fp.round Fp.f32 .rne false 0 (elemVal st x)
    else if 9 ≤ st then (x, 0)
    else ((fitInt false dt (srcInt st x)).toNat % 2 ^ 32, 0)
  .next (s.postLanes 4 f.d.toNat g f.sub r)

/-! ### Comparison, selection and movement (R180 to R182) -/

/-- VCMP's condition on one pair of elements, and its flag. -/
def cmpElem (t cond x y : Nat) : Bool × Fp.Flags :=
  if 9 ≤ t then
    let a := elemVal t x
    let b := elemVal t y
    (fpCond cond a b, Fp.flagIf (a.isSig || b.isSig) Fp.iv)
  else (intCond cond (srcInt t x) (srcInt t y), 0)

/-- VCMP (R180). -/
def execVcmp (f : RForm) (s : State) : Out :=
  let t := f.dt.toNat
  let w := elemWidth t
  let n := 32 / w
  let g := s.guardVal f.pred f.pneg
  let r := List.zipWith (cmpElem t (Bits.fld f.sub 0 3)) (elems (s.rv f.a.toNat) w) (elems (s.rv f.b.toNat) w)
  let lanes := (List.range 64).map fun i =>
    let part := (r.drop (i * n)).take n
    let b := match Bits.fld f.sub 3 2 with
      | 0 => part.all Prod.fst
      | 1 => part.any Prod.fst
      | _ => (part.headD (false, 0)).1
    ((if b then 1 else 0 : Nat), part.foldl (fun fl x => fl ||| x.2) 0)
  let bits := BitVec.ofNat 64 (lanes.foldr (fun x acc => 2 * acc + x.1) 0) &&& g
  .next (s.post 4 [.reg ⟨.p, f.d.toNat⟩ bits, .flags (flagsV (laneFlags g lanes))])

/-- VSEL (R181). -/
def execVsel (f : RForm) (s : State) : Out :=
  .next (s.postBits 4 f.d.toNat (s.guardVal f.pred f.pneg)
    (Bits.merge (Bits.laneMask (s.rp f.c.toNat)) (s.rv f.a.toNat) (s.rv f.b.toNat)))

/-- VMOV (R181). -/
def execVmov (f : RForm) (s : State) : Out := .next (s.postBits 4 f.d.toNat (s.guardVal f.pred f.pneg) (s.rv f.a.toNat))

/-- VBCST (R181). -/
def execVbcst (f : RI) (s : State) : Out :=
  .next <| match f with
  | .r f =>
    let w := elemWidth f.dt.toNat
    s.postBits 4 f.d.toNat (s.guardVal f.pred f.pneg) (packElems w (List.replicate (2048 / w) (s.rs f.a.toNat).toNat))
  | .i f =>
    let w := elemWidth f.dt.toNat
    s.postBits 4 f.d.toNat (s.guardVal f.pred f.pneg) (packElems w (List.replicate (2048 / w) f.imm.toNat))

/-- VIOTA (R181). -/
def execViota (f : RForm) (s : State) : Out :=
  let w := elemWidth f.dt.toNat
  let k := Bits.sInt 8 f.sub.toNat
  .next (s.postBits 4 f.d.toNat (s.guardVal f.pred f.pneg)
    (packElems w ((List.range (2048 / w)).map fun (e : Nat) => (Bits.addI (s.rs f.a.toNat) (k * (e : Int))).toNat)))

/-- VSHF (R182). -/
def execVshf (f : RForm) (s : State) : Out :=
  let seq := elems (s.rv f.a.toNat) 32 ++ elems (s.rv f.b.toNat) 32
  .next (s.postBits 4 f.d.toNat (s.guardVal f.pred f.pneg) (packElems 32 ((seq.drop (Bits.fld f.sub 0 7)).take 64)))

/-- VPERM (R182). -/
def execVperm (f : RForm) (s : State) : Out :=
  let w := elemWidth f.dt.toNat
  .next (s.postBits 4 f.d.toNat (s.guardVal f.pred f.pneg)
    (packElems w ((elems (s.rv f.b.toNat) w).map fun x => Bits.elem (s.rv f.a.toNat) w (x % (2048 / w)))))

/-- VROT (R182). -/
def execVrot (f : RForm) (s : State) : Out :=
  let n := if f.sub.getLsbD 6 then Bits.fld (s.rs f.b.toNat) 0 6 else Bits.fld f.sub 0 6
  let l := elems (s.rv f.a.toNat) 32
  .next (s.postBits 4 f.d.toNat (s.guardVal f.pred f.pneg) (packElems 32 (l.drop n ++ l.take n)))

/-! ### Reductions and scans (R183, R184) -/

/-- One float step of a reduction: sum, maximum or minimum (R155, R183). -/
def redFloat (t : Fp.Fmt) (md : Fp.Mode) (op : Nat) (x y : Nat × Fp.Flags) : Nat × Fp.Flags :=
  let r := match op with
    | 0 => rounded t md (Fp.add md (Fp.decode t x.1) (Fp.decode t y.1))
    | 1 => fpMinMax true t x.1 y.1
    | _ => fpMinMax false t x.1 y.1
  (r.1, x.2 ||| y.2 ||| r.2)

/-- The identity that an inactive lane enters, float types (R183). -/
def idFloat (t : Fp.Fmt) (op : Nat) : Nat :=
  match op with
  | 0 => t.signed true 0
  | 1 => t.signed true t.infPat
  | _ => t.infPat

/-- One integer step of a reduction, exact (R183). -/
def redInt (t op : Nat) (x y : Int) : Int :=
  match op with
  | 0 => x + y
  | 1 => if x < y then y else x
  | 2 => if x < y then x else y
  | 3 => srcInt t (pat t x &&& pat t y)
  | 4 => srcInt t (pat t x ||| pat t y)
  | _ => srcInt t (pat t x ^^^ pat t y)

/-- The identity that an inactive lane enters, integer types (R183). -/
def idInt (t op : Nat) : Int :=
  let (lo, hi) := Fp.intRange (intSigned t) (intWidth t)
  match op with
  | 1 => lo
  | 2 => hi
  | 3 => srcInt t (2 ^ intWidth t - 1)
  | _ => 0

/-- Elements with the identity in place of those of inactive lanes. -/
def withIdentity {α : Type} (w : Nat) (g : Word) (ident : α) (l : List α) : List α :=
  (l.zipIdx).map fun x => if g.getLsbD (x.2 * w / 32) then x.1 else ident

/-- The pairwise tree of R55, halving `k` times. -/
def tree {α : Type} (op : α → α → α) : Nat → List α → List α
  | 0, l => l
  | k + 1, l => tree op k (List.zipWith op (l.take (l.length / 2)) (l.drop (l.length / 2)))

/-- VRED (R183). -/
def execVred (f : RForm) (s : State) : Out :=
  let t := f.dt.toNat
  let w := elemWidth t
  let op := Bits.fld f.sub 0 3
  let g := s.guardVal f.pred f.pneg
  let xs := elems (s.rv f.a.toNat) w
  let k := if w = 32 then 6 else 7
  let r : Nat × Fp.Flags :=
    if 9 ≤ t then
      let t' := Fp.ofCode t
      ((tree (redFloat t' (.ofCode f.rm) op) k
        (withIdentity w g (idFloat t' op, 0) (xs.map fun x => (x, 0)))).headD (0, 0))
    else
      let i := (tree (redInt t op) k (withIdentity w g (idInt t op) (xs.map (srcInt t)))).headD 0
      ((fitInt f.sat t i).toNat % 2 ^ w, 0)
  .next (s.post 8 [.vec f.d.toNat (packElems w (List.replicate (2048 / w) r.1)) (BitVec.allOnes 2048), .flags (flagsV r.2)])

/-- The steps of VSCAN at distances s, 2s, …, `k` of them (R184). (DEDUCED, log 44) -/
def scan {α : Type} (op : α → α → α) : Nat → Nat → List α → List α
  | 0, _, l => l
  | k + 1, d, l => scan op k (2 * d) (l.take d ++ List.zipWith op (l.drop d) l)

/-- Every element moved up by one, the identity first (R184). -/
def exclusive {α : Type} (excl : Bool) (ident : α) (l : List α) : List α := if excl then ident :: l.dropLast else l

/-- VSCAN (R184). (DEDUCED, log 44) -/
def execVscan (f : RForm) (s : State) : Out :=
  let t := f.dt.toNat
  let w := elemWidth t
  let op := Bits.fld f.sub 0 3
  let excl := f.sub.getLsbD 3
  let g := s.guardVal f.pred f.pneg
  let xs := elems (s.rv f.a.toNat) w
  let k := if w = 32 then 6 else 7
  let r : Lanes :=
    if 9 ≤ t then
      let t' := Fp.ofCode t
      exclusive excl (idFloat t' op, 0)
        (scan (redFloat t' (.ofCode f.rm) op) k 1 (withIdentity w g (idFloat t' op, 0) (xs.map fun x => (x, 0))))
    else
      (exclusive excl (idInt t op) (scan (redInt t op) k 1 (withIdentity w g (idInt t op) (xs.map (srcInt t))))).map fun i =>
        ((fitInt f.sat t i).toNat % 2 ^ w, 0)
  .next (s.postElems 10 f.d.toNat w g 0 r)

/-! ### Integer operations (R185) -/

/-- A binary integer operation on elements. -/
def vecInt (f : RI) (r : Nat → Int → Int → Int) (s : State) : State :=
  match f with
  | .r f =>
    let t := f.dt.toNat
    let w := elemWidth t
    s.postBits 4 f.d.toNat (s.guardVal f.pred f.pneg)
      (packElems w (List.zipWith (fun x y => (fitInt f.sat t (r t (srcInt t x) (srcInt t y))).toNat)
        (elems (s.rv f.a.toNat) w) (elems (s.rv f.b.toNat) w)))
  | .i f =>
    let t := f.dt.toNat
    let w := elemWidth t
    s.postBits 4 f.d.toNat (s.guardVal f.pred f.pneg)
      (packElems w ((elems (s.rv f.a.toNat) w).map fun x =>
        (fitInt false t (r t (srcInt t x) (immInt t 32 f.imm.toNat))).toNat))

/-- A shift of elements; the count is the element of b read unsigned, or IMM zero-extended (R149, R185). -/
def vecShift (f : RI) (r : Nat → Int → Nat → Int) (s : State) : State :=
  match f with
  | .r f =>
    let t := f.dt.toNat
    let w := elemWidth t
    s.postBits 4 f.d.toNat (s.guardVal f.pred f.pneg)
      (packElems w (List.zipWith (fun x y => (fitInt f.sat t (r t (srcInt t x) y)).toNat)
        (elems (s.rv f.a.toNat) w) (elems (s.rv f.b.toNat) w)))
  | .i f =>
    let t := f.dt.toNat
    let w := elemWidth t
    s.postBits 4 f.d.toNat (s.guardVal f.pred f.pneg)
      (packElems w ((elems (s.rv f.a.toNat) w).map fun x => (fitInt false t (r t (srcInt t x) f.imm.toNat)).toNat))

/-- A unary integer operation on elements (R146, R185). -/
def vecIntUnary (f : RI) (r : Nat → Int → Int) (s : State) : State :=
  match f with
  | .r f =>
    let t := f.dt.toNat
    let w := elemWidth t
    s.postBits 4 f.d.toNat (s.guardVal f.pred f.pneg)
      (packElems w ((elems (s.rv f.a.toNat) w).map fun x => (fitInt f.sat t (r t (srcInt t x))).toNat))
  | .i f =>
    let t := f.dt.toNat
    let w := elemWidth t
    s.postBits 4 f.d.toNat (s.guardVal f.pred f.pneg)
      (packElems w (List.replicate (2048 / w) (fitInt false t (r t (immInt t 32 f.imm.toNat))).toNat))

/-- VIADD. -/
def execViadd (f : RI) (s : State) : Out := .next (vecInt f (fun _ x y => x + y) s)
/-- VISUB. -/
def execVisub (f : RI) (s : State) : Out := .next (vecInt f (fun _ x y => x - y) s)
/-- VIMUL. -/
def execVimul (f : RI) (s : State) : Out := .next (vecInt f (fun _ x y => x * y) s)
/-- VAND. -/
def execVand (f : RI) (s : State) : Out := .next (vecInt f (fun t x y => ((pat t x &&& pat t y : Nat) : Int)) s)
/-- VOR. -/
def execVor (f : RI) (s : State) : Out := .next (vecInt f (fun t x y => ((pat t x ||| pat t y : Nat) : Int)) s)
/-- VXOR. -/
def execVxor (f : RI) (s : State) : Out := .next (vecInt f (fun t x y => ((pat t x ^^^ pat t y : Nat) : Int)) s)
/-- VSHL. -/
def execVshl (f : RI) (s : State) : Out :=
  .next (vecShift f (fun _ x c => x * (2 ^ (min c 64) : Nat)) s)
/-- VSHR. -/
def execVshr (f : RI) (s : State) : Out :=
  .next (vecShift f (fun t x c => ((pat t x >>> (min c 64) : Nat) : Int)) s)
/-- VSRA. -/
def execVsra (f : RI) (s : State) : Out :=
  .next (vecShift f (fun t x c => (Bits.sInt (intWidth t) (pat t x)).fdiv (2 ^ (min c 64) : Nat)) s)
/-- VCLZ. -/
def execVclz (f : RI) (s : State) : Out :=
  .next (vecIntUnary f (fun t x => ((Bits.leadZeros (intWidth t) (pat t x) : Nat) : Int)) s)
/-- VPOPC. -/
def execVpopc (f : RI) (s : State) : Out :=
  .next (vecIntUnary f (fun t x => ((Bits.popCount (intWidth t) (pat t x) : Nat) : Int)) s)

/-! ### Order keys and digits (R186, R187) -/

/-- The forward key of a pattern of width `w` (R186). -/
def orderKey (t w p : Nat) : Nat :=
  let h := 2 ^ (w - 1)
  if 9 ≤ t then (if p < h then p + h else 2 ^ w - 1 - p) else if intSigned t then p ^^^ h else p

/-- The pattern whose forward key is `k`. -/
def unorderKey (t w k : Nat) : Nat :=
  let h := 2 ^ (w - 1)
  if 9 ≤ t then (if h ≤ k then k - h else 2 ^ w - 1 - k) else if intSigned t then k ^^^ h else k

/-- VORD's element (R186). -/
def vordElem (t w : Nat) (inv desc : Bool) (x : Nat) : Nat :=
  let flip (k : Nat) := if desc then 2 ^ w - 1 - k else k
  if inv then unorderKey t w (flip x) else flip (orderKey t w x)

/-- VORD (R186). -/
def execVord (f : RForm) (s : State) : Out :=
  let w := elemWidth f.dt.toNat
  .next (s.postBits 4 f.d.toNat (s.guardVal f.pred f.pneg)
    (packElems w ((elems (s.rv f.a.toNat) w).map (vordElem f.dt.toNat w (f.sub.getLsbD 0) (f.sub.getLsbD 1)))))

/-- VDIG (R187). -/
def execVdig (f : RForm) (s : State) : Out :=
  let w := elemWidth f.dt.toNat
  .next (s.postBits 4 f.d.toNat (s.guardVal f.pred f.pneg)
    (packElems w ((elems (s.rv f.a.toNat) w).map fun x => Bits.nfld x (Bits.fld f.sub 0 5) (Bits.fld f.sub 5 4))))

/-! ### Quantisation (R188 to R191) -/

/-- The greater of two magnitudes that are no NaN. -/
def maxMag (a b : Fp.FVal) : Fp.FVal :=
  match a, b with
  | .inf _, _ => .inf false
  | _, .inf _ => .inf false
  | .fin _ m e, .fin _ m' e' => if Fp.cmpMag m e m' e' = .lt then .fin false m' e' else .fin false m e
  | x, _ => x

/-- VAMAX of one block (R188). -/
def amaxBlock (xs : List Fp.FVal) : Nat × Fp.Flags :=
  let fl := Fp.flagIf (xs.any Fp.FVal.isSig) Fp.iv
  if xs.any Fp.FVal.isNaN then (Fp.f32.canonNaN, fl)
  else ((Fp.round Fp.f32 .rne false 0 (xs.foldl maxMag (.fin false 0 0))).1, fl)

/-- VAMAX (R188). -/
def execVamax (f : RForm) (s : State) : Out :=
  let t := f.dt.toNat
  let w := elemWidth t
  let g := s.guardVal f.pred f.pneg
  let xs := (withIdentity w g 0 (elems (s.rv f.a.toNat) w)).map (elemVal t)
  let n := if w = 32 then 2 else 4
  let r := (List.range n).map fun b => amaxBlock ((xs.drop (32 * b)).take 32)
  let (v, m) := scatter ((r.zipIdx).map fun x => (32 * x.2, 32, x.1.1))
  .next (s.post 4 [.vec f.d.toNat (Bits.merge m v (s.rv f.d.toNat)) (BitVec.allOnes 2048), .flags (flagsV (r.foldl (fun fl x => fl ||| x.2) 0))])

/-- The magnitudes of the codes 0, 1, 2, … of a TYPE, in eighths, positive codes (R38). -/
def codeMags (type : Nat) : List Nat :=
  match type with
  | 0 => [0, 8, 16, 24, 32, 40, 48, 56]
  | 1 => [0, 4, 8, 12, 16, 24, 32, 48]
  | 2 => [0, 1, 2, 4, 8, 16, 32, 64]
  | _ => [0, 8, 16, 24, 32, 48, 64, 96]

/-- The code of a sign and an index into the magnitudes: two's complement for uniform integers (R38). -/
def codeOf (type : Nat) (neg : Bool) (i : Nat) : Nat :=
  if type = 0 then (if neg then (16 - i) % 16 else i) else (if neg then 8 else 0) + i

/-- The magnitudes of a code's side, in eighths, and the next value of the grid that goes on above them (R42, R47). -/
def codeGrid (type : Nat) (neg : Bool) : List Nat × Nat :=
  match type with
  | 0 => if neg then (codeMags 0 ++ [64], 72) else (codeMags 0, 64)
  | 1 => (codeMags 1, 64)
  | 2 => (codeMags 2, 128)
  | n => (codeMags n, 128)

/-- Code(y) of R190 for y = m · 2^e eighths, nonzero: a y beyond the codes takes the extreme one, and overflows where R47 says so.
(DEDUCED, log 131) -/
def quantCode (type : Nat) (md : Fp.Mode) (sat : Bool) (rnd : Nat) (neg : Bool) (m : Nat) (e : Int) : Nat × Fp.Flags :=
  let (mags, beyond) := codeGrid type neg
  let grid := mags ++ [beyond]
  let lo := (grid.filter fun v => Fp.cmpMag v 0 m e != .gt).length - 1
  let a := grid.getD lo 0
  if lo < mags.length && Fp.cmpMag a 0 m e = .eq then (codeOf type neg lo, 0)
  else
    let b := grid.getD (lo + 1) 0
    let sh := (-e).toNat
    let num := m * 2 ^ e.toNat - a * 2 ^ sh
    let den := (b - a) * 2 ^ sh
    let up := match md with
      | .rne => mags.length ≤ lo || den < 2 * num || (2 * num = den && lo % 2 = 1)
      | .rz => false
      | .rup => !neg
      | .rdn => neg
      | .rsto => mags.length ≤ lo || 2 ^ 16 ≤ num * 2 ^ 16 / den + rnd
    let i := if up then lo + 1 else lo
    let top := mags.length - 1
    if top < i && up then (codeOf type neg top, Fp.ovf ||| Fp.nx ||| Fp.flagIf (!sat) Fp.iv) else (codeOf type neg (min i top), Fp.nx)

/-- The code of one element of a block with exponent EXP (R189, R190). -/
def quantElem (type : Nat) (md : Fp.Mode) (sat : Bool) (rnd ex : Nat) (x : Fp.FVal) : Nat × Fp.Flags :=
  match x with
  | .nan _ => (0, 0)
  | .inf neg => (codeOf type neg (if type = 0 && neg then 8 else 7), Fp.iv)
  | .fin neg m e =>
    if m = 0 then (codeOf type (type != 0 && neg) 0, 0)
    else quantCode type md sat rnd neg m (e + 3 - ((ex : Int) - 31))

/-- EXP of a block: the least e with A ≤ Q · 2^(e-31), or 62 (R189). -/
def quantExp (type : Nat) (m : Nat) (e : Int) : Nat :=
  let q := [7, 6, 8, 12].getD type 0
  if m = 0 then 0 else ((List.range 63).find? fun (x : Nat) => Fp.cmpMag m e q ((x : Int) - 31) != .gt).getD 62

/-- The largest finite magnitude of a block (R189). -/
def maxFinite (xs : List Fp.FVal) : Nat × Int :=
  xs.foldl (fun a x =>
    match x with
    | .fin _ m e => if Fp.cmpMag a.1 a.2 m e = .lt then (m, e) else a
    | _ => a) (0, 0)

/-- One block quantised: scale byte, codes and flags (R39, R189). -/
def quantBlock (type : Nat) (md : Fp.Mode) (sat : Bool) (seed : Word) (first : Nat) (xs : List Fp.FVal) : Nat × Lanes :=
  if xs.any Fp.FVal.isNaN then (type * 64 + 63, xs.map fun _ => (0, Fp.iv))
  else
    let (m, e) := maxFinite xs
    let ex := quantExp type m e
    (type * 64 + ex, (xs.zipIdx).map fun x => quantElem type md sat (Fp.rnd seed (first + x.2)) ex x.1)

/-- VQNT (R189). -/
def execVqnt (f : RForm) (s : State) : Out :=
  let md := Fp.Mode.ofCode f.rm
  let g := s.guardVal f.pred f.pneg
  let (seed, s) := s.drawSeed md
  let q := Bits.fld f.sub 0 3
  let type := Bits.fld f.sub 3 2
  let xs := (withIdentity 32 g 0 (elems (s.rv f.a.toNat) 32)).map (elemVal 9)
  let b0 := quantBlock type md f.sat seed 0 (xs.take 32)
  let b1 := quantBlock type md f.sat seed 32 (xs.drop 32)
  let codes := b0.2 ++ b1.2
  let (v, m) := scatter ((codes.zipIdx).map fun x => (256 * q + 4 * x.2, 4, x.1.1))
  let (v', m') := scatter [(8 * (2 * q), 8, b0.1), (8 * (2 * q + 1), 8, b1.1)]
  .next (s.post 4 [.vec f.d.toNat (Bits.merge m v (s.rv f.d.toNat)) (BitVec.allOnes 2048),
    .vec f.c.toNat (Bits.merge m' v' (s.rv f.c.toNat)) (BitVec.allOnes 2048), .flags (flagsV (codes.foldl (fun fl x => fl ||| x.2) 0))])

/-- VDQNT (R191). -/
def execVdqnt (f : RForm) (s : State) : Out :=
  let q := Bits.fld f.sub 0 3
  let a := (s.rv f.a.toNat).toNat
  let c := (s.rv f.c.toNat).toNat
  let r := (List.range 64).map fun i =>
    (Fp.round Fp.f32 .rne false 0 (Fp.n4 (Bits.nfld c (8 * (2 * q + i / 32)) 8) (Bits.nfld a (256 * q + 4 * i) 4))).1
  .next (s.postBits 4 f.d.toNat (s.guardVal f.pred f.pneg) (packElems 32 r))

end Sys2Proof.Machine
end

