-- ==== Sys2Proof/Machine/Memory.lean ====
section
/-! DEFINITION. Loads and stores of the S and V slots (R192 to R196, R226 to R230): what each does at issue. The bytes are read
and written when the result falls due. -/

namespace Sys2Proof.Machine

/-- The bytes of an access of R226 by type code. -/
def accSize (t : Nat) : Nat :=
  match t with
  | 1 | 5 => 1
  | 2 | 6 | 10 | 11 => 2
  | 3 | 7 | 9 => 4
  | _ => 8

/-- The register that a data field names by type code: the a file for code 0 (R226). -/
def dataReg (t d : Nat) : Reg := if t = 0 then ⟨.a, d⟩ else ⟨.s, d⟩

/-- The source of a store of R226. -/
def State.storeVal (s : State) (t d : Nat) : Word := if t = 0 then s.ra d else s.rs d

/-- A loaded value in its register: sign- or zero-extended, or a float pattern (R226). -/
def loadVal (t n : Nat) : Word :=
  if 1 ≤ t && t ≤ 8 then BitVec.ofInt 64 (srcInt t n) else BitVec.ofNat 64 n

/-- A checked access: `act` at its place, or the error that R198 gives. -/
def State.withPlace (s : State) (x : Access) (ea : Word) (act : Place → State → State) : State :=
  match s.check x ea with
  | .error b => s.raiseBad b ea
  | .ok p => act p s

/-- LD (R227). -/
def execLd (f : MForm) (s : State) : Out :=
  let t := f.dt.toNat
  let n := accSize t
  let ea := s.eaStd f n
  .next (s.memForm f ea fun s =>
    s.withPlace ⟨.read, n, false, true⟩ ea fun p s =>
      let off := s.pocketOff p
      if f.chk && !s.ctx.tilesFull off n then s.stall
      else s.post 5 [] (some (.ld (dataReg t f.d.toNat) t off n)))

/-- A write of bytes that enters the memory system when it falls due, or goes to the own pocket (R228). -/
def State.postWrite (s : State) (lat : Nat) (ea : Word) (p : Place) (bytes : List Byte) : State :=
  if s.inPocket p then s.post lat [] (some (.st [(s.pocketOff p, bytes)]))
  else s.post lat [] (some (.send (s.newReq ea p (.write bytes) 0 none)))

/-- ST (R228). -/
def execSt (f : MForm) (s : State) : Out :=
  let t := f.dt.toNat
  let n := accSize t
  let ea := s.eaStd f n
  .next (s.memForm f ea fun s =>
    s.withPlace ⟨.write, n, false, false⟩ ea fun p s =>
      s.postWrite 5 ea p (Bits.natLe n (s.storeVal t f.d.toNat).toNat))

/-- A landing load: an entry is taken at issue, and the request leaves 5 cycles later (R229). -/
def State.landingLoad (s : State) (f : MForm) (ea : Word) (n : Nat) (dst : LandDst) : State :=
  s.memForm f ea fun s =>
    s.withPlace ⟨.read, n, false, false⟩ ea fun p s =>
      if s.landFree then
        let (id, s) := s.takeLanding (Bits.fld f.disp 7 10) (some dst) none
        s.post 5 [] (some (.send (s.newReq ea p (.read n) 0 (some id))))
      else s.stall

/-- LDL (R229). -/
def execLdl (f : MForm) (s : State) : Out :=
  let t := f.dt.toNat
  let n := accSize t
  .next (s.landingLoad f (s.eaLand f n) n ⟨dataReg t f.d.toNat, t, false⟩)

/-- VLDL (R229). -/
def execVldl (f : MForm) (s : State) : Out :=
  .next (s.landingLoad f (s.eaLand f 256) 256 ⟨⟨.v, f.d.toNat⟩, 0, false⟩)

/-! ### Vector accesses of the pocket (R192 to R195) -/

/-- The active lanes of a guard, ascending. -/
def activeLanes (g : Word) : List Nat := (List.range 64).filter fun i => g.getLsbD i

/-- The lowest-ordered failure among the lanes, at its lowest lane (R192, R198). -/
def worstLane (l : List (Word × Except Bad Place)) : Option (Bad × Word) :=
  l.foldl (fun a x =>
    match x.2 with
    | .ok _ => a
    | .error b =>
      match a with
      | none => some (b, x.1)
      | some (b', _) => if b.order < b'.order then some (b, x.1) else a) none

/-- The active lanes with their pocket offsets, when every address passes its checks; otherwise the error (R192). -/
def State.laneOffsets (s : State) (perm : Perm) (g : Word) (addr : Nat → Word) : Except (Bad × Word) (List (Nat × Nat)) :=
  let ls := activeLanes g
  let cs := ls.map fun i =>
    let a := addr i &&& ~~~3
    (a, s.check ⟨perm, 4, false, true⟩ a)
  match worstLane cs with
  | some e => .error e
  | none =>
    .ok (List.zipWith (fun i c =>
      match c.2 with
      | .ok p => (i, s.pocketOff p)
      | .error _ => (i, 0)) ls cs)

/-- A vector access of the pocket: the address steps, then `act` runs on the active lanes' offsets (R192). -/
def State.vecAccess (s : State) (f : MForm) (ea : Word) (perm : Perm) (addr : Nat → Word)
    (act : List (Nat × Nat) → State → State) : State :=
  let s := s.mapSlot fun x => { x with ea := ea }
  match s.laneOffsets perm (s.guardVal f.pred f.pneg) addr with
  | .error (b, a) => s.raiseBad b a
  | .ok ls => act ls s

/-- A vector load, tile-checked or not (R193, R194). -/
def State.vecLoad (s : State) (f : MForm) (lat : Nat) (ls : List (Nat × Nat)) : State :=
  if f.chk && !(ls.all fun x => s.ctx.tilesFull x.2 4) then s.stall
  else s.post lat [] (some (.vld f.d.toNat ls))

/-- A vector store: the words of the active lanes in ascending order, so that the highest lane of one word prevails
(R193, R194). -/
def State.vecStore (s : State) (f : MForm) (lat : Nat) (ls : List (Nat × Nat)) : State :=
  s.post lat [] (some (.st (ls.map fun x => (x.2, Bits.natLe 4 (Bits.lane (s.rv f.d.toNat) x.1).toNat))))

/-- The address of lane `i` of an indexed access: EA + 4 × Lane(vi, i) (R194). -/
def State.idxAddr (s : State) (f : MForm) (ea : Word) (i : Nat) : Word :=
  ea + BitVec.ofNat 64 (4 * (Bits.lane (s.rv f.idx.toNat) i).toNat)

/-- VLD (R193). -/
def execVld (f : MForm) (s : State) : Out :=
  let ea := s.eaStd f 256
  .next (s.vecAccess f ea .read (fun i => ea + BitVec.ofNat 64 (4 * i)) fun ls s => s.vecLoad f 5 ls)

/-- VST (R193). -/
def execVst (f : MForm) (s : State) : Out :=
  let ea := s.eaStd f 256
  .next (s.vecAccess f ea .write (fun i => ea + BitVec.ofNat 64 (4 * i)) fun ls s => s.vecStore f 5 ls)

/-- VLDG (R194). -/
def execVldg (f : MForm) (s : State) : Out :=
  let ea := s.eaIdx f 4
  .next (s.vecAccess f ea .read (s.idxAddr f ea) fun ls s => s.vecLoad f 8 ls)

/-- VSTS (R194). -/
def execVsts (f : MForm) (s : State) : Out :=
  let ea := s.eaIdx f 4
  .next (s.vecAccess f ea .write (s.idxAddr f ea) fun ls s => s.vecStore f 8 ls)

/-- VHADD (R195): the additions are made, in lane order, at the due cycle. -/
def execVhadd (f : MForm) (s : State) : Out :=
  let ea := s.eaIdx f 4
  .next (s.vecAccess f ea .write (s.idxAddr f ea) fun ls s =>
    s.post 8 [] (some (.vhadd f.dt.toNat (ls.map fun x => (x.2, Bits.lane (s.rv f.d.toNat) x.1)))))

end Sys2Proof.Machine
end

