-- ==== Sys2Proof/Machine/Sync.lean ====
section
/-! DEFINITION. Atomics, sync objects, fences, timeline counters, team barriers, supersteps and completion-interrupt arms
(R261 to R281). -/

namespace Sys2Proof.Machine

/-! ### Contexts other than the focused one -/

/-- Another context brought into the focus, the focused one put among the others. -/
def State.refocus (s : State) (uid : Nat) : State :=
  if s.ctx.uid = uid then s
  else
    match s.others.find? fun c => c.uid == uid with
    | none => s
    | some c => { s with ctx := c, others := s.ctx :: s.others.filter fun c => c.uid != uid }

/-- A change of the context `uid`, made with that context in the focus. -/
def State.onCtx (s : State) (uid : Nat) (f : State → State) : State :=
  let here := s.ctx.uid
  if here = uid then f s
  else if s.others.any fun c => c.uid == uid then (f (s.refocus uid)).refocus here
  else s

/-- Every context of the machine. -/
def State.allCtx (s : State) : List Ctx := s.ctx :: s.others

/-! ### Waits -/

/-- The executing slot waits in its operation, with the operands it captured at issue (R214, R283, R319). -/
def State.waitIn (s : State) (w : Wait) : State :=
  let c := s.capture
  s.mapSlot fun x => { x with wait := some w, cap := some c }

/-- The executing slot's wait is over; its results are written before its next issue. -/
def State.endWait (s : State) (effs : List Eff) : State :=
  let s := s.mapSlot fun x => { x with wait := none, cap := none }
  if effs.isEmpty then s else s.post 0 effs

/-- A wait of slot `k` ended by an event: the slot consumes its issue without acting again. -/
def State.finishWait (s : State) (k : Slot) (effs : List Eff) : State :=
  s.mapCtx fun c => c.mapSlot k fun x =>
    { x with wait := none, cap := none, skip := true
             flights := if effs.isEmpty then x.flights else x.flights ++ [⟨x.time, x.pos, Site.none, c.uiAct, effs, none⟩] }

/-! ### Writes that a release performs (R450) -/

/-- A memory action that writes. -/
def MemOp.isWrite : MemOp → Bool
  | .st _ | .vhadd _ _ | .mst _ | .tcon _ _ => true
  | .send r => match r.act with
    | .read _ => false
    | _ => true
  | .ld _ _ _ _ | .vld _ _ | .qld _ _ | .tld _ _ _ _ | .cord _ _ => false

/-- A memory action that reads. -/
def MemOp.isRead : MemOp → Bool
  | .ld _ _ _ _ | .vld _ _ | .vhadd _ _ | .qld _ _ | .tld _ _ _ _ | .cord _ _ | .tcon _ _ => true
  | .send r => match r.act with
    | .write _ => false
    | _ => true
  | .mst j => j.fold.isSome
  | .st _ => false

/-- A request that writes. -/
def Req.isWrite (r : Req) : Bool :=
  match r.act with
  | .read _ => false
  | _ => true

/-- A request that reads. -/
def Req.isRead (r : Req) : Bool :=
  match r.act with
  | .write _ => false
  | _ => true

/-- The issue from which a release's later bundles count. -/
def Release.idx : Release → Nat
  | .rel i _ _ => i
  | .arv i _ _ _ _ => i

/-- A sequencer has writes of bundles before the one that starts at issue `idx` that are not yet performed, or a slot that may still issue
some. -/
def Pipe.owes (p : Pipe) (idx : Nat) : Bool :=
  p.slots.any fun x => x.pos < idx || x.flights.any fun f => f.idx < idx && (f.mem.any MemOp.isWrite)

/-- Some write issued in a bundle before the one that starts at issue `idx` is not yet performed, or may still be issued by a
slot that lags (R450), in the code that a trap or a completion interrupt has stopped as well; an atomic stays open until its
acknowledgment (R265, R409). (DEDUCED, log 115) -/
def State.writesOpen (s : State) (idx : Nat) : Bool :=
  s.ctx.pipe.owes idx || (s.ctx.trapped.any fun q => idx < q.1.count && q.1.owes idx) ||
  (s.ctx.uiSaved.any fun q => idx < q.1.count && q.1.owes idx) ||
  (s.reqs.any fun r => r.uid == s.ctx.uid && r.idx < idx && r.isWrite) ||
  (s.resps.any fun r => r.uid == s.ctx.uid && r.idx < idx && r.write) ||
  (s.ctx.releases.any fun r => r.idx < idx)

/-- Some access issued in a bundle before the one that starts at issue `idx` is not yet performed (R220). -/
def State.accessesOpen (s : State) (idx : Nat) : Bool :=
  s.writesOpen idx || (s.ctx.pipe.slots.any fun x => x.flights.any fun f => f.idx < idx && f.mem.isSome) ||
  (s.reqs.any fun r => r.uid == s.ctx.uid && r.idx < idx)

/-! ### Bundle order among slots (R213, R214, R236) -/

/-- What an operation can reach in memory before its address is known: whether only the own pocket, and whether it writes. -/
def reach (i : Instr) : Option (Bool × Bool) :=
  match i with
  | .ld _ | .vld _ | .vldg _ | .tld _ | .qld _ | .cord _ => some (true, false)
  | .vst _ | .vsts _ | .vhadd _ | .tcon _ | .tchn _ => some (true, true)
  | .ldl _ | .vldl _ | .acq _ => some (false, false)
  | .st _ | .mst _ | .atom _ | .atomf _ | .cas _ | .amaxr _ | .rel _ | .ratom _ | .rstk _ | .rstd _ | .catt _ | .capp _ | .cstb _
  | .ccmt _ | .cckp _ | .crpl _ | .cfrec _ | .cres _ | .cmap _ | .cref _ | .cpin _ | .cseq _ | .ctrn _ => some (false, true)
  | _ => none

/-- A slot other than `k` that lags has still to act in an earlier place of the bundle order than operation (idx, k) on something that
`p` holds of. (DEDUCED, log 14) -/
def Ctx.lags (c : Ctx) (idx k : Nat) (p : Issue → Nat → Instr → Bool) : Bool :=
  (c.pipe.slots.zipIdx).any fun x => x.2 != k && !x.1.stopped && x.1.pos ≤ idx && c.pipe.queue.any fun j =>
    x.1.pos ≤ j.idx && (j.idx < idx || (j.idx = idx && x.2 < k)) && (j.ops.getD x.2 none).any fun o => p j x.2 o

/-- A read of operation (idx, k), in the own pocket or not, may have to return what a slot behind it has still to write, or is waiting to
write (R213, R364). (DEDUCED, log 14) -/
def Ctx.laggardMeets (c : Ctx) (idx k : Nat) (pocket : Bool) : Bool :=
  c.lags idx k fun _ _ o => (reach o).any fun r => r.2 && (pocket || !r.1)

/-- The counter that an operation takes a number of (R216). -/
def numberedOn (i : Instr) : Option Nat :=
  match i with
  | .cpy f | .tmov f | .gsx f | .fstt f | .fstl f | .xlnk f | .wstr f | .tful f | .temp f => some f.tc.toNat
  | .tchn f => some (Bits.fld f.sub 0 4)
  | _ => none

/-- An operation earlier in bundle order has still to take its number of counter `tc` (R236). -/
def State.numberWaits (s : State) (tc : Nat) : Bool :=
  s.ctx.lags s.ctx.now.issue.idx s.k.val fun j m o =>
    numberedOn o == some tc && !(j.idx = s.ctx.now.issue.idx && j.sync.getLsbD m && j.sync.getLsbD s.k.val)

/-- The issue a slot is to consume. -/
def Pipe.issueAt (p : Pipe) (pos : Nat) : Option Issue := p.queue.find? fun i => i.idx == pos

/-- Acquire barriers (R214, R277). (DEDUCED, log 23) -/
def barrierOp (i : Instr) : Bool :=
  match i with
  | .acq _ | .waittl _ | .fence _ | .sstep _ | .tkwt _ | .bar _ | .waitb _ => true
  | _ => false

/-- The acquire barriers as a slot waits in them (R214, R277). (DEDUCED, log 23) -/
def Wait.barrier : Wait → Bool
  | .acq _ _ _ _ _ _ | .waittl _ _ | .bar _ _ _ _ | .waitb _ _ | .sstep _ _ | .fence _ | .tkwt _ => true
  | .wfe _ _ | .launch _ _ _ | .prmt _ _ _ | .save _ _ _ | .prb _ | .wtbase _ _ | .tclm _ | .context _ _ _ => false

/-- The issue in which S waits at an acquire barrier. (DEDUCED, log 23) -/
def Ctx.barrierIssue (c : Ctx) : Option Issue :=
  if ((c.slot 0).wait).any Wait.barrier then c.pipe.issueAt (c.slot 0).pos else none

/-- Issue `idx` belongs to a bundle after that of an acquire barrier that S has not completed: no access of it is performed, or reads (R214).
(DEDUCED, log 23) -/
def Ctx.behindBarrier (c : Ctx) (idx : Nat) : Bool :=
  let x := c.slot 0
  c.pipe.queue.any fun b => x.pos ≤ b.idx && !(x.skip && b.idx = x.pos) && (b.ops.getD 0 none).any barrierOp &&
    c.pipe.queue.any fun j => j.idx = idx && b.start < j.start

/-! ### Memory-form fields (R261) -/

/-- The SCOPE field. (DEDUCED, log 116) -/
def scopeOf (f : MForm) : BitVec 3 := BitVec.ofNat 3 (Bits.fld f.disp 14 3)
/-- The AOP field. -/
def aopOf (f : MForm) : Nat := Bits.fld f.disp 11 3
/-- The PAIR field. -/
def pairOf (f : MForm) : Bool := f.disp.getLsbD 10

/-- A register, or the pair s[n+1]:s[n] (R263). -/
def State.rpair (s : State) (pair : Bool) (n : Nat) : Nat :=
  if pair then (s.rs n).toNat + (s.rs (n + 1)).toNat * 2 ^ 64 else (s.rs n).toNat

/-- An atomic: checked, then a landing entry of distance 1 is taken, and the request leaves 5 cycles later (R265). (DEDUCED, log 113) -/
def State.atomic (s : State) (f : MForm) (op : AtomOp) (size : Nat) (v cmp : Nat) : State :=
  let ea := s.eaOfs f size
  s.memForm f ea fun s =>
    s.withPlace ⟨.atomic, size, true, false⟩ ea fun p s =>
      if s.landFree then
        let (id, s) := s.takeLanding 1 (some ⟨⟨.s, f.d.toNat⟩, f.dt.toNat, pairOf f⟩) none
        s.post 5 [] (some (.send (s.newReq ea p (.atom op f.dt.toNat size v cmp) (scopeOf f) (some id))))
      else s.stall

/-- The access size of an atomic (R263). -/
def atomSize (f : MForm) : Nat := if pairOf f then 16 else accSize f.dt.toNat

/-- ATOM (R263, R264). -/
def execAtom (f : MForm) (s : State) : Out :=
  let op := match aopOf f with
    | 0 => AtomOp.add
    | 1 => .and
    | 2 => .or
    | 3 => .xor
    | 4 => .min
    | 5 => .max
    | _ => .xchg
  .next (s.atomic f op (atomSize f) (s.rpair (pairOf f) f.idx.toNat) 0)

/-- ATOMF (R263, R264). -/
def execAtomf (f : MForm) (s : State) : Out :=
  let op := match aopOf f with
    | 0 => AtomOp.fadd
    | 1 => .fmin
    | _ => .fmax
  .next (s.atomic f op (atomSize f) (s.rs f.idx.toNat).toNat 0)

/-- CAS: compares with s[D], or the pair (R263, R264). -/
def execCas (f : MForm) (s : State) : Out :=
  .next (s.atomic f .cas (atomSize f) (s.rpair (pairOf f) f.idx.toNat) (s.rpair (pairOf f) f.d.toNat))

/-- AMAXR (R263, R264). -/
def execAmaxr (f : MForm) (s : State) : Out := .next (s.atomic f .swapZero (atomSize f) 0 0)

/-! ### Sync objects (R266 to R270) -/

/-- The length of a bound region: at most 2^40, ending at the last byte (R266, R267). -/
def clampLen (base len : Word) : Word := BitVec.ofNat 64 (min (min len.toNat (2 ^ 40)) (2 ^ 64 - base.toNat))

/-- The access of a sync object. -/
def objAccess : Access := ⟨.atomic, 8, true, false⟩

/-- BIND (R267, R268). -/
def execBind (f : MForm) (s : State) : Out :=
  let ea := s.eaOfs f 8
  .next (s.memForm f ea fun s =>
    s.withPlace objAccess ea fun _ s =>
      let base := s.ra f.d.toNat
      let len := clampLen base (s.rs f.idx.toNat)
      let b : Binding := ⟨normObj s.ctx.core ea, base, len, scopeOf f⟩
      if len = 0 || s.ctx.bindings.contains b then s
      else if 32 ≤ s.ctx.bindings.length then s.mapCtx fun c => { c with bovf := true }
      else s.mapCtx fun c => { c with bindings := c.bindings ++ [b] })

/-- UNBND (R267, R268). -/
def execUnbnd (f : MForm) (s : State) : Out :=
  let ea := s.eaOfs f 8
  .next (s.memForm f ea fun s =>
    s.withPlace objAccess ea fun _ s =>
      let obj := normObj s.ctx.core ea
      let base := s.ra f.d.toNat
      let len := clampLen base (s.rs f.idx.toNat)
      let all := (s.rs f.idx.toNat) == 0
      s.mapCtx fun c =>
        let bs := c.bindings.filter fun b => !(b.obj == obj && (all || (b.base == base && b.len == len)))
        { c with bindings := bs, bovf := c.bovf && !bs.isEmpty })

/-- ACQ asks for the object's value unless a request of it is under way; the answer ends the wait (R269). (DEDUCED, log 114) -/
def State.pollAcq (s : State) (id : Nat) (p : Place) (ea n : Word) (d : Nat) (scope : BitVec 3) : State :=
  if (s.reqs.any fun r => r.id == id) || (s.resps.any fun r => r.id == id) then s
  else
    let s := s.waitIn (.acq s.fresh p ea n d scope)
    s.send (s.newReq ea p (.read 8) scope none)

/-- ACQ (R269). (DEDUCED, log 114) -/
def execAcq (f : MForm) (s : State) : Out :=
  let ea := s.eaOfs f 8
  .next (s.memForm f ea fun s =>
    s.withPlace objAccess ea fun p s =>
      let s := { s with fresh := s.fresh + 1 }
      s.pollAcq (s.fresh - 1) p ea (s.rs f.idx.toNat) f.d.toNat (scopeOf f))

/-- REL (R270): its increment follows when its covered writes are performed; the S slot does not wait. (DEDUCED, log 115) -/
def execRel (f : MForm) (s : State) : Out :=
  let ea := s.eaOfs f 8
  .next (s.memForm f ea fun s =>
    s.withPlace objAccess ea fun p s =>
      let r := s.newReq ea p (.atom .add 8 8 1 0) (scopeOf f) none
      s.mapCtx fun c => { c with releases := c.releases ++ [.rel c.now.issue.start r s.snap] })

/-! ### Register-form fields (R271) -/

/-- Guard, D, the value that B or IMM gives, and SUB of an operation at 0x70 to 0x76 (R271). -/
def State.syncFields (s : State) (f : RI) : BitVec 5 × Bool × Nat × Word × Nat :=
  match f with
  | .r f => (f.pred, f.pneg, f.d.toNat, s.rs f.b.toNat, f.sub.toNat)
  | .i f => (f.pred, f.pneg, f.d.toNat, f.imm.setWidth 64, f.a.toNat * 16 + f.dt.toNat)

/-- FENCE completes when every access issued before its bundle is performed; its order takes effect then (R220, R272). (DEDUCED, log 116) -/
def State.pollFence (s : State) (scope : BitVec 3) : State :=
  let start := s.ctx.now.issue.start
  if s.accessesOpen start then s else (s.fenceAt scope.toNat start).endWait []

/-- FENCE (R272). -/
def execFence (f : RI) (s : State) : Out :=
  let (pred, pneg, _, _, sub) := s.syncFields f
  .next (s.guarded pred pneg fun s => (s.waitIn (.fence (BitVec.ofNat 3 sub))).pollFence (BitVec.ofNat 3 sub))

/-! ### Timeline counters (R273 to R275) -/

/-- POISON (R273). -/
def Counter.poison (t : Counter) : Nat := t.poisoned.headD 0

/-- DONE advanced over the verified and cleared numbers, at most `n` of them (R273). -/
def Counter.advance : Nat → Counter → Counter
  | 0, t => t
  | n + 1, t =>
    if t.early.contains (t.done + 1) then
      Counter.advance n { t with done := t.done + 1, early := t.early.filter fun x => x != t.done + 1 }
    else t

/-- Number `n` verified (R216). -/
def Counter.complete (t : Counter) (n : Nat) : Counter :=
  let t := { t with early := t.early ++ [n] }
  t.advance t.early.length

/-- A number placed into an ascending list. -/
def insertAsc (n : Nat) : List Nat → List Nat
  | [] => [n]
  | x :: xs => if n < x then n :: x :: xs else if n = x then x :: xs else x :: insertAsc n xs

/-- Number `n` poisoned (R241). -/
def Counter.fail (t : Counter) (n : Nat) : Counter := { t with poisoned := insertAsc n t.poisoned }

/-- The lowest poisoned number cleared (R275). -/
def Counter.clear (t : Counter) : Counter :=
  match t.poisoned with
  | [] => t
  | n :: ns => { t with poisoned := ns, record := none }.complete n

/-- A counter of the focused context changed. -/
def State.mapTc (s : State) (n : Nat) (f : Counter → Counter) : State :=
  s.mapCtx fun c => { c with tcs := c.tcs.setIfInBounds n (f (c.tcval n)) }

/-- The detail word of an engine-error trap (R313). -/
def waittlDetail (kind tc : Nat) : Word := BitVec.ofNat 64 (kind * 2 ^ 62 + tc)

/-- The test of WAITTL: complete, with the order of R216, trap, or wait (R274). -/
def State.pollWaittl (s : State) (tc : Nat) (n : Word) : State :=
  let t := s.ctx.tcval tc
  if n.toNat ≤ t.done then (s.acquireEngine tc n.toNat).endWait []
  else if t.poison != 0 && t.poison ≤ n.toNat then
    (s.endWait []).raise 0x09 0 (waittlDetail 0 tc) (BitVec.ofNat 64 t.poison)
  else if t.issued < n.toNat then (s.endWait []).raise 0x09 0 (waittlDetail 1 tc) n
  else s

/-- WAITTL (R274). -/
def execWaittl (f : RI) (s : State) : Out :=
  let (pred, pneg, _, n, sub) := s.syncFields f
  .next (s.guarded pred pneg fun s => (s.waitIn (.waittl (Bits.nfld sub 0 4) n)).pollWaittl (Bits.nfld sub 0 4) n)

/-- TLRD (R275). -/
def execTlrd (f : RI) (s : State) : Out :=
  let (pred, pneg, d, _, sub) := s.syncFields f
  .next (s.guarded pred pneg fun s =>
    let t := s.ctx.tcval (Bits.nfld sub 0 4)
    let v := match Bits.nfld sub 4 2 with
      | 0 => t.done
      | 1 => t.issued
      | _ => t.poison
    s.postReg 2 ⟨.s, d⟩ (BitVec.ofNat 64 v))

/-- TLRD with sel 3 (R275). (DEDUCED, log 146) -/
def execTlrdClear (f : RI) (s : State) : Out :=
  let (pred, pneg, d, _, sub) := s.syncFields f
  .next (s.guarded pred pneg fun s =>
    let n := Bits.nfld sub 0 4
    (s.postReg 2 ⟨.s, d⟩ (BitVec.ofNat 64 (s.ctx.tcval n).poison)).mapTc n Counter.clear)

/-! ### Team barriers (R276 to R279) -/

/-- The team of a context. -/
def Ctx.teamKey (c : Ctx) : Nat × Nat := (c.grid, c.team)

/-- A team barrier; one that nobody has used is all zero (R276). -/
def State.barrier (s : State) (team : Nat × Nat) (b : Nat) : Barrier :=
  (s.barriers.find? fun x => x.team == team && x.b == b).getD ⟨team, b, 0, 0, 0⟩

/-- One arrival: the barrier after it, and the phase arrived in (R276). -/
def Barrier.arrive (x : Barrier) (count size : Nat) : Barrier × Nat :=
  let c := count % 2 ^ 16
  let c := if c = 0 then size else c
  let k := if x.arrived = 0 then c else x.count
  if k ≤ x.arrived + 1 then ({ x with count := k, arrived := 0, phase := (x.phase + 1) % 2 ^ 64 }, x.phase)
  else ({ x with count := k, arrived := x.arrived + 1 }, x.phase)

/-- An arrival of the focused context on barrier `b` (R276), which releases writes at CLUSTER scope (R278): those that a bundle starting at issue
`start` covers with what was `known` to it, and for a gated one those of counter `tc` up to number `n` (R279). -/
def State.arrive (s : State) (b count start : Nat) (known : List Cover) (gate : Option (Nat × Nat)) : Nat × State :=
  let (x, ph) := (s.barrier s.ctx.teamKey b).arrive count s.ctx.teamSize
  let u := s.ctx.uid
  let engine := (s.history.filter fun w => gate.any fun g => match w.agent with
    | .engine v t k => v = u && t = g.1 && k ≤ g.2
    | _ => false).map Past.whole
  let s := s.release (.arrival s.ctx.teamKey b) ph (.ctx u) 1 (s.covered u start known ++ engine)
  (ph, { s with barriers := x :: s.barriers.filter fun y => !(y.team == x.team && y.b == b) })

/-- A wait of the focused context on phase `p` of barrier `b` is over: what the arrivals of that phase and those below released is ordered
before its accesses (R278). -/
def State.passed (s : State) (b p : Nat) : State := s.acquireGate (.arrival s.ctx.teamKey b) p fun _ => true

/-- The phase of a barrier of the focused context's team. -/
def State.phase (s : State) (b : Nat) : Nat := (s.barrier s.ctx.teamKey b).phase

/-- BAR: arrives once its release is performed, then waits for the phase to pass (R277, R278). -/
def State.pollBar (s : State) (b count d : Nat) (phase : Option Word) : State :=
  match phase with
  | some ph => if ph.toNat < s.phase b then (s.passed b ph.toNat).endWait [.reg ⟨.s, d⟩ ph] else s
  | none =>
    if s.writesOpen s.ctx.now.issue.start then s
    else
      let (ph, s) := s.arrive b count s.ctx.now.issue.start (s.knownTo (.ctx s.ctx.uid)) none
      let w := BitVec.ofNat 64 ph
      if ph < s.phase b then (s.passed b ph).endWait [.reg ⟨.s, d⟩ w] else s.waitIn (.bar b count d (some w))

/-- BAR (R277). -/
def execBar (f : RI) (s : State) : Out :=
  let (pred, pneg, d, v, sub) := s.syncFields f
  .next (s.guarded pred pneg fun s =>
    (s.waitIn (.bar (Bits.nfld sub 0 4) v.toNat d none)).pollBar (Bits.nfld sub 0 4) v.toNat d none)

/-- ARV, not gated (R277, R278): the arrival is made when its release is performed. -/
def execArv (f : RI) (s : State) : Out :=
  let (pred, pneg, d, v, sub) := s.syncFields f
  .next (s.guarded pred pneg fun s =>
    if s.landFree then
      let (id, s) := s.takeLanding 12 (some ⟨⟨.s, d⟩, 0, false⟩) none true
      s.mapCtx fun c =>
        { c with releases := c.releases ++ [.arv c.now.issue.start (Bits.nfld sub 0 4) v.toNat (some id) s.snap] }
    else s.stall)

/-- ARV, gated (R279). -/
def execArvGated (f : RForm) (s : State) : Out :=
  .next (s.guarded f.pred f.pneg fun s =>
    let m := Bits.fld f.sub 5 4
    let n := (s.rs f.c.toNat).toNat
    if (s.ctx.tcval m).issued < n then s
    else if 8 ≤ s.ctx.gated.length then s.stall
    else s.mapCtx fun c =>
      { c with gated := c.gated ++ [⟨Bits.fld f.sub 0 4, (s.rs f.b.toNat).toNat, m, n, c.now.issue.start, s.snap⟩] })

/-- WAITB's test (R277). -/
def State.pollWaitb (s : State) (b : Nat) (p : Word) : State := if p.toNat < s.phase b then (s.passed b p.toNat).endWait [] else s

/-- WAITB (R277). -/
def execWaitb (f : RI) (s : State) : Out :=
  let (pred, pneg, _, v, sub) := s.syncFields f
  .next (s.guarded pred pneg fun s => (s.waitIn (.waitb (Bits.nfld sub 0 4) v)).pollWaitb (Bits.nfld sub 0 4) v)

/-- The gated arrivals of the focused context that have their number or their poison (R279). -/
def State.settleGated (s : State) : State :=
  s.ctx.gated.foldl (fun s g =>
    let t := s.ctx.tcval g.tc
    let drop (s : State) := s.mapCtx fun c => { c with gated := c.gated.erase g }
    if t.poison != 0 && t.poison ≤ g.n then drop s
    else if g.n ≤ t.done && !s.writesOpen g.idx then ((drop s).arrive g.b g.count g.idx g.snap.known (some (g.tc, g.n))).2
    else s) s

/-! ### Supersteps (R62, R280) -/

/-- The scope codes as set levels. (DESIGN CHOICE, log 76) -/
def inSet (s : State) (c : Ctx) (level : Nat) (x : Ctx) : Bool :=
  match level with
  | 0 => x.uid == c.uid
  | 1 => x.grid == c.grid && x.team == c.team
  | 2 => x.grid == c.grid && (s.teams.any fun t => t.grid == x.grid && t.num == x.team &&
      (s.teams.any fun t' => t'.grid == c.grid && t'.num == c.team && t'.die == t.die))
  | 3 => x.grid == c.grid
  | _ => x.grid == c.grid || ((s.grids.find? fun g => g.id == c.grid).any fun g =>
      g.fgroup != 0 && (s.grids.any fun h => h.id == x.grid && h.fgroup == g.fgroup))

/-- SSTEP's count at a level. -/
def Ctx.sstepCount (c : Ctx) (level : Nat) : Nat := (c.ssteps[level]?).getD 0

/-- A context that ended counts as having issued every later SSTEP (R63). -/
def Run.over : Run → Bool
  | .halted | .stopped => true
  | _ => false

/-- The members of the set whose contexts are not yet placed: a team that has not run holds the superstep open (R62, R452).
(DESIGN CHOICE, log 76) -/
def State.unplaced (s : State) (c : Ctx) (level : Nat) : Bool :=
  s.teams.any fun t =>
    let same := match level with
      | 0 | 1 => false
      | 2 => t.grid == c.grid && (s.teams.any fun t' => t'.grid == c.grid && t'.num == c.team && t'.die == t.die)
      | 3 => t.grid == c.grid
      | _ => t.grid == c.grid || ((s.grids.find? fun g => g.id == c.grid).any fun g =>
          g.fgroup != 0 && (s.grids.any fun h => h.id == t.grid && h.fgroup == g.fgroup))
    same && !t.ended && !(s.allCtx.any fun x => x.run != .empty && x.grid == t.grid && x.team == t.num)

/-- The focused context's k-th SSTEP at a level is complete (R62, R63). -/
def State.sstepDone (s : State) (level k : Nat) : Bool :=
  level = 0 || (!(s.unplaced s.ctx level) && (s.allCtx.all fun x =>
    x.run == .empty || !(inSet s s.ctx level x) || x.run.over || k ≤ x.sstepCount level))

/-- SSTEP: issues its count once its release is performed; the completion is an event of its own, but for the CORE level
(R62, R280, R450). -/
def State.pollSstep (s : State) (level : BitVec 3) (k : Option Nat) : State :=
  match k with
  | some _ => s
  | none =>
    if s.writesOpen s.ctx.now.issue.start then s
    else
      let n := s.ctx.sstepCount level.toNat + 1
      let a : Agent := .ctx s.ctx.uid
      let s := (s.release (.step level.toNat) n a level.toNat (s.covered s.ctx.uid s.ctx.now.issue.start (s.knownTo a))).mapCtx fun c =>
        { c with ssteps := c.ssteps.setIfInBounds level.toNat n }
      if level = 0 then s.endWait [] else s.waitIn (.sstep level (some n))

/-- SSTEP (R280). -/
def execSstep (f : RI) (s : State) : Out :=
  let (_, _, _, _, sub) := s.syncFields f
  let level := BitVec.ofNat 3 sub
  .next ((s.waitIn (.sstep level none)).pollSstep level none)

/-- The release of what a member that is over did before, made again at a level for those that it leaves behind (R222). -/
def State.overRelease (s : State) (g : Gate) (level : Nat) (x : Ctx) : State :=
  s.release g 0 (.ctx x.uid) level (s.covered x.uid (x.pipe.count + 1) (s.knownTo (.ctx x.uid)))

/-- The focused context's k-th superstep at a level is complete: what the members of its set released with theirs, and what those that are
over did before, is ordered before its accesses, members of ended grids of its fabric group among them (R222). -/
def State.stepped (s : State) (level k : Nat) : State :=
  let members := s.allCtx.filter fun x => x.uid != s.ctx.uid && x.run != .empty && inSet s s.ctx level x
  let s := (members.filter fun x => x.run.over).foldl (fun s x => s.overRelease (.step level) level x) s
  let s := s.acquireGate (.step level) k fun a => members.any fun x => a == .ctx x.uid
  match if level = 4 then s.grids.find? fun g => g.id == s.ctx.grid && g.fgroup != 0 else none with
  | some g => s.acquireGate (.ended g.fgroup) 0 fun _ => true
  | none => s

/-- SSTEP_COMPLETION (R62, R222): the focused context's wait at the level ends once every member has issued its SSTEP or is
over. -/
def execSstepCompletion (level : BitVec 3) (s : State) : Out :=
  match (s.ctx.slot 0).wait with
  | some (.sstep l (some k)) =>
    if l = level && s.sstepDone level.toNat k then .next ((s.stepped level.toNat k).finishWait 0 []) else .next s
  | _ => .next s

/-! ### Completion-interrupt arms (R281) -/

/-- The condition of an arm holds, and whether by poison (R281). -/
def State.armHolds (s : State) (a : Arm) : Bool × Bool :=
  if a.kind then (a.n.toNat < s.phase a.num, false)
  else
    let t := s.ctx.tcval a.num
    let pois := t.poison != 0 && t.poison ≤ a.n.toNat
    (a.n.toNat ≤ t.done || pois, pois && !(a.n.toNat ≤ t.done))

/-- The arms of the focused context whose condition holds fire, which latches WFE event 0 (R281, R339). -/
def State.settleArms (s : State) : State :=
  let arms := s.ctx.arms.map fun a => a.map fun a =>
    if a.fired then a else
      let (h, p) := s.armHolds a
      if h then { a with fired := true, pois := p } else a
  let fires := (List.zipWith (fun (a b : Option Arm) => a != b) s.ctx.arms arms).any id
  s.mapCtx fun c => { c with arms := arms, wfeLatch := if fires then c.wfeLatch ||| 1 else c.wfeLatch }

/-- An arm set in a free entry, that of the lowest number (DEDUCED, log 144); a ninth stalls the slot (R281). -/
def State.arm (s : State) (a : Arm) : State :=
  match s.ctx.arms.findIdx? Option.isNone with
  | none => s.stall
  | some i => (s.mapCtx fun c => { c with arms := c.arms.set i (some a) }).settleArms

/-- WAITTL with ARM = 1 (R281). -/
def execWaittlArm (f : RI) (s : State) : Out :=
  let (pred, pneg, _, n, sub) := s.syncFields f
  .next (s.guarded pred pneg fun s => s.arm ⟨false, Bits.nfld sub 0 4, n, false, false⟩)

/-- WAITB with ARM = 1 (R281). -/
def execWaitbArm (f : RI) (s : State) : Out :=
  let (pred, pneg, _, p, sub) := s.syncFields f
  .next (s.guarded pred pneg fun s => s.arm ⟨true, Bits.nfld sub 0 4, p, false, false⟩)

end Sys2Proof.Machine
end

