-- ==== Sys2Proof/Machine/Tickets.lean ====
section
/-! DEFINITION. Routes of the torus (R398), RATOM (R408 to R411) and the ticket instructions (R412 to R417). -/

namespace Sys2Proof.Machine

/-! ### Routes (R398) -/

/-- The coordinates of a domain die: x, y, z (R26). -/
def dieXYZ (n : Nat) : Nat × Nat × Nat := (n % 8, n / 8 % 8, n / 64)

/-- The domain die of coordinates. -/
def dieOf (x y z : Nat) : Nat := x + 8 * y + 64 * z

/-- The nodes of the ring of a dimension: 0 X, 1 Y, 2 Z. -/
def State.ring (s : State) (dim : Nat) : Nat :=
  match dim with
  | 0 => 2 * s.dims.1
  | 1 => 2 * s.dims.2.1
  | _ => s.dims.2.2

/-- A die's coordinate in a dimension. -/
def coordOf (n dim : Nat) : Nat :=
  match dim with
  | 0 => (dieXYZ n).1
  | 1 => (dieXYZ n).2.1
  | _ => (dieXYZ n).2.2

/-- The die with one coordinate replaced. -/
def withCoord (n dim c : Nat) : Nat :=
  let (x, y, z) := dieXYZ n
  match dim with
  | 0 => dieOf c y z
  | 1 => dieOf x c z
  | _ => dieOf x y c

/-- The direction code of a dimension and sign (R27). -/
def dirOf (dim : Nat) (plus : Bool) : BitVec 3 := BitVec.ofNat 3 (2 * dim + if plus then 0 else 1)

/-- The die that a link end leads to. In an X or Y ring of two nodes both signs name the one link (R398). -/
def State.neighbour (s : State) (n dim : Nat) (plus : Bool) : Nat :=
  let r := s.ring dim
  let c := coordOf n dim
  withCoord n dim (if plus then (c + 1) % r else (c + r - 1) % r)

/-- The end at which a die holds the link of a direction: in an X or Y ring of two nodes the even die holds the plus end and
the odd die the minus end of the one link. -/
def State.endOf (s : State) (n dim : Nat) (plus : Bool) : LinkRef :=
  let plus := if dim < 2 && s.ring dim = 2 then coordOf n dim % 2 = 0 else plus
  ⟨BitVec.ofNat 8 n, dirOf dim plus⟩

/-- A link end that has gone down, of this package or of another (R28, R398). -/
def State.endDown (s : State) (r : LinkRef) : Bool := (s.links.any fun l => l.ref == r && !l.up) || s.farDown.contains r

/-- The link of a die in a direction is up at both of its ends. -/
def State.linkUp (s : State) (n dim : Nat) (plus : Bool) : Bool :=
  let m := s.neighbour n dim plus
  !s.endDown (s.endOf n dim plus) && !s.endDown (s.endOf m dim (!plus))

/-- Every link of `k` steps in a direction is up. -/
def State.runUp (s : State) (dim : Nat) (plus : Bool) : Nat → Nat → Bool
  | 0, _ => true
  | k + 1, n => s.linkUp n dim plus && s.runUp dim plus k (s.neighbour n dim plus)

/-- The direction a message takes in one dimension, `none` when no direction is open; `some none` when it need not move
(R398). -/
def State.dimDir (s : State) (n t dim : Nat) : Option (Option Bool) :=
  let r := s.ring dim
  let d := (coordOf t dim + r - coordOf n dim % r) % r
  if d = 0 then some none
  else
    let plus := decide (d ≤ r - d)
    let len (p : Bool) := if p then d else r - d
    if s.runUp dim plus (len plus) n then some (some plus)
    else if s.runUp dim (!plus) (len (!plus)) n then some (some (!plus))
    else none

/-- The first direction of the route from one die to another: `none` when the target is unreachable, `some none` for the die
itself (R398). (DEDUCED, log 93) -/
def State.route (s : State) (src dst : Nat) : Option (Option (BitVec 3)) :=
  let n1 := withCoord src 0 (coordOf dst 0)
  let n2 := withCoord n1 1 (coordOf dst 1)
  match s.dimDir src dst 0, s.dimDir n1 dst 1, s.dimDir n2 dst 2 with
  | some x, some y, some z =>
    some (match x, y, z with
      | some p, _, _ => some (dirOf 0 p)
      | none, some p, _ => some (dirOf 1 p)
      | none, none, some p => some (dirOf 2 p)
      | none, none, none => none)
  | _, _, _ => none

/-- The target die can be reached. -/
def State.reachable (s : State) (src dst : Nat) : Bool := (s.route src dst).isSome

/-! ### RATOM (R408 to R411) -/

/-- The address lies in the window of RWIN (R407, R410). -/
def inRwin (rwin : Word) (va : Nat) : Bool :=
  let lg := Bits.fld rwin 54 6
  lg != 0 && va >>> lg == (Bits.fld rwin 16 32 * 2 ^ 16) >>> lg

/-- The operation of a RATOM (R408). -/
def ratomOp (f : MForm) : AtomOp :=
  if 9 ≤ f.dt.toNat then
    (match aopOf f with
    | 0 => .fadd
    | 1 => .fmin
    | _ => .fmax)
  else
    match aopOf f with
    | 0 => .add
    | 1 => .and
    | 2 => .or
    | 3 => .xor
    | 4 => .min
    | _ => .max

/-- A checked access that accepts only remote pointers (R408, R413). -/
def State.withRemote (s : State) (x : Access) (ea : Word) (act : Place → State → State) : State :=
  if spaceOf ea != .remote then s.raise 0x24 0 0 ea else s.withPlace x ea act

/-- RATOM (R408, R409): at most 64 not yet acknowledged; sent at its due cycle. (DEDUCED, log 113) -/
def execRatom (f : MForm) (s : State) : Out :=
  let n := accSize f.dt.toNat
  let ea := s.eaOfs f n
  .next (s.memForm f ea fun s =>
    s.withRemote ⟨.atomic, n, true, false⟩ ea fun p s =>
      if 64 ≤ s.ctx.ratoms then s.stall
      else
        let r := s.newReq ea p (.atom (ratomOp f) f.dt.toNat n ((s.rs f.d.toNat).toNat % 2 ^ (8 * n)) 0) 4 none
        let r := { r with ratom := true, mergeable := inRwin s.ctx.rwin (Bits.fld ea 0 48), hold := Bits.fld s.ctx.rwin 48 6 }
        (s.post 5 [] (some (.send r))).mapCtx fun c => { c with ratoms := c.ratoms + 1 })

/-! ### Tickets (R412 to R417) -/

/-- The entry of a die's ticket table (R412). -/
def State.ticket (s : State) (die entry : Nat) : TicketEntry :=
  (s.tickets.find? fun t => t.die == die && t.entry == entry).getD ⟨die, entry, 0, false, []⟩

/-- An entry of a ticket table replaced. -/
def State.setTicket (s : State) (t : TicketEntry) : State :=
  { s with tickets := t :: s.tickets.filter fun u => !(u.die == t.die && u.entry == t.entry) }

/-- The handle of a ticket (R412). -/
def TicketEntry.handle (t : TicketEntry) : Word := BitVec.ofNat 64 (2 ^ 63 + t.gen.toNat * 2 ^ 32 + t.entry % 1024)

/-- The entry a handle names. -/
def State.ticketOf (s : State) (die : Nat) (h : Word) : TicketEntry := s.ticket die (Bits.fld h 0 10)

/-- The handle is valid and its ticket is pending; another generation names a landed ticket (R412). -/
def State.ticketPending (s : State) (die : Nat) (h : Word) : Bool :=
  let t := s.ticketOf die h
  h.getLsbD 63 && t.pending && t.gen.toNat == Bits.fld h 32 16

/-- RSTK (R413, R414). (DEDUCED, log 147) -/
def execRstk (f : MForm) (s : State) : Out :=
  let t := f.dt.toNat
  let n := accSize t
  let ea := s.eaOfs f n
  .next (s.memForm f ea fun s =>
    s.withRemote ⟨.write, n, false, false⟩ ea fun p s =>
      match (List.range 1024).find? fun e => !(s.ticket s.ddie e).pending with
      | none => s.stall
      | some e =>
        let u := { s.ticket s.ddie e with pending := true, dests := [] }
        let s := s.setTicket u
        let r := s.newReq ea p (.write (Bits.natLe n (s.storeVal t f.d.toNat).toNat)) 4 none
        (s.postReg 1 ⟨.k, f.idx.toNat⟩ u.handle).post 5 [] (some (.send { r with ticket := some u.handle })))

/-- The valid handles that KMASK names (R413). -/
def State.kmaskHandles (s : State) (mask : Nat) : List Word :=
  ((List.range 16).filter fun i => mask.testBit i).map (fun i => s.rk i) |>.filter fun h => h.getLsbD 63

/-- RSTD (R413, R414). -/
def execRstd (f : MForm) (s : State) : Out :=
  let t := f.dt.toNat
  let n := accSize t
  let ea := s.eaBase f n
  .next (s.memForm f ea fun s =>
    s.withRemote ⟨.write, n, false, false⟩ ea fun p s =>
      let r := s.newReq ea p (.write (Bits.natLe n (s.storeVal t f.d.toNat).toNat)) 4 none
      s.post 5 [] (some (.send { r with isRstd := true, kmask := s.kmaskHandles (Bits.fld f.disp 1 16) })))

/-- The handles of the range of TKWT, TKRD and TKCLR (R417). -/
def handleRange (f : RForm) : List Nat := (List.range (Bits.fld f.sub 0 4 + 1)).map fun i => f.a.toNat + i

/-- TKWT's test (R417). -/
def State.pollTkwt (s : State) (hs : List Word) : State := if hs.any (s.ticketPending s.ddie) then s else s.endWait []

/-- TKWT (R417). -/
def execTkwt (f : RForm) (s : State) : Out :=
  .next (s.guarded f.pred f.pneg fun s =>
    let hs := (handleRange f).map fun i => s.rk i
    (s.waitIn (.tkwt hs)).pollTkwt hs)

/-- TKRD (R417). -/
def execTkrd (f : RForm) (s : State) : Out :=
  .next (s.guarded f.pred f.pneg fun s =>
    let h := s.rk f.a.toNat
    s.postReg 2 ⟨.s, f.d.toNat⟩ (if !h.getLsbD 63 then 0 else if s.ticketPending s.ddie h then 1 else 2))

/-- TKCLR (R417). -/
def execTkclr (f : RForm) (s : State) : Out :=
  .next (s.guarded f.pred f.pneg fun s => s.post 1 ((handleRange f).map fun i => Eff.reg ⟨.k, i⟩ 0))

end Sys2Proof.Machine
end

