-- ==== Sys2Proof/Machine/Errors.lean ====
section
/-! DEFINITION. Poisoned granules (R446, R447), the error counters (R448), and EVSTAT with its vector (R435). -/

namespace Sys2Proof.Machine

/-- Bytes copied with the poison that lies on them: granule by granule of the destination. -/
def State.copyPoison (s : State) (src dst len : Nat) : State :=
  if s.poison = [] then s
  else (List.range ((len + 7) / 8)).foldl (fun s i =>
    if s.poisoned (src + 8 * i) (min 8 (len - 8 * i)) then s.poisonAt (dst + 8 * i) else s) s

/-- Event bits set in EVSTAT; vector 0 fires when EVSTAT AND EVEN becomes nonzero (R435). (DESIGN CHOICE, log 108) -/
def State.setEvent (s : State) (bits : Word) : State :=
  let ev := s.evstat ||| bits
  let fires := s.evstat &&& s.even == 0 && ev &&& s.even != 0
  { s with evstat := ev, msix := if fires then s.msix + 1 else s.msix }

/-- The counts of a die and kind: corrected, uncorrected (R448). -/
def State.errCounts (s : State) (die kind : Nat) : Nat × Nat := (s.errCount.lookup (die, kind)).getD (0, 0)

/-- The counts of a die and kind replaced. -/
def State.setErrCounts (s : State) (die kind : Nat) (v : Nat × Nat) : State :=
  { s with errCount := ((die, kind), v) :: s.errCount.filter fun e => e.1 != (die, kind) }

/-- A saturating 32-bit count (R448). -/
def satInc (n : Nat) : Nat := min (n + 1) (2 ^ 32 - 1)

/-- A corrected error, a deadline miss or a link replay counted (R448). -/
def State.countCorr (s : State) (die kind : Nat) : State :=
  let (c, u) := s.errCounts die kind
  s.setErrCounts die kind (satInc c, u)

/-- An uncorrectable error counted; the first of a counter sets EVSTAT.UE (R448). (DEDUCED, log 43) -/
def State.countUncorr (s : State) (die kind : Nat) : State :=
  let (c, u) := s.errCounts die kind
  let s := s.setErrCounts die kind (c, satInc u)
  if u = 0 then s.setEvent 2 else s

end Sys2Proof.Machine
end

