-- ==== Sys2Proof/Machine/Matrix.lean ====
section
/-! DEFINITION. The M and Q slots: tray slots and TLD (R285 to R290), the matrix array (R291 to R300), MST (R301, R302), edge
scale latches (R293 to R295), power permits (R304) and chain contraction (R305 to R312). -/

namespace Sys2Proof.Machine

/-! ### Tray slots (R285 to R288) -/

/-- A tray slot header. -/
def Ctx.head (c : Ctx) (i : Nat) : TrayHead := (c.trayHeads[i]?).getD ⟨0, 15, 0⟩

/-- A tray slot header changed. -/
def Ctx.mapHead (c : Ctx) (i : Nat) (f : TrayHead → TrayHead) : Ctx :=
  { c with trayHeads := c.trayHeads.setIfInBounds i (f (c.head i)) }

/-- The slot a valid handle names. -/
def handleSlot (h : Word) : Option Nat := if h.getLsbD 7 then some (Bits.fld h 0 4) else none

/-- A result in flight reads or fills the tray slot. -/
def Flight.usesTray (i : Nat) (f : Flight) : Bool :=
  match f.mem with
  | some (.tld j _ _ _) => j == i
  | some (.tcon t _) => t.slot == i
  | _ => false

/-- Some operation issued and not finished reads or fills the tray slot (R288); one captured at a trap entry is not finished (R316). -/
def State.trayInUse (s : State) (i : Nat) : Bool :=
  (s.ctx.array.any fun a => a.form.isSome && (a.slotA == i || a.slotB == i)) ||
  (s.ctx.chain.any fun c => c.steps.any fun t => t.slot == i) ||
  ((s.ctx.slot 3).flights.any (Flight.usesTray i)) ||
  (s.ctx.trapped.any fun t => t.1.slots.any fun x => x.flights.any (Flight.usesTray i)) ||
  (s.cmds.any fun c => c.uid == s.ctx.uid && c.tray == some i)

/-- Releasing slots that nothing uses become free (R288). -/
def State.settleTray (s : State) : State :=
  (List.range 16).foldl (fun s i =>
    if (s.ctx.head i).state = 2 && !s.trayInUse i then s.mapCtx fun c => c.mapHead i fun h => { h with state := 0 } else s) s

/-- A claimed slot becomes releasing (R288). -/
def Ctx.releaseSlot (c : Ctx) (i : Nat) : Ctx := c.mapHead i fun h => if h.state = 1 then { h with state := 2 } else h

/-- TCLM claims the lowest free slot, or waits (R287). -/
def State.pollTclm (s : State) (d : Nat) : State :=
  let s := s.settleTray
  match (List.range 16).find? fun i => (s.ctx.head i).state = 0 with
  | none => s
  | some i =>
    ((s.mapCtx fun c => c.mapHead i fun _ => ⟨1, 15, 0⟩).endWait []).postReg 1 ⟨.ts, d⟩ (BitVec.ofNat 64 (128 + i))

/-- TCLM (R287). -/
def execTclm (f : RForm) (s : State) : Out :=
  .next (s.guarded f.pred f.pneg fun s =>
    let d := f.d.toNat
    let s := match handleSlot (s.rts d) with
      | some i => s.mapCtx fun c => c.releaseSlot i
      | none => s
    (s.waitIn (.tclm d)).pollTclm d)

/-- TRLS (R288). -/
def execTrls (f : RForm) (s : State) : Out :=
  .next (s.guarded f.pred f.pneg fun s =>
    match handleSlot (s.rts f.d.toNat) with
    | none => s
    | some i => s.post 1 [.reg ⟨.ts, f.d.toNat⟩ 0, .release i])

/-- The detail word of the tray-check trap (R290). (DEDUCED, log 38) -/
def trayDetail (kind where' handle swx : Nat) (h : TrayHead) (need : Nat) : Word :=
  BitVec.ofNat 64 (kind * 2 ^ 61 + where' * 2 ^ 56 + handle * 2 ^ 52 + swx * 2 ^ 48 + h.swz.toNat * 2 ^ 44 + h.len * 2 ^ 29 +
    need % 2 ^ 15 * 2 ^ 14)

/-- The check of an operand's header that fails first, by its KIND (R297). -/
def trayKind (valid : Bool) (h : TrayHead) (swx need : Nat) : Option Nat :=
  if !valid then some 3
  else if h.swz = 15 then some 1
  else if h.swz.toNat != swx then some 0
  else if h.len < need then some 2
  else none

/-- The tray check of one operand: the detail word of its failure (R290, R297). -/
def State.trayCheck (s : State) (where' handle swx need : Nat) : Option Word :=
  let v := s.rts handle
  let h := s.ctx.head (Bits.fld v 0 4)
  (trayKind (v.getLsbD 7) h swx need).map fun k => trayDetail k where' handle swx h need

/-! ### Edge scale latches (R293, R294) -/

/-- A latch set whose every byte is `b`. -/
def latchAll (b : Nat) : Latch := BitVec.ofNat 512 ((List.range 64).foldl (fun acc _ => acc * 256 + b % 256) 0)

/-- QLD (R294). (DEDUCED, log 43) -/
def execQld (f : MForm) (s : State) : Out :=
  let ea := s.eaStd f 64
  .next (s.memForm f ea fun s =>
    s.withPlace ⟨.read, 64, false, true⟩ (ea &&& ~~~3) fun p s =>
      let off := s.pocketOff p
      if f.chk && !s.ctx.tilesFull off 64 then s.stall else s.post 6 [] (some (.qld f.d.toNat off)))

/-- QSET (R294). -/
def execQset (f : RI) (s : State) : Out :=
  .next (match f with
    | .r f => s.guarded f.pred f.pneg fun s => s.post 2 [.latch f.d.toNat (latchAll (s.rs f.a.toNat).toNat) []]
    | .i f => s.guarded f.pred f.pneg fun s => s.post 2 [.latch f.d.toNat (latchAll f.imm.toNat) []])

/-- The exponent of a scale byte; none is NaN (R293). -/
def scaleExp (b : Nat) : Option Int := if b = 255 then none else some ((b : Int) - 127)

/-! ### Power permits (R304, R427) -/

/-- PRMST.HELD (R430). -/
def Ctx.heldClass (c : Ctx) : Nat := Bits.fld c.prmst 0 2

/-- The permit check: `act` when the held class suffices, else the permit trap (R304, R427). -/
def State.permitted (s : State) (need : Nat) (act : State → State) : State :=
  if s.ctx.heldClass < need then s.raise 0x0A 1 (BitVec.ofNat 64 (need + s.ctx.heldClass * 4)) else act s

/-! ### Accumulator tiles -/

/-- The value history of a tile. -/
def Ctx.tileHist (c : Ctx) (z : Nat) : TileHist := (c.hist.find? fun h => h.tile == z).getD ⟨z, 0, 0, 0, 0, []⟩

/-- The history of a tile replaced. -/
def Ctx.setHist (c : Ctx) (h : TileHist) : Ctx := { c with hist := h :: c.hist.filter fun g => g.tile != h.tile }

/-- An array operation that writes tile `z` begins at M time `t`: it passes through `n` values after the incoming one, and former
values that no MST can still read are dropped (R77, R300). (DESIGN CHOICE, log 102) -/
def Ctx.beginTile (c : Ctx) (z n t : Nat) : Ctx :=
  let h := c.tileHist z
  c.setHist { h with lo := h.count, len := n + 1, since := t + 1, vals := h.vals.filter fun v => t < v.2.1 + 288 }

/-- Tile `z` takes its next value. (DESIGN CHOICE, log 102) -/
def Ctx.stepTile (c : Ctx) (z : Nat) (v : Tile) : Ctx :=
  let h := c.tileHist z
  let t := (c.slot 3).time
  { (c.cleanReg ⟨.z, z⟩ fun _ => true).setHist { h with count := h.count + 1, vals := (h.count, t, c.zval z) :: h.vals } with zreg := c.zreg.setIfInBounds z v }

/-- Value number `i` of tile `z`. -/
def Ctx.tileValue (c : Ctx) (z i : Nat) : Tile :=
  match (c.tileHist z).vals.find? fun v => v.1 == i with
  | some v => v.2.2
  | none => c.zval z

/-- The elements of one row. -/
def rowElems (v : Vec) : List Nat := elems v 32

/-- A tile from its elements. -/
def tileOf (f : Nat → Nat → Nat) : Tile :=
  Vector.ofFn fun m => packElems 32 ((List.range 64).map fun n => f m.val n)

/-- A z tile as an array operation reads it: NaN in every poisoned element (R303). A row has 32 words of two elements. (DEDUCED, log 133) -/
def Ctx.arrayTile (c : Ctx) (z : Nat) : Tile :=
  if c.rpoison.any fun p => p.1 == ⟨.z, z⟩ then
    Vector.ofFn fun m => packElems 32 (((rowElems (((c.zval z)[m.val]?).getD 0)).zipIdx).map fun x =>
      if c.rpoison.contains (⟨.z, z⟩, 32 * m.val + x.2 / 2) then Fp.f32.canonNaN else x.1)
  else c.zval z

/-- An element of a tile. -/
def tileAt (t : Tile) (m n : Nat) : Nat := Bits.elem ((t[m]?).getD 0) 32 n

/-- The array, or a running TCHN, is busy (R77, R311). -/
def Ctx.arrayBusy (c : Ctx) : Bool := c.array.isSome || c.chain.isSome

/-- The array is occupied by an operation. -/
def State.occupy (s : State) (j : ArrayJob) : State := s.mapCtx fun c => { c with array := some j }

/-! ### MMA and MMAS (R291 to R298) -/

/-- The storage width of an array element type (R291). -/
def arrayWidth (t : Nat) : Nat := if 12 ≤ t then narrowWidth t else elemWidth t

/-- The elements of one MMA vector: K (R291). -/
def arrayK (t : Nat) : Nat :=
  match Legality.arrayClass t with
  | 1 => 64
  | 2 => 128
  | _ => 256

/-- The bytes of a vector: VB (R291). -/
def vecBytes (t : Nat) : Nat := arrayK t * arrayWidth t / 8

/-- An operand of an array operation as a block reads it. -/
structure Operand where
  slot : Nat
  ty : Nat
  panel : Nat
  vb : Nat
  swz : Nat
  deriving DecidableEq, Repr

/-- The slot byte at which byte `b` of vector `r` stands (R292). -/
def Operand.at (o : Operand) (r b : Nat) : Nat :=
  let u := b / 32
  8192 * o.panel + r * o.vb + 32 * (if o.swz = 0 then u else (u + r) % (o.vb / 32)) + b % 32

/-- Elements `lo` to `lo + n - 1` of vector `r` as an access of origin `u` sees them, exact values under their block scale, NaN where poisoned
(R292, R299, R303). -/
def State.vecElems (s : State) (u : Origin) (o : Operand) (r lo n : Nat) : List Fp.FVal :=
  let key := trayKey s.ctx.core o.slot 0
  let w := arrayWidth o.ty
  let b0 := w * lo / 8
  let b1 := (w * (lo + n) + 7) / 8
  let plain := s.plainly u
  let byte (k : Nat) : Byte := if plain then Mem.byte s.mem k else (s.see u 1 k 1).headD 0
  let x := Bits.leNat ((List.range (b1 - b0)).map fun i => byte (key + o.at r (b0 + i)))
  let sk := key + 8192 + 8 * r + lo / 32
  let sc := (byte sk).toNat
  (List.range n).map fun i =>
    let e := lo + i
    let p := Bits.nfld x (w * e - 8 * b0) w
    let bad := s.poison != [] && ((List.range ((w * e + w - 1) / 8 - w * e / 8 + 1)).any fun k =>
      s.poisoned (key + o.at r (w * e / 8 + k)) 1)
    if bad || (o.ty = 17 && s.poisoned sk 1) then .nan false
    else if o.ty = 17 then Fp.n4 sc p
    else elemVal o.ty p

/-- A latch set as an array operation reads it at a block's entry (R295): what it captured, when it replays (R319); in the exact case what
the Q slot's writes have left; else what slot M may read (R78). (DEDUCED, log 43) -/
def Ctx.latchOf (c : Ctx) (j : ArrayJob) (set : Nat) : Latch :=
  match j.caps.lookup ⟨.sl, set⟩ with
  | some v => v.setWidth 512
  | none =>
    if j.qtime = some ((c.slot 4).time - j.age) && j.age ≤ (c.slot 4).time then c.slval set
    else ((c.oldRead 3 ⟨.sl, set⟩).map fun v => v.setWidth 512).getD (c.slval set)

/-- The exponent that a latch set gives vector `r`, 0 without SCL; none is NaN, as where the byte is poisoned (R293, R297, R303).
(DEDUCED, log 133) (DEDUCED, log 43) -/
def Ctx.latchScale (c : Ctx) (j : ArrayJob) (scl : Bool) (set r : Nat) : Option Int :=
  if !scl then some 0
  else if j.caps = [] && c.rpoison.contains (⟨.sl, set⟩, r / 8) then none
  else scaleExp (Bits.fld (c.latchOf j set) (8 * r) 8)

/-- The operands of an MMA or MMAS. -/
def operandA (f : RForm) (slot : Nat) : Operand :=
  ⟨slot, f.dt.toNat, Bits.fld f.sub 0 1, vecBytes f.dt.toNat, Bits.fld f.sub 2 4⟩
/-- Operand B. -/
def operandB (f : RForm) (sparse : Bool) (slot : Nat) : Operand :=
  ⟨slot, f.st.toNat, Bits.fld f.sub 1 1, vecBytes f.st.toNat * (if sparse then 2 else 1), Bits.fld f.sub 6 4⟩

/-- The dense positions of block `j` that stored elements of A fill, each with the element's number in the vector and its position
in the block (R298). -/
def keptPairs (w : Word) (j : Nat) : List (Nat × Nat) :=
  (List.range 8).flatMap fun i =>
    let g := 8 * j + i
    let m := Bits.fld w (4 * (g % 16)) 4
    let kept := ((List.range 4).filter m.testBit).take 2
    (kept.zipIdx).map fun x => (2 * i + x.2, 4 * i + x.1)

/-- The next block of an MMA or MMAS: the tile after it (R52, R297, R298). -/
def State.mmaBlock (s : State) (f : RForm) (sparse : Bool) (job : ArrayJob) : Tile :=
  let a := operandA f job.slotA
  let b := operandB f sparse job.slotB
  let j := job.block
  let scl := f.c.getLsbD 0
  let u := s.originOf job.idx 3
  let rows := (List.range 64).map fun m =>
    (s.ctx.latchScale job scl (Bits.fld f.c 1 1) m, if sparse then s.vecElems u a m (16 * j) 16 else s.vecElems u a m (32 * j) 32)
  let cols := (List.range 64).map fun n => (s.ctx.latchScale job scl (2 + Bits.fld f.c 2 1) n, s.vecElems u b n (32 * j) 32)
  let kept := keptPairs job.metaWord j
  let old := s.ctx.arrayTile f.d.toNat
  let block (x y : Option Int × List Fp.FVal) : Fp.Block :=
    match x.1, y.1 with
    | some ea, some eb =>
      let ps := if sparse then kept.map fun k => (x.2.getD k.1 (.fin false 0 0), y.2.getD k.2 (.fin false 0 0))
        else List.zip x.2 y.2
      (match Fp.blockSum ps with
        | .sum i e => .sum i (e + ea + eb)
        | b => b)
    | _, _ => .nan
  Vector.ofFn fun m =>
    packElems 32 (List.zipWith (fun acc y => Fp.accumulate acc (block (rows.getD m.val (none, [])) y))
      (rowElems ((old[m.val]?).getD 0)) cols)

/-- The blocks of an MMA, or the dense blocks of an MMAS. -/
def blockCount (f : RForm) (sparse : Bool) : Nat := arrayK f.dt.toNat / 32 * (if sparse then 2 else 1)

/-- The block that is due enters the array, with the latch sets and operand bytes of this moment (R295, R299). -/
def State.enterBlock (s : State) : State :=
  match s.ctx.array with
  | some j =>
    (match j.form with
      | some (f, sparse) =>
        let z := f.d.toNat
        let s := if j.block = 0 && f.c.getLsbD 3 then
            s.mapCtx fun c => { c.cleanReg ⟨.z, z⟩ fun _ => true with zreg := c.zreg.setIfInBounds z (Vector.replicate 64 0) } else s
        let t := s.mmaBlock f sparse j
        s.mapCtx fun c => { c.stepTile z t with array := some { j with block := j.block + 1 } }
      | none => s)
  | none => s

/-- Every block due at the array operation's age enters: one each 8 cycles, for MMAS two (R295). -/
def State.enterDue (s : State) : State :=
  match s.ctx.array with
  | some j =>
    (match j.form with
      | some (f, sparse) =>
        if j.age % 8 != 0 || blockCount f sparse ≤ j.block then s
        else if sparse then s.enterBlock.enterBlock
        else s.enterBlock
      | none => s)
  | none => s

/-- The Q time at which Q consumes the executing bundle, where its SYNC names M and Q (R295). -/
def State.syncedQ (s : State) : Option Nat :=
  let i := s.ctx.now.issue
  let q := s.ctx.slot 4
  if i.sync.getLsbD 3 && i.sync.getLsbD 4 then some (if i.idx < q.pos then q.time - 1 else q.time) else none

/-- An array operation of the executing slot on whole tiles. -/
def State.tileJob (s : State) (cycles : Nat) : ArrayJob :=
  { form := none, metaWord := 0, idx := s.ctx.now.issue.idx, qtime := none, caps := [], slotA := 0, slotB := 0, block := 0, age := 0, total := cycles }

/-- MMA and MMAS at issue: permit, tray checks, a busy array, then the first block (R295 to R298, R304). -/
def State.mma (s : State) (f : RForm) (sparse : Bool) : State :=
  s.guarded f.pred f.pneg fun s =>
    s.permitted (max (Legality.arrayClass f.dt.toNat) (Legality.arrayClass f.st.toNat)) fun s =>
      let need (o : Operand) : Nat := if o.ty = 17 then 8704 else 8192 * o.panel + 64 * o.vb
      let a := operandA f (Bits.fld (s.rts f.a.toNat) 0 4)
      let b := operandB f sparse (Bits.fld (s.rts f.b.toNat) 0 4)
      if s.ctx.arrayBusy then s.stall
      else
        match s.trayCheck 0 f.a.toNat a.swz (need a), s.trayCheck 1 f.b.toNat b.swz (need b) with
        | some w, _ => s.raise 0x07 0 w
        | none, some w => s.raise 0x07 0 w
        | none, none =>
          let caps := ((s.ctx.now.cap.map Capture.regs).getD []).filter fun e => e.1.file == .sl
          let j : ArrayJob :=
            { s.tileJob 64 with
              form := some (f, sparse), metaWord := s.ctx.now.issue.metaWord.getD 0, qtime := s.syncedQ, caps := caps, slotA := a.slot, slotB := b.slot }
          let s := s.when s.ctx.now.cap.isSome fun s => s.mapCtx fun c =>
            { c.cleanReg ⟨.z, f.d.toNat⟩ fun _ => true with zreg := c.zreg.setIfInBounds f.d.toNat (s.rz f.d.toNat) }
          ((s.mapCtx fun c => c.beginTile f.d.toNat (blockCount f sparse) (c.slot 3).time).occupy j).enterDue

/-- MMA (R296, R297). -/
def execMma (f : RForm) (s : State) : Out := .next (s.mma f false)
/-- MMAS (R298). -/
def execMmas (f : RForm) (s : State) : Out := .next (s.mma f true)

/-- An operation on whole z tiles (R300): its result stands when the array has taken it. -/
def State.tileOp (s : State) (f : RForm) (cycles : Nat) (r : State → Tile) : State :=
  s.guarded f.pred f.pneg fun s =>
    if s.ctx.arrayBusy then s.stall
    else
      let t := r s
      (s.mapCtx fun c => (c.beginTile f.d.toNat 1 (c.slot 3).time).stepTile f.d.toNat t).occupy (s.tileJob cycles)

/-- MZRO (R300). -/
def execMzro (f : RForm) (s : State) : Out := .next (s.tileOp f 8 fun _ => Vector.replicate 64 0)

/-- A binary32 sum rounded to nearest even (R41, R44). -/
def addF32 (x y : Nat) : Nat := (rounded Fp.f32 .rne (Fp.add .rne (Fp.decode Fp.f32 x) (Fp.decode Fp.f32 y))).1

/-- MACC (R300). -/
def execMacc (f : RForm) (s : State) : Out :=
  .next (s.tileOp f 16 fun s =>
    let x := s.ctx.arrayTile f.d.toNat
    let y := s.ctx.arrayTile f.a.toNat
    Vector.ofFn fun m =>
      packElems 32 (List.zipWith addF32 (rowElems ((x[m.val]?).getD 0)) (rowElems ((y[m.val]?).getD 0))))

/-- MTRN (R300). -/
def execMtrn (f : RForm) (s : State) : Out :=
  .next (s.tileOp f 16 fun s =>
    let x := s.ctx.arrayTile f.a.toNat
    tileOf fun m n => tileAt x n m)

/-! ### MST (R301, R302) -/

/-- The bytes of an MST's row: RB (R302). -/
def rowBytes (dt : Nat) : Nat := 8 * arrayWidth dt

/-- MST (R301, R302). (DEDUCED, log 45) -/
def execMst (f : MForm) (s : State) : Out :=
  let ea := s.eaOfs f 256
  let dt := f.dt.toNat
  let fold := f.disp.getLsbD 12
  let z := Bits.fld f.d 0 3
  .next (s.memForm f ea fun s =>
    s.withPlace ⟨.write, 64 * rowBytes dt, false, false⟩ ea fun p s =>
      let go (fr : Option Req) (s : State) : State :=
        if s.ctx.drain != 0 then s.stall
        else
          let rm := BitVec.ofNat 3 (Bits.fld f.disp 14 3)
          let (seed, s) := s.drawSeed (Fp.Mode.ofCode rm)
          let h := s.ctx.tileHist z
          let (n, s) := s.takeFresh
          let early := if h.since != 0 && (s.ctx.slot 3).time < h.since + 71 then some (h.lo, h.len, n * 4096) else none
          let j : MstJob :=
            { z := z, tile := s.rz z, early := early, dt := dt, rm := rm, sat := f.disp.getLsbD 13, seed := seed
              dest := s.newReq ea p (.write []) 0 none, fold := fr }
          (s.post 72 [] (some (.mst j))).mapCtx fun c => { c with drain := 64 }
      if fold then
        let a := s.ra f.idx.toNat
        s.withPlace ⟨.atomic, 4, true, false⟩ a fun q s =>
          go (some (s.newReq a q (.atom .max 7 4 0 0) (BitVec.ofNat 3 (Bits.fld f.d 3 3)) none)) s
      else go none s)

/-- The tile an MST stores: what it read at issue, or for an early one, by element, one of the values the array operation passed
through, by a free number (R77, R300). (DESIGN CHOICE, log 102) -/
def State.mstTile (s : State) (j : MstJob) : Tile :=
  match j.early with
  | none => j.tile
  | some (lo, len, n) =>
    let ts := (List.range len).map fun i => s.ctx.tileValue j.z (lo + i)
    tileOf fun m k => tileAt (ts.getD (Config.freeNat (n + 64 * m + k) % len) j.tile) m k

/-- The bytes an MST stores and its flags (R302). -/
def mstBytes (j : MstJob) (t : Tile) : List Byte × BitVec 13 :=
  let md := Fp.Mode.ofCode j.rm
  let w := arrayWidth j.dt
  let rows := (List.range 64).map fun m =>
    ((rowElems ((t[m]?).getD 0)).zipIdx).map fun x =>
      let (v, fl) := convertTo j.dt md j.sat (Fp.rnd j.seed (64 * m + x.2)) (Fp.decode Fp.f32 x.1)
      (v.toNat % 2 ^ w, fl)
  ((rows.map fun r => Bits.natLe (rowBytes j.dt) (r.foldr (fun x acc => acc * 2 ^ w + x.1) 0)).flatten,
    flagsM ((rows.flatten).foldl (fun a x => a ||| x.2) 0))

/-- The fold word of an MST (R302). -/
def mstFold (t : Tile) : Nat :=
  (t.toList.flatMap rowElems).foldl (fun a x => max a (x % 2 ^ 31)) 0

/-! ### Chain contraction (R305 to R312) -/

/-- A bond value clamped to 1 to 512 (R305). -/
def bondClamp (n : Nat) : Nat := max 1 (min n 512)

/-- BDSET (R305). -/
def execBdset (f : RI) (s : State) : Out :=
  .next (match f with
    | .r f => s.guarded f.pred f.pneg fun s =>
      s.postReg 1 ⟨.bd, f.d.toNat⟩ (BitVec.ofNat 64 (bondClamp (s.rs f.a.toNat).toNat))
    | .i f => s.guarded f.pred f.pneg fun s => s.postReg 1 ⟨.bd, f.d.toNat⟩ (f.imm.setWidth 64))

/-- CHST with its reserved bits cleared (R306, R307). -/
def chstMask : Word := 0x11F1F

/-- CHST as the device writes it; a CWR of the same cycle prevails (R335). -/
def Ctx.putChst (c : Ctx) (v : Word) : Ctx := if c.crNow.contains 0x015 then c else { c with chst := v }

/-- What CHST gets from a TCON in flight is overwritten before it comes: TBND is in order with the chain operations (R307). -/
def Ctx.dropChst (c : Ctx) : Ctx :=
  c.mapSlot 3 fun x => { x with flights := x.flights.map fun f => { f with effs := f.effs.filter fun
    | .chst _ => false
    | _ => true } }

/-- TBND (R307). -/
def execTbnd (f : RForm) (s : State) : Out :=
  .next (s.guarded f.pred f.pneg fun s =>
    if s.ctx.chain.isSome then s.stall else (s.mapCtx Ctx.dropChst).post 1 [.chst (s.rs f.a.toNat &&& chstMask)])

/-- CORD (R308). -/
def execCord (f : MForm) (s : State) : Out :=
  let ea := s.eaStd f 128
  let n := Bits.fld f.d 0 5 + 1
  .next (s.memForm f ea fun s =>
    s.withPlace ⟨.read, 4 * n, false, true⟩ (ea &&& ~~~3) fun p s =>
      let off := s.pocketOff p
      if f.chk && !s.ctx.tilesFull off (4 * n) then s.stall else s.post 6 [] (some (.cord n off)))

/-- The class a chain step needs (R427). -/
def stepClass (w : OrderWord) : Nat := if Bits.fld w 0 2 < 2 then 1 else 2

/-- A failed check of R312: the class and the detail word. -/
abbrev ChainBad := Byte × Word

/-- The bond-overflow detail word (R312). -/
def bondDetail (kind step req : Nat) : Word := BitVec.ofNat 64 (kind * 2 ^ 62 + step * 2 ^ 57 + min req (2 ^ 48 - 1))

/-- Step `i` of the program checked and captured, from the boundary state `chst` (R309, R312). (DEDUCED, log 46) -/
def State.chainStep (s : State) (i : Nat) (chst : Word) : Except ChainBad ChainStep :=
  let c := s.ctx
  let w := c.order.getD i 0
  let role := Bits.fld w 15 2
  let lg := Bits.fld w 17 3
  let lgo := Bits.fld chst 0 5
  let lgx := Bits.fld chst 8 5
  let cap := Bits.fld (s.rcr 0x014) 0 21
  let base := Bits.fld (s.rcr 0x014) 21 21
  if c.orderLen ≤ i || role = 3 || Bits.fld w 2 13 != 0 || (role != 1 && lgx < lg) then .error (0x06, bondDetail 1 i 0)
  else if cap < 256 || pocketSize < base + 2 * cap || chst &&& ~~~chstMask != 0 then .error (0x06, bondDetail 2 i 0)
  else
    let n := 2 ^ lg
    let lgo' := if role = 0 then lgo else lgo + lg
    let lgx' := if role = 1 then lgx else lgx - lg
    let rl := s.rbd (Bits.fld w 24 4)
    let rr := s.rbd (Bits.fld w 20 4)
    let bf := (s.rcr 0x014).getLsbD 48
    let size := if bf then 2 else 4
    let need := max (2 ^ lgo * 2 ^ lgx * rl) (2 ^ lgo' * 2 ^ lgx' * rr) * size
    if cap < need then .error (0x06, bondDetail 0 i need)
    else
      let ct := Bits.fld w 0 2
      let m := if role = 2 then n * n else n
      let h := Bits.fld w 28 4
      match s.trayCheck i h 0 (rl * m * rr * (if ct < 2 then 2 else 1)) with
      | some d => .error (0x07, d)
      | none =>
        let l := if role = 1 then rl else rl * n
        let cur := Bits.fld chst 16 1
        .ok { slot := Bits.fld (s.rts h) 0 4, base := base, cap := cap, bf := bf, cur := cur, o := 2 ^ lgo, x := 2 ^ lgx
              o' := 2 ^ lgo', x' := 2 ^ lgx', rl := rl, rr := rr, n := n, m := m, role := role, ct := ct
              chst := BitVec.ofNat 64 (lgo' + lgx' * 2 ^ 8 + (1 - cur) * 2 ^ 16)
              p := Bits.ceilDiv (2 ^ lgo' * 2 ^ lgx' * rr) 4096 * Bits.ceilDiv l (if ct < 2 then 64 else 128) }

/-- The write of a vector slot to a byte, made while a TCON's step runs, that the step does not see and does not overwrite, where an agenda has
it so; `since` is the number of the next write when the TCON issued (R310). -/
def State.besideStep (s : State) (w : Origin) (since : Option Nat) (key : Nat) : Option Nat :=
  match since, s.viewOf w.agent key with
  | some n, some (.before m) =>
    if (s.past m).any fun v => v.agent == w.agent && (v.origin.slot = 1 || v.origin.slot = 2) && n ≤ v.num && (v.old key).isSome then some m
    else none
  | _, _ => none

/-- `len` bytes as a step of origin `w` reads them. -/
def State.stepSees (s : State) (w : Origin) (since : Option Nat) (key len : Nat) : List Byte :=
  if s.plainly w then Mem.read s.mem key len
  else (List.range len).map fun i => match s.besideStep w since (key + i) with
    | some m => s.byteAt (key + i) (some m)
    | none => (s.see w 1 (key + i) 1).headD 0

/-- A boundary element: NaN where poisoned. -/
def State.boundary (s : State) (w : Origin) (since : Option Nat) (t : ChainStep) (i : Nat) : Fp.FVal :=
  let size := if t.bf then 2 else 4
  let key := pocketKey s.ctx.core (t.base + t.cur * t.cap + size * i)
  if s.poisoned key size then .nan false else Fp.decode (if t.bf then Fp.bf16 else Fp.f32) (Bits.leNat (s.stepSees w since key size))

/-- A core element of a step: NaN where poisoned. -/
def State.coreElem (s : State) (w : Origin) (t : ChainStep) (i : Nat) : Fp.FVal :=
  let size := if t.ct < 2 then 2 else 1
  let key := trayKey s.ctx.core t.slot (size * i)
  let fmt := match t.ct with
    | 0 => Fp.bf16
    | 1 => Fp.f16
    | 2 => Fp.e4m3
    | _ => Fp.e5m2
  if s.poisoned key size then .nan false else Fp.decode fmt (Bits.leNat (s.stepSees w none key size))

/-- A list cut into runs of 32. -/
def runs32 {α : Type} : Nat → List α → List (List α)
  | 0, _ => []
  | n + 1, l => if l.isEmpty then [] else l.take 32 :: runs32 n (l.drop 32)

/-- Element (o', x', b) of a step's result, as a binary32 pattern (R309, R52). -/
def State.chainElem (s : State) (w : Origin) (since : Option Nat) (t : ChainStep) (o' x' b : Nat) : Nat :=
  let bnd (o x a : Nat) := s.boundary w since t ((o * t.x + x) * t.rl + a)
  let core (a c : Nat) := s.coreElem w t ((a * t.m + c) * t.rr + b)
  let ps := match t.role with
    | 0 => (List.range (t.rl * t.n)).map fun k => (bnd o' (k % t.n * t.x' + x') (k / t.n), core (k / t.n) (k % t.n))
    | 1 => (List.range t.rl).map fun a => (bnd (o' / t.n) x' a, core a (o' % t.n))
    | _ => (List.range (t.rl * t.n)).map fun k =>
      (bnd (o' / t.n) (k % t.n * t.x' + x') (k / t.n), core (k / t.n) (k % t.n * t.n + o' % t.n))
  (runs32 ps.length ps).foldl (fun acc run => Fp.accumulate acc (Fp.blockSum run)) 0

/-- A step performed: its result boundary written to the other half (R309), but for bytes of a vector write that comes after it (R310).
(DEDUCED, log 46) -/
def State.performStep (s : State) (w : Origin) (since : Option Nat) (t : ChainStep) : State :=
  let size := if t.bf then 2 else 4
  let key := pocketKey s.ctx.core (t.base + (1 - t.cur) * t.cap)
  let out (i : Nat) : Nat :=
    let v := s.chainElem w since t (i / t.rr / t.x') (i / t.rr % t.x') (i % t.rr)
    if t.bf then (Fp.round Fp.bf16 .rne false 0 (Fp.decode Fp.f32 v)).1 else v
  let n := t.o' * t.x' * t.rr
  let bs := ((List.range n).map fun i => Bits.natLe size (out i)).flatten
  if s.views = [] then s.recorded w [(key, size * n)] fun s => s.writeMem key bs
  else
    let mine := (bs.zipIdx).filter fun x => (s.besideStep w since (key + x.2)).isNone
    s.recorded w (mine.map fun x => (key + x.2, 1)) fun s => mine.foldl (fun s x => s.writeMem (key + x.2) [x.1]) s

/-- The origin of a TCHN's accesses, which are those of an operation of its counter (R216, R311). -/
def State.chainOrigin (s : State) (tc num : Nat) : Origin := { s.originOf 0 3 with agent := .engine s.ctx.uid tc num }

/-- TCON (R310, R312). (DEDUCED, log 46) -/
def execTcon (f : RForm) (s : State) : Out :=
  let i := Bits.fld f.sub 0 5
  .next (s.guarded f.pred f.pneg fun s =>
    s.permitted (if i < s.ctx.orderLen then stepClass (s.ctx.order.getD i 0) else 1) fun s =>
      if s.ctx.arrayBusy then s.stall
      else
        match s.chainStep i (s.rcr 0x015) with
        | .error (cls, d) => s.raise cls 0 d
        | .ok t =>
          (s.post (64 * t.p + 8) [.chst t.chst] (some (.tcon t s.nextNum))).occupy (s.tileJob (64 * t.p)))

/-- Steps `i` to `i + n - 1` checked in order, each from the boundary that the one before leaves (R311). -/
def State.chainSteps (s : State) : Nat → Nat → Word → Except ChainBad (List ChainStep)
  | 0, _, _ => .ok []
  | n + 1, i, chst =>
    match s.chainStep i chst with
    | .error e => .error e
    | .ok t =>
      match s.chainSteps n (i + 1) t.chst with
      | .error e => .error e
      | .ok ts => .ok (t :: ts)

/-- The next number of a counter is taken (R236, R273). -/
def Counter.take (t : Counter) : Counter := { t with issued := t.issued + 1 }

/-- TCHN (R311, R312). -/
def execTchn (f : RForm) (s : State) : Out :=
  let tc := Bits.fld f.sub 0 4
  .next (s.guarded f.pred f.pneg fun s =>
    let prog := s.ctx.order.take s.ctx.orderLen
    s.permitted (prog.foldl (fun a w => max a (stepClass w)) 1) fun s =>
      if s.ctx.arrayBusy || s.numberWaits tc then s.stall
      else
        match s.chainSteps s.ctx.orderLen 0 (s.rcr 0x015) with
        | .error (cls, d) => s.raise cls 0 d
        | .ok ts =>
          let num := (s.ctx.tcval tc).issued + 1
          let s := s.mapTc tc Counter.take
          match ts with
          | [] => s.mapTc tc fun t => t.complete num
          | t :: _ => s.mapCtx fun c => { c with chain := some ⟨tc, num, ts, 0, 64 * t.p⟩ })

/-- One cycle of a running TCHN: a step other than the last is performed when its array time is over (R311). A context that is
to stop does not begin a further step. -/
def State.tickChain (s : State) : State :=
  match s.ctx.chain with
  | none => s
  | some c =>
    match c.steps[c.next]? with
    | none => s
    | some t =>
      if s.ctx.run != .running && s.ctx.run != .halting && s.ctx.run != .draining && c.left = 64 * t.p then s
      else if 1 < c.left then s.mapCtx fun x => { x with chain := some { c with left := c.left - 1 } }
      else if c.next + 1 < c.steps.length then
        let left := ((c.steps[c.next + 1]?).map fun u => 64 * u.p).getD 0
        (s.performStep (s.chainOrigin c.tc c.num) none t).mapCtx fun x => { x with chain := some { c with next := c.next + 1, left := left } }
      else s.mapCtx fun x => { x with chain := some { c with left := 0 } }

/-- TCHN_COMPLETE (R311): the last step's boundary and CHST are written, and the counter advances. -/
def execTchnComplete (s : State) : Out :=
  match s.ctx.chain with
  | some ⟨tc, num, ts, i, 0⟩ =>
    (match ts[i]? with
      | some t => .next (((s.performStep (s.chainOrigin tc num) none t).mapCtx fun c => { c.putChst t.chst with chain := none }).mapTc tc fun x =>
          x.complete num)
      | none => .next s)
  | _ => .next s

/-- ARRAY_OPERATION_COMPLETE (R77): the occupancy that is over ends. -/
def execArrayOperationComplete (s : State) : Out :=
  match s.ctx.array with
  | some j => if j.total ≤ j.age then .next (s.mapCtx fun c => { c with array := none }) else .next s
  | none => .next s

end Sys2Proof.Machine
end

