-- ==== Sys2Proof/Machine/Pages.lean ====
section
/-! DEFINITION. Pages at the memory side (R204, R205), the bytes that a place names, and the trace of record mode (R431,
R432). -/

namespace Sys2Proof.Machine

/-- An entry is that of a page. -/
def Page.covers (p : Page) (ref : PageRef) : Bool :=
  p.ref.pkg == ref.pkg && p.ref.asn == ref.asn && p.ref.page ≤ ref.page && ref.page < p.ref.page + p.frames

/-- The frame of a page of an entry. -/
def Page.frameOf (p : Page) (ref : PageRef) : Nat := p.frame + (ref.page - p.ref.page)

/-- The page-table entry of a page at the MTUs of a package. -/
def State.findPage (s : State) (ref : PageRef) : Option Page := s.pages.find? fun p => p.covers ref

/-- A page-table entry replaced or added. -/
def State.setPage (s : State) (p : Page) : State := { s with pages := p :: s.pages.filter fun q => q.ref != p.ref }

/-- A frame lies in the hole of R23. -/
def frameHole (f : Nat) : Bool := 2 ^ 27 ≤ f && f < 2 ^ 28
/-- A frame lies in flash. -/
def frameFlash (f : Nat) : Bool := 2 ^ 28 ≤ f && f < 0x50000000
/-- A frame lies in a pool window. (DESIGN CHOICE, log 108) -/
def framePool (f : Nat) : Bool := 0x50000000 ≤ f

/-- The port of the pool window that a frame lies in. (DESIGN CHOICE, log 108) -/
def poolPort (f : Nat) : Nat := if f < 0x450000000 then 2 else if f < 0x850000000 then 3 else 0

/-- A frame of this package lies on a pool device of it that has failed (R434): ranges of device-physical addresses. -/
def State.frameDown (s : State) (f : Nat) : Bool := s.poolDown.any fun r => r.1 ≤ f * 4096 && f * 4096 < r.1 + r.2

/-- What the memory side answers (R204). -/
inductive Answer where
  /-- the byte keys that hold the bytes, in runs -/
  | served (runs : List (Nat × Nat))
  | parked
  | faulted
  deriving DecidableEq, Repr

/-- The answer for one page (R204): its frame, or the outcome. -/
def State.pageAnswer (s : State) (ref : PageRef) (write : Bool) : Except Answer Nat :=
  match s.findPage ref with
  | none => .error .faulted
  | some p =>
    let f := p.frameOf ref
    let park : Except Answer Nat := if s.denied.any fun r => r == p.ref then .error .faulted else .error .parked
    if p.state != .absent && (frameHole f || (ref.pkg = 0 && s.frameDown f)) then .error .faulted
    else
      match p.state with
      | .absent | .migrating => park
      | .resident =>
        if !write || (p.writable && !frameFlash f) then .ok f
        else if p.cow then park
        else .error .faulted

/-- The runs of `len` bytes from a device-virtual address on, page by page; a fault prevails over a park. -/
def State.virtRuns (s : State) (pkg : Nat) (asn : Byte) (write : Bool) : Nat → Nat → Nat → Answer
  | 0, _, _ => .served []
  | n + 1, dva, len =>
    if len = 0 then .served []
    else
      let k := min len (4096 - dva % 4096)
      match s.pageAnswer ⟨pkg, asn, dva / 4096⟩ write, s.virtRuns pkg asn write n (dva + k) (len - k) with
      | .error .faulted, _ => .faulted
      | _, .faulted => .faulted
      | .error _, _ => .parked
      | _, .parked => .parked
      | .ok f, .served rs => .served ((s.frameKey pkg f + dva % 4096, k) :: rs)

/-- The answer for `len` bytes at a place; control space is not memory. -/
def State.answer (s : State) (p : Place) (len : Nat) (write : Bool) : Answer :=
  match p with
  | .port k => .served [(k, len)]
  | .virt asn dva => s.virtRuns 0 asn write (len / 4096 + 2) dva len
  | .remote die asn dva => s.virtRuns (s.pkgOf die) asn write (len / 4096 + 2) dva len
  | .control _ => .faulted

/-- The bytes of a list of runs. -/
def State.readRuns (s : State) (rs : List (Nat × Nat)) : List Byte := rs.flatMap fun r => Mem.read s.mem r.1 r.2

/-- Some byte of the runs is poisoned. -/
def State.poisonedRuns (s : State) (rs : List (Nat × Nat)) : Bool := rs.any fun r => s.poisoned r.1 r.2

/-- Bytes written over a list of runs. -/
def State.writeRuns (s : State) : List (Nat × Nat) → List Byte → State
  | [], _ => s
  | r :: rs, bs => (s.writeMem r.1 (bs.take r.2)).writeRuns rs (bs.drop r.2)

/-- The frame of this package that a page-table entry names for a page, in whatever state, outside the hole (R23). (DEDUCED, log 47) -/
def State.anyFrame (s : State) (ref : PageRef) : Option Nat :=
  ((s.findPage ref).map fun p => p.frameOf ref).filter fun f => !frameHole f && !s.frameDown f

/-- A global virtual address of the focused context through its window table, for accesses of its core's own logic; no write goes to flash
(R22). (DEDUCED, log 47) -/
def State.coreKey (s : State) (va : Nat) (write : Bool := false) : Option Nat :=
  (findWindow s.ctx.windows va).bind fun w =>
    ((s.anyFrame ⟨0, s.ctx.asn, w.map va / 4096⟩).filter fun f => !(write && frameFlash f)).map fun f => s.frameKey 0 f + w.map va % 4096

/-- Bytes read byte by byte by the core's own logic; an address without a page reads as zero. (DEDUCED, log 47) -/
def State.coreRead (s : State) (va len : Nat) : List Byte :=
  (List.range len).map fun i => ((s.coreKey (va + i)).map fun k => Mem.byte s.mem k).getD 0

/-- Bytes written by the core's own logic where a page is mapped. (DEDUCED, log 47) -/
def State.coreWrite (s : State) (va : Nat) (bs : List Byte) : State :=
  (bs.zipIdx).foldl (fun s x =>
    match s.coreKey (va + x.2) true with
    | some k => s.writeMem k [x.1]
    | none => s) s

/-! ### Record mode (R431, R432) -/

/-- The global virtual address of the focused context's trace segment. -/
def Ctx.segment (c : Ctx) : Nat := c.trBase.toNat

/-- Words 3 and 4 of a segment's header: OVF and DIV, and the divergent entry (R431, R432). -/
def Ctx.traceMarks (c : Ctx) (div : Nat) : List Byte :=
  Bits.natLe 8 (Bits.fld c.trstat 63 1 + 2 * Bits.fld c.trstat 62 1) ++ Bits.natLe 8 div

/-- The segment's header as record mode keeps it: version, CTXID, entries, OVF and DIV (R431). -/
def State.traceHeader (s : State) : State :=
  let c := s.ctx
  s.coreWrite c.segment (Bits.natLe 8 1 ++ Bits.wordLe c.ctxid ++ Bits.natLe 8 c.trCount ++ c.traceMarks 0 ++ List.replicate 24 0)

/-- The bytes of an entry: its two words and its data, padded to 16 (R431). -/
def traceEntry (cycle kind dest : Nat) (data : List Byte) : List Byte :=
  Bits.natLe 8 (cycle % 2 ^ 48 * 2 ^ 16 + kind * 2 ^ 12) ++ Bits.natLe 8 (data.length * 2 ^ 32 + dest) ++ data ++
    List.replicate ((16 - data.length % 16) % 16) 0

/-- An input item of the focused context (R432): appended in record mode; in replay mode taken from the next entry, whose data is
the answer. With record mode off the item is the data. OFFSET counts the bytes after the header (DEDUCED, log 21). -/
def State.traced (s : State) (kind dest : Nat) (data : List Byte) : List Byte × State :=
  let c := s.ctx
  let off := 64 + Bits.fld c.trstat 0 40
  if c.trMode = 1 && !c.trstat.getLsbD 63 then
    let e := traceEntry c.trCycle kind dest data
    if c.trLen < off + e.length then
      (data, (s.mapCtx fun c => { c with trstat := c.trstat ||| (1 <<< 63) }).traceHeader)
    else
      let s := s.coreWrite (c.segment + off) e
      (data, (s.mapCtx fun c => { c with trstat := Bits.setFld c.trstat 0 40 (off + e.length - 64), trCount := c.trCount + 1 }).traceHeader)
  else if c.trMode = 2 && !c.trstat.getLsbD 62 then
    let h := s.coreRead (c.segment + off) 16
    let w0 := Bits.leNat (h.take 8)
    let w1 := Bits.leNat (h.drop 8)
    let ends := Bits.leNat (s.coreRead (c.segment + 16) 8) ≤ c.trCount
    if ends || Bits.nfld w0 12 4 != kind || w1 != data.length * 2 ^ 32 + dest then
      let s := s.mapCtx fun c => { c with trstat := c.trstat ||| (1 <<< 62) }
      (data, s.coreWrite (c.segment + 24)
        (Bits.natLe 8 (Bits.leNat (s.coreRead (c.segment + 24) 8) % 2 + 2) ++ Bits.natLe 8 c.trCount))
    else
      let d := s.coreRead (c.segment + off + 16) data.length
      (d, s.mapCtx fun c =>
        { c with trstat := Bits.setFld c.trstat 0 40 (off + (data.length + 15) / 16 * 16 - 48), trCount := c.trCount + 1 })
  else (data, s)

/-- The focused context takes its input items from the trace (R432). -/
def Ctx.replaying (c : Ctx) : Bool := c.trMode == 2 && !c.trstat.getLsbD 62

/-- An item of `len` bytes taken from the trace while the context replays; none when it is to be read outside, as in a live run (R432). -/
def State.replayItem (s : State) (kind dest len : Nat) : Option (List Byte) × State :=
  if s.ctx.replaying then
    let (d, s) := s.traced kind dest (List.replicate len 0)
    (if s.ctx.replaying then some d else none, s)
  else (none, s)

end Sys2Proof.Machine
end

