-- ==== Sys2Proof/Machine/Router.lean ====
section
/-! DEFINITION. Requests between their issue and their place: the source router (R398, R411, R414), merging (R410), order at the
target (R213, R225), receiver-not-ready (R405), errors that come back (R406) and tickets (R414). -/

namespace Sys2Proof.Machine

/-! ### Time -/

/-- The clock cycles of a microsecond on a die of this package: 1.8, 1.5, 1.2 or 0.9 GHz (R429). (DEDUCED, log 110) -/
def State.usCycles (s : State) (die : Nat) : Nat :=
  match ((s.throttle[die]?).getD 0).toNat with
  | 0 => 1800
  | 1 => 1500
  | 2 => 1200
  | _ => 900

/-- The time that a cycle takes in the units of `age`: the clock's period on die 0 (R429). (DEDUCED, log 110) -/
def State.cycleTime (s : State) : Nat :=
  match ((s.throttle[0]?).getD 0).toNat with
  | 0 => 10
  | 1 => 12
  | 2 => 15
  | _ => 20

/-- The die of this package with a domain die number. -/
def localDie (n : Nat) : Nat := n % 2 + 2 * (n / 8 % 2)

/-- The cycles of a microsecond where a request comes from. (DEDUCED, log 110) -/
def State.reqUs (s : State) (r : Req) : Nat := s.usCycles (localDie r.src)

/-! ### Requests -/

/-- The request of a number. -/
def State.req (s : State) (id : Nat) : Option Req := s.reqs.find? fun r => r.id == id

/-- A request changed. -/
def State.mapReq (s : State) (id : Nat) (f : Req → Req) : State :=
  { s with reqs := s.reqs.map fun r => if r.id = id then f r else r }

/-- A request gone. -/
def State.dropReq (s : State) (id : Nat) : State := { s with reqs := s.reqs.filter fun r => r.id != id }

/-- The target die of a remote request. -/
def Req.target (r : Req) : Option Nat :=
  match r.place with
  | .remote d _ _ => some d
  | _ => none

/-- Bytes a request reaches. -/
def Req.size (r : Req) : Nat :=
  match r.act with
  | .read n => n
  | .write bs => bs.length
  | .atom _ _ n _ _ => n

/-- The bytes of a place as a space of its own: 0 keys, 1 control space, else a device-virtual space of a package. -/
def State.span (s : State) (p : Place) : Nat × Nat :=
  match p with
  | .port k => (0, k)
  | .control o => (1, o)
  | .virt asn d => (2 + asn.toNat, d)
  | .remote die asn d => (2 + s.pkgOf die * 256 + asn.toNat, d)

/-- The bytes of memory that stand at a place now; none where its page is not there. -/
def State.bytesAt (s : State) (p : Place) (n : Nat) : List (Nat × Nat) :=
  match p with
  | .control _ => []
  | p =>
    match s.answer p n false with
    | .served rs => rs
    | .parked | .faulted => []

/-- Two requests touch common bytes, under one address or under two of one frame, and one of them writes (R213): `n` bytes of the first. -/
def State.conflict (s : State) (a b : Req) (n : Nat) : Bool :=
  let x := s.span a.place
  let y := s.span b.place
  (a.isWrite || b.isWrite) &&
    ((x.1 == y.1 && x.2 < y.2 + b.size && y.2 < x.2 + n) || rangesMeet (s.bytesAt a.place n) (s.bytesAt b.place b.size))

/-- The place lies in the pocket of a core. -/
def placeInPocket (core : Nat) (p : Place) : Bool :=
  match p with
  | .port k => pocketKey core 0 ≤ k && k < pocketKey core pocketSize
  | _ => false

/-- An earlier access of the same context to the same bytes is not yet performed: it stands in the memory system, falls due later, or is a
release's increment; a read waits for what a slot that lags may still write; or a barrier before it has not completed (R213, R214).
(DEDUCED, log 14) -/
def State.heldByOrder (s : State) (r : Req) : Bool :=
  let before (i : Nat) (k : Nat) : Bool := i < r.idx || (i = r.idx && k < r.slot.val)
  (s.allCtx.any fun c => c.uid == r.uid && (c.behindBarrier r.idx ||
    (r.isRead && c.laggardMeets r.idx r.slot.val (placeInPocket c.core r.place)) ||
    c.releases.any fun x => match x with
      | .rel _ q _ => q.id != r.id && before q.idx q.slot.val && s.conflict q r q.size
      | .arv _ _ _ _ _ => false)) ||
  (s.reqs.any fun q => q.uid == r.uid && q.id != r.id && before q.idx q.slot.val && s.conflict q r q.size) ||
  (s.allCtx.any fun c => c.uid == r.uid && (c.pipe.slots.zipIdx).any fun x => x.1.flights.any fun f =>
    before f.idx x.2 && match f.mem with
      | some (.send q) => s.conflict q r q.size
      | some (.mst j) => s.conflict j.dest r (64 * rowBytes j.dt) || (j.fold.any fun q => s.conflict q r 4)
      | _ => false)

/-- An access of the same context to the same target die that it issued before this one (R225). -/
def Req.beforeAt (q r : Req) : Bool :=
  q.uid == r.uid && q.target == r.target &&
    (q.issued < r.issued || (q.issued = r.issued && (q.slot.val < r.slot.val || (q.slot = r.slot && q.id < r.id))))

/-- An earlier access of the same context to the same target die stands before this one (R225, R411, R414). -/
def State.heldByTarget (s : State) (r : Req) : Bool :=
  s.reqs.any fun q => q.beforeAt r && !(q.mergeable && r.mergeable && q.place != r.place)

/-- An access of the same context to the same target die that it issued before has not left its slot (R225), or is a context instruction's
that is tried again (R405). (DEDUCED, log 62) -/
def State.unsentAhead (s : State) (r : Req) : Bool :=
  s.allCtx.any fun c => c.uid == r.uid && (c.pipe.slots.zipIdx).any fun x =>
    (x.1.flights.any fun f => match f.mem with
      | some (.send q) => q.beforeAt r
      | some (.mst j) => j.dest.beforeAt r
      | _ => false) ||
    match x.1.wait with
    | some (.context _ _ (some t)) => r.target == some t.2.2 && (x.1.pos < r.idx || (x.1.pos = r.idx && x.2 < r.slot.val))
    | _ => false

/-! ### Lanes (R399) -/

/-- The virtual lane of a request: a merged reduction travels on VL2, any other request on VL0. (DEDUCED, log 135) -/
def State.laneOf (s : State) (r : Req) : Nat := if s.reqs.any fun q => q.state == ReqState.merged r.id then 2 else 0

/-- The time at which what enters the source router now for a die of the domain arrives on a lane, `d` cycles from now or after what
entered before it (R399). (DEDUCED, log 135) -/
def State.laneTime (s : State) (lane src die d : Nat) : Nat :=
  let ahead := (s.reqs.filterMap fun r => match r.state with
      | .sent t => if s.laneOf r = lane && r.src = src && r.target == some die then some t else none
      | _ => none) ++
    ((s.ticketMsgs.filter fun m => m.src = src && m.die = die && (if m.kind = 0 then 1 else 0) = lane).filterMap TicketMsg.time) ++
    (s.resps.filter fun q => lane = 1 && src != die && q.die = src && q.dest = die).filterMap Resp.time
  ahead.foldl (fun a t => max a (t + 1)) (s.clock + d)

/-- The source router takes messages for a die: a route reaches it, and no change of the route is under way (R398). -/
def State.routeOpen (s : State) (src die : Nat) : Bool := s.reachable src die && !s.draining.contains (src, die)

/-- When a message of a lane is at its die, where its router accepts it now (R398, R399). -/
def State.acceptTime (s : State) (lane src die : Nat) : Option Nat := if s.routeOpen src die then some (s.laneTime lane src die 0) else none

/-- The lane of a message of the ticket service (R399). -/
def TicketMsg.lane (m : TicketMsg) : Nat := if m.kind = 0 then 1 else 0

/-- A message of the ticket service enters a router. -/
def State.sendMsg (s : State) (kind src die origin : Nat) (h : Word) : State :=
  let m : TicketMsg := ⟨kind, src, die, origin, h, none⟩
  { s with ticketMsgs := s.ticketMsgs ++ [{ m with time := s.acceptTime m.lane src die }] }

/-- Messages and answers that their routers have not accepted are, where they now can be (R398). -/
def State.acceptMsgs (s : State) : State :=
  let s := s.ticketMsgs.foldl (fun s m =>
    if m.time.isSome then s
    else { s with ticketMsgs := s.ticketMsgs.map fun x => if x = m then { m with time := s.acceptTime m.lane m.src m.die } else x }) s
  s.resps.foldl (fun s q =>
    if q.time.isSome then s
    else { s with resps := s.resps.map fun x => if x.id = q.id then { q with time := s.acceptTime 1 q.die q.dest } else x }) s

/-- A message of the ticket service has come to its die. -/
def State.msgThere (s : State) (m : TicketMsg) : Bool := m.time.any fun t => t ≤ s.clock

/-! ### Tickets at their origin (R414) -/

/-- The entry of ticket `h` at its origin: it has landed or is cancelled; its destinations get messages of a kind (1 release, 2
cancel), and the entry is free under its next generation. -/
def State.closeTicket (s : State) (origin : Nat) (h : Word) (kind : Nat) : State :=
  let t := s.ticketOf origin h
  if s.ticketPending origin h then
    t.dests.foldl (fun s d => s.sendMsg kind origin d origin h) (s.setTicket { t with gen := t.gen + 1, pending := false, dests := [] })
  else s

/-- A store that carried ticket `h` as an RSTK will not be performed: its ticket is cancelled (R414, R415). -/
def State.cancelTicket (s : State) (r : Req) : State :=
  match r.ticket with
  | some h => s.closeTicket r.src h 2
  | none => s

/-! ### The source router -/

/-- A float or integer operand of two merged RATOMs (R410). (DESIGN CHOICE, log 103) -/
def mergeValue (op : AtomOp) (ty len a b : Nat) : Nat :=
  let m := 2 ^ (8 * len)
  let fmt := Fp.ofCode ty
  match op with
  | .add => (a + b) % m
  | .and => a &&& b
  | .or => a ||| b
  | .xor => a ^^^ b
  | .min => if srcInt ty a ≤ srcInt ty b then a else b
  | .max => if srcInt ty b ≤ srcInt ty a then a else b
  | .fadd => (rounded fmt .rne (Fp.add .rne (Fp.decode fmt a) (Fp.decode fmt b))).1
  | .fmin => (fpMinMax false fmt a b).1
  | .fmax => (fpMinMax true fmt a b).1
  | .xchg | .cas | .swapZero => b

/-- Two mergeable RATOMs that a router may combine (R410). (DESIGN CHOICE, log 103) -/
def mergePartner (a b : Req) : Bool :=
  a.mergeable && b.mergeable && a.place == b.place &&
    match a.act, b.act with
    | .atom op ty _ _ _, .atom op' ty' _ _ _ => op == op' && ty == ty'
    | _, _ => false

/-- The merged operand in the request that goes on, and the other bound to it (R410). (DESIGN CHOICE, log 103) -/
def State.mergeInto (s : State) (p r : Req) : State :=
  match p.act, r.act with
  | .atom op ty len v c, .atom _ _ _ w _ =>
    (s.mapReq p.id fun q => { q with act := .atom op ty len (mergeValue op ty len v w) c }).mapReq r.id fun q =>
      { q with state := .merged p.id }
  | _, _ => s

/-- The pending tickets that an RSTD carries as it enters the router (R414). -/
def State.carriedBy (s : State) (r : Req) : List Word := (r.kmask.filter fun h => s.ticketPending r.src h).eraseDups

/-- A request at its source must wait there (R225, R398, R411, R414). -/
def State.mustWait (s : State) (r : Req) (die : Nat) : Bool :=
  s.draining.contains (r.src, die) ||
  s.unsentAhead r ||
  (s.reqs.any fun q => q.beforeAt r && q.state == .source) ||
  (!r.mergeable && ((s.reqs.any fun q => q.beforeAt r && q.mergeable) ||
    (s.resps.any fun q => q.uid == r.uid && q.id < r.id && q.ratom && q.die == die))) ||
  (r.isRstd && ((s.carriedBy r).any fun h =>
    let t := s.ticketOf r.src h
    8 ≤ t.dests.length && !t.dests.contains die))

/-- An answer to a request as it sets out: on VL1 from the die that gives it (R399). -/
def State.answerTo (s : State) (r : Req) (bs : List Byte) (key : Option Nat) (err : Option (Byte × Byte × Word)) : Resp :=
  { id := r.id, uid := r.uid, land := r.land, bytes := bs, ratom := r.ratom, write := r.isWrite, die := (r.target).getD r.src
    err := err, site := r.site, idx := r.idx, slot := r.slot, ctxid := r.ctxid, key := key, dest := r.src
    time := match r.target with
      | some d => s.acceptTime 1 d r.src
      | none => some s.clock }

/-- A request ends in an answer that is an error. -/
def State.endsIn (s : State) (r : Req) (e : Resp) : State :=
  let s := (s.dropReq r.id).cancelTicket r
  { s with resps := s.resps ++ [e] }

/-- An error for a request goes back to its source. -/
def State.answerError (s : State) (r : Req) (cls cause : Byte) : State :=
  s.endsIn r (s.answerTo r [] none (some (cls, cause, r.ea)))

/-- An error of a request that the source finds itself: no route brings it back (R405, R406). -/
def State.sourceError (s : State) (r : Req) (cause : Byte) : State :=
  s.endsIn r { s.answerTo r [] none (some (0x25, cause, r.ea)) with die := r.src, time := some s.clock }

/-- A request leaves its source: an RSTD with its tickets, a mergeable RATOM for a router that may hold or merge it, any other on its
way; a target that no route reaches is an error (R398, R406, R410, R414). (DESIGN CHOICE, log 103) -/
def State.leaveSource (s : State) (r : Req) (die : Nat) : State :=
  if !s.reachable r.src die then s.sourceError r 2
  else
    let (d, s) := s.takeDelay
    let there := s.laneTime (s.laneOf r) r.src die d
    if r.isRstd then
      let hs := s.carriedBy r
      let s := hs.foldl (fun s h =>
        let t := s.ticketOf r.src h
        if t.dests.contains die then s else s.setTicket { t with dests := t.dests ++ [die] }) s
      s.mapReq r.id fun q => { q with carried := hs, state := .sent there }
    else if r.mergeable && r.hold != 0 then
      let (n, s) := s.takeFresh
      match s.reqs.find? fun q => q.id != r.id && mergePartner q r && (match q.state with
        | .merging _ => true
        | _ => false) with
      | some p =>
        if Config.freeNat n % 2 = 1 && !s.heldByTarget r then s.mergeInto p r
        else s.mapReq r.id fun q => { q with state := .merging (s.clock + min d (8 * r.hold)) }
      | none => s.mapReq r.id fun q => { q with state := .merging (s.clock + min d (8 * r.hold)) }
    else s.mapReq r.id fun q => { q with state := .sent there }

/-- A request enters its source router again (R405): while the route changes it waits, and a target that no route reaches any longer
is an error (R398, R406). -/
def State.resend (s : State) (r : Req) (die : Nat) : State :=
  if s.draining.contains (r.src, die) then s
  else if !s.reachable r.src die then s.sourceError r 2
  else
    let (d, s) := s.takeDelay
    s.mapReq r.id fun q => { q with state := .sent (s.laneTime (s.laneOf r) r.src die d) }

/-- Every request that waits at its source and may now leave, in order; one leaves after the earlier accesses of its context to the same
bytes (R213), so that what enters the router in order is performed in order (R225). -/
def State.settleSources (s : State) : State :=
  s.reqs.foldl (fun s r =>
    match r.state, r.target with
    | .source, some die => if s.mustWait r die || s.heldByOrder r then s else s.leaveSource r die
    | _, _ => s) s

end Sys2Proof.Machine
end

