-- ==== Sys2Proof/Machine/Control.lean ====
section
/-! DEFINITION. The control registers: CRD, CWR and the writes that fall due (R334, R335), each register's read-only fields, and
pre-emption requests (R323, R324). -/

namespace Sys2Proof.Machine

/-- A context that runs on its core, or is being stopped there. -/
def Run.awake : Run → Bool
  | .running | .halting | .draining | .freezing => true
  | .empty | .halted | .stopped | .frozen | .swapped => false

/-- The numbers that user level may not read (R334). -/
def crHidden (n : Nat) : Bool := n = 0x020 || n = 0x021 || n = 0x022 || n = 0x024

/-- The numbers that user level may write (R334). -/
def crUser (n : Nat) : Bool :=
  n = 0x008 || n = 0x009 || n = 0x00A || n = 0x00B || n = 0x00D || n = 0x010 || n = 0x011 || n = 0x012 || n = 0x014 || n = 0x015 ||
  n = 0x016 || n = 0x018

/-- The numbers that privileged level may write (R334). -/
def crWritable (n : Nat) : Bool :=
  crUser n || n = 0x001 || n = 0x019 || n = 0x01A || n = 0x01B || crHidden n || n = 0x023

/-- The registers that hold state from outside the team, whose reads are input items of record mode (R431): CORELOC, PREQ and
PRMST (DEDUCED, log 22). -/
def crOutside (n : Nat) : Bool := n = 0x002 || n = 0x023 || n = 0x030

/-- CRD (R335). (DEDUCED, log 22) -/
def State.crd (s : State) (d n : Nat) : State :=
  if !s.ctx.priv && crHidden n then s.raise 0x02 3
  else
    let v := match s.captured ⟨.cr, n⟩ with
      | some v => v.setWidth 64
      | none => s.crValue n
    s.post 2 [if crOutside n then .outside n d v else .reg ⟨.s, d⟩ v]

/-- CRD (R335). -/
def execCrd (f : RI) (s : State) : Out :=
  .next (match f with
    | .r f => s.guarded f.pred f.pneg fun s => s.crd f.d.toNat f.sub.toNat
    | .i f => s.guarded f.pred f.pneg fun s => s.crd f.d.toNat (Bits.fld f.imm 0 10))

/-- WTBASE as a write leaves it: the address, and an update in progress (R329). -/
def Ctx.putWtbase (c : Ctx) (v : Word) : Ctx := { c with wtbase := (v &&& ~~~0x3FF) ||| 1 }

/-- CWR (R335): the write takes effect at its due cycle; one of WTBASE waits for the update (R329). -/
def State.cwr (s : State) (n : Nat) (v : Word) : State :=
  if !s.ctx.priv && !crUser n then s.raise 0x02 3
  else if !crWritable n then s
  else if n = 0x024 then (s.waitIn (.wtbase v false)).mapCtx fun c => c.putWtbase v
  else s.post 2 [.cwr n v]

/-- CWR (R335). -/
def execCwr (f : RI) (s : State) : Out :=
  .next (match f with
    | .r f => s.guarded f.pred f.pneg fun s => s.cwr f.sub.toNat (s.rs f.a.toNat)
    | .i f => s.guarded f.pred f.pneg fun s => s.cwr (f.d.toNat * 64 + f.a.toNat) (f.imm.setWidth 64))

/-! ### Pre-emption requests (R323, R324) -/

/-- PREQ.STATE (R323). -/
def Ctx.preqState (c : Ctx) : Nat := Bits.fld c.preq 2 2

/-- The loop-drain form applies: the innermost level, not suspended, names a loop predicate and a trip register (R324). (DEDUCED, log 50) -/
def Ctx.canDrain (c : Ctx) : Bool :=
  c.pipe.activeCount != 0 && match c.pipe.levels with
    | l :: _ => l.lp != 0 && l.treg != 0
    | [] => false

/-- The freeze form begins: STATE 2, and the geometry operations under way are to run again (R325, R397). -/
def Ctx.beginFreeze (c : Ctx) : Ctx :=
  { c.againGeo with preq := Bits.setFld (Bits.setFld c.preq 2 2 2) 4 1 0, run := .freezing }

/-- A pending request is taken up: the loop-drain form where it applies and FRZ does not forbid it, else the freeze form
(R323, R324). -/
def Ctx.takePreq (c : Ctx) : Ctx :=
  if c.preq.getLsbD 0 && c.preqState = 0 && c.run == .running && c.raised.isEmpty then
    if !c.preq.getLsbD 1 && c.canDrain then
      { c with preq := Bits.setFld c.preq 2 2 1, run := .draining, drainFor := 0, drainDrn := none
               drainDepth := c.pipe.levels.length, drainReg := ((c.pipe.levels.head?).map Level.treg).getD 0 }
    else c.beginFreeze
  else c

/-- A pre-emption request (R323): one that comes while STATE is not 0 has no further effect. -/
def Ctx.request (c : Ctx) (frz : Bool) : Ctx :=
  if c.preqState != 0 then c
  else { c with preq := Bits.setFld (Bits.setFld c.preq 0 1 1) 1 1 frz.toNat }.takePreq

/-- PREEMPTION_REQUEST (R323). -/
def execPreemptionRequest (uid : Nat) (frz : Bool) (s : State) : Out :=
  .next (s.onCtx uid fun s => s.mapCtx fun c => c.request frz)

/-- PREQ_WRITE (R323): REQ and FRZ are written; a request begins pre-emption, and has no effect while STATE is not 0. -/
def execPreqWrite (v : Word) (s : State) : Out :=
  .next (s.mapCtx fun c =>
    if c.preqState != 0 && v.getLsbD 0 then c else { c with preq := Bits.setFld c.preq 0 2 (Bits.fld v 0 2) }.takePreq)

/-! ### Writes that fall due -/

/-- FPST_WRITE (R46): the flags of the same cycle are added at its end. -/
def execFpstWrite (v : Word) (s : State) : Out := .next (s.mapCtx fun c => { c with fpst := v &&& 0x1FFF })

/-- RSEED_WRITE (R43). -/
def execRseedWrite (which : BitVec 2) (v : Word) (s : State) : Out :=
  let x := Fp.seedWrite v
  .next (s.mapCtx fun c =>
    match which.toNat with
    | 0 => { c with rseed0 := x }
    | 1 => { c with rseed1 := x }
    | 2 => { c with rseedm := x }
    | _ => { c with rseeds := x })

/-- UISTAT_WRITE (R284): a clear of EN while ACT is set takes effect after UIRET. -/
def execUistatWrite (v : Word) (s : State) : Out :=
  .next (s.mapCtx fun c =>
    if v.getLsbD 30 then { c with uistat := c.uistat ||| (1 <<< 30), uiclear := false }
    else if c.uiAct then { c with uiclear := true }
    else { c with uistat := Bits.setFld c.uistat 30 1 0 })

/-- RWIN as a write stores it (R407). -/
def rwinWrite (v : Word) : Word :=
  let lg := Bits.fld v 54 6
  let v := v &&& 0x0FFFFFFFFFFF0000
  if lg < 16 || 40 < lg then Bits.setFld v 54 6 0 else v

/-- TKEXP as a write stores it (R407). -/
def tkexpWrite (v : Word) : Word :=
  let rnrt := Bits.fld v 32 20
  let limit := Bits.fld v 0 20
  BitVec.ofNat 64 ((if rnrt = 0 then 100000 else rnrt) * 2 ^ 32 + (if limit = 0 then 1000 else limit))

/-- TRAPREC as a write stores it (R320). -/
def traprecWrite (v : Word) : Word := BitVec.ofNat 64 (min (Bits.fld v 12 9) 383 * 2 ^ 12 + Bits.fld v 0 1)

/-- CONTROL_REGISTER_WRITE (R335): the registers without a row of their own; read-only fields keep their values. (DEDUCED, log 48) -/
def execControlRegisterWrite (num : BitVec 10) (v : Word) (s : State) : Out :=
  .next (s.mapCtx fun c =>
    match num.toNat with
    | 0x001 => { c with ctxstat := (c.ctxstat &&& ~~~0x1A) ||| (v &&& 0x1A) }
    | 0x010 => { c with uivec := v &&& ~~~3 }
    | 0x011 => { c with uipc := v }
    | 0x014 => { c with bcap := v &&& 0x000103FFFFFFFFFF }
    | 0x015 => { c with chst := v &&& chstMask }
    | 0x016 => { c with ldra := v &&& ~~~3 }
    | 0x018 => { c with geomode := v &&& 0xFFFFFFFFFFFF0001 }
    | 0x019 => { c with rwin := rwinWrite v }
    | 0x01A => { c with tkexp := tkexpWrite v }
    | 0x01B => { c with cflim := v &&& 0xF }
    | 0x020 => { c with trapvec := v &&& ~~~3 }
    | 0x021 => { c with traprec := traprecWrite v }
    | 0x022 => { c with faultrec := v &&& ~~~0xFF }
    | _ => c)

/-! ### Reads of the launch unit (R329, R418, R439) -/

/-- What a read of the launch unit finds. -/
inductive LaunchRead where
  | ok (bs : List Byte)
  | park
  | bad
  deriving DecidableEq, Repr

/-- The key of an address for the launch unit: physical, or through the focused context's window table with read permission
(R418, R439). -/
def State.launchKey (s : State) (phys : Bool) (a : Nat) : Except Answer Nat :=
  if phys then
    if 2 ^ 48 ≤ a || frameHole (a / 4096) || s.frameDown (a / 4096) then .error .faulted else .ok (s.frameKey 0 (a / 4096) + a % 4096)
  else if 2 ^ 48 ≤ a then .error .faulted
  else
    match findWindow s.ctx.windows a with
    | none => .error .faulted
    | some w =>
      if !w.allows .read then .error .faulted
      else (s.pageAnswer ⟨0, s.ctx.asn, w.map a / 4096⟩ false).map fun f => s.frameKey 0 f + w.map a % 4096

/-- `n` times 64 bytes from a 64-byte boundary on; a fault prevails over a park. (DEDUCED, log 77) -/
def State.launchBytes (s : State) (phys : Bool) : Nat → Nat → LaunchRead
  | 0, _ => .ok []
  | n + 1, a =>
    match s.launchKey phys a, s.launchBytes phys n (a + 64) with
    | .error .faulted, _ | _, .bad => .bad
    | .error _, _ | _, .park => .park
    | .ok k, .ok bs => .ok (Mem.read s.mem k 64 ++ bs)

/-! ### Window-table updates (R329, R330) -/

/-- An entry of a window image (R200). -/
def winEntry (bs : List Byte) : WinEntry :=
  let w0 := Bits.leNat (bs.take 8)
  let w1 := Bits.leNat (bs.drop 8)
  ⟨BitVec.ofNat 36 (w0 / 2 ^ 12), BitVec.ofNat 4 (w0 / 2 ^ 8), BitVec.ofNat 4 (w0 / 2 ^ 4), BitVec.ofNat 4 w0,
    BitVec.ofNat 28 (w1 / 2 ^ 36), BitVec.ofNat 36 w1⟩

/-- The 64 entries of an image (R200). -/
def winEntries (bs : List Byte) : List WinEntry := (List.range 64).map fun i => winEntry ((bs.drop (16 * i)).take 16)

/-- Two used entries overlap. -/
def WinEntry.overlaps (a b : WinEntry) : Bool :=
  a.npage != 0 && b.npage != 0 && a.vbase.toNat < b.vbase.toNat + b.npage.toNat && b.vbase.toNat < a.vbase.toNat + a.npage.toNat

/-- An entry breaks a rule of R200 by itself. -/
def WinEntry.bad (w : WinEntry) : Bool :=
  w.npage != 0 && (2 ^ 36 < w.vbase.toNat + w.npage.toNat || 2 ^ 36 < w.dbase.toNat + w.npage.toNat || 4 < w.scope.toNat ||
    3 < w.tier.toNat)

/-- Some two entries overlap. -/
def anyOverlap : List WinEntry → Bool
  | [] => false
  | w :: ws => (ws.any w.overlaps) || anyOverlap ws

/-- The launch unit refuses the image (R200). -/
def imageRefused (bs : List Byte) : Bool :=
  ((List.range 64).any fun i => Bits.leNat ((bs.drop (16 * i)).take 8) / 2 ^ 48 != 0) ||
  ((winEntries bs).any WinEntry.bad) || anyOverlap (winEntries bs)

/-- WTBASE.STATUS of the focused context. -/
def Ctx.setWtStatus (c : Ctx) (n : Nat) : Ctx := { c with wtbase := Bits.setFld c.wtbase 0 2 n }

/-- The image that a WTBASE value names, read through the focused context's table by the launch unit (R205, R329). -/
def State.wtImage (s : State) (v : Word) : LaunchRead := s.launchBytes false 16 (v &&& ~~~0x3FF).toNat

/-- A WTBASE write through control space takes its turn behind the update in progress (R329). (DEDUCED, log 125) -/
def State.queueWtbase (s : State) (v : Word) : State :=
  { s.mapCtx fun c => c.putWtbase v with wtQueue := s.wtQueue ++ [(s.ctx.uid, v)] }

/-- An update of the focused context may begin: no other is in progress, none waits before it, and its image is not parked. (DEDUCED, log 125) -/
def State.wtReady (s : State) (v : Word) : Bool :=
  s.wtUpdate.isNone && s.wtImage v != .park && match s.wtQueue with
    | [] => true
    | q :: _ => q == (s.ctx.uid, v)

/-- An update of the focused context begins: a refused image changes no table, a good one is sent to every member of the team (R329). It is
that of the CWR in which S waits, where none waits before it. (DEDUCED, log 125) -/
def State.beginWt (s : State) (v : Word) : State :=
  let own := s.wtQueue = [] && match (s.ctx.slot 0).wait with
    | some (.wtbase w false) => w = v
    | _ => false
  let bs := match s.wtImage v with
    | .ok bs => some bs
    | _ => none
  let s := { s.mapCtx fun c => c.putWtbase v with wtQueue := s.wtQueue.drop 1 }
  match bs.filter fun bs => !imageRefused bs with
  | none =>
    (s.mapCtx fun c => c.setWtStatus 2).when own fun s => s.finishWait 0 []
  | some bs =>
    let team := s.ctx.teamKey
    let members := (s.allCtx.filter fun c => c.teamKey == team && c.run != .empty).map Ctx.uid
    let s := s.when own fun s => s.mapCtx fun c => c.mapSlot 0 fun x => { x with wait := some (.wtbase v true) }
    { s with wtUpdate := some (s.ctx.uid, winEntries bs, members) }

/-- WTBASE_WRITE (R329): the update of the focused context begins when its turn has come and its image can be read. (DEDUCED, log 125) -/
def execWtbaseWrite (v : Word) (s : State) : Out := .next (if s.wtReady v then s.beginWt v else s)

/-- WINDOW_TABLE_ACK (R330): a member, by `input.uid`, takes the new table; the last acknowledgment completes the update. A
power-gated core's table waits at its cluster controller. -/
def execWindowTableAck (s : State) : Out :=
  match s.wtUpdate with
  | none => .next s
  | some (owner, ws, members) =>
    let u := s.input.uid
    if members.contains u then
      let gated := s.gatedCores.any fun g => s.allCtx.any fun c => c.uid == u && c.core == g.1
      let s := if gated then
          { s with gatedCores := s.gatedCores.map fun g =>
              if s.allCtx.any fun c => c.uid == u && c.core == g.1 then (g.1, some ws) else g }
        else s.onCtx u fun s => s.mapCtx fun c => { c with windows := ws }
      let rest := members.filter fun m => m != u
      if rest = [] then
        .next ({ s with wtUpdate := none }.onCtx owner fun s =>
          let s := s.mapCtx fun c => c.setWtStatus 0
          match (s.ctx.slot 0).wait with
          | some (.wtbase _ true) => s.finishWait 0 []
          | _ => s)
      else .next { s with wtUpdate := some (owner, ws, rest) }
    else .next s

/-- CORE_POWER_GATE (R330): the core `input.n`, on which no context runs, is gated. (DEDUCED, log 125) -/
def execCorePowerGate (s : State) : Out :=
  if (s.gatedCores.any fun g => g.1 == s.input.n) || (s.ctx :: s.others).any fun c => c.core = s.input.n && c.run.awake then .next s
  else .next { s with gatedCores := (s.input.n, none) :: s.gatedCores }

/-- A core that is gated and on which a context is to run again (R330). (DEDUCED, log 125) -/
def State.wakeDue (s : State) : Option Nat :=
  (s.gatedCores.find? fun g => (s.ctx :: s.others).any fun c => c.core = g.1 && c.run.awake).map Prod.fst

/-- CORE_WAKE (R330): the core `input.n` wakes and takes a pending window table. -/
def execCoreWake (s : State) : Out :=
  match s.gatedCores.find? fun g => g.1 == s.input.n with
  | none => .next s
  | some (core, ws) =>
    let s := { s with gatedCores := s.gatedCores.filter fun g => g.1 != core }
    match ws with
    | none => .next s
    | some ws =>
      let set (c : Ctx) : Ctx := if c.core = core && c.run != .empty then { c with windows := ws } else c
      .next { s with ctx := set s.ctx, others := s.others.map set }

end Sys2Proof.Machine
end

