-- ==== Sys2Proof/Machine/Grids.lean ====
section
/-! DEFINITION. Grids, teams and the cores they hold: residence (R58, R166, R423), dependences (R422), the end of teams and grids,
swap-out (R424), and the memory of a context that is out (R327). -/

namespace Sys2Proof.Machine

/-! ### Teams and cores -/

/-- A team is the one of a context. -/
def Team.holds (t : Team) (c : Ctx) : Bool := t.grid == c.grid && t.num == c.team

/-- The team of a context. -/
def State.teamOf (s : State) (c : Ctx) : Option Team := s.teams.find? fun t => t.holds c

/-- A team changed. -/
def State.mapTeam (s : State) (grid num : Nat) (f : Team → Team) : State :=
  { s with teams := s.teams.map fun t => if t.grid = grid && t.num = num then f t else t }

/-- The contexts of a team. -/
def State.members (s : State) (grid num : Nat) : List Ctx :=
  s.allCtx.filter fun c => c.run != .empty && c.grid == grid && c.team == num

/-- The contexts of a grid. -/
def State.gridCtxs (s : State) (grid : Nat) : List Ctx := s.allCtx.filter fun c => c.run != .empty && c.grid == grid

/-- A context stands on its core: it is there, and its team has neither ended nor been swapped out (R166). -/
def State.onItsCore (s : State) (c : Ctx) : Bool :=
  c.run != .empty && c.run != .swapped && !((s.teamOf c).any fun t => t.ended || !t.resident)

/-- The context resident on a package core (R440). -/
def State.resident (s : State) (core : Nat) : Option Ctx := s.allCtx.find? fun c => c.core == core && s.onItsCore c

/-- A core is free when no context is placed on it (R423): a context whose team is resident holds it, restored or not. -/
def State.coreFree (s : State) (core : Nat) : Bool :=
  !(s.allCtx.any fun c => c.core == core && c.run != .empty && !((s.teamOf c).any fun t => t.ended || !t.resident))

/-- Every context changed. -/
def State.mapAll (s : State) (f : Ctx → Ctx) : State := { s with ctx := f s.ctx, others := s.others.map f }

/-! ### The memory of a context that is out (R223, R327, R447) -/

/-- The entries of a run of keys moved, poison with them; the bytes left behind read as zero. -/
def State.moveRun (s : State) (lo len dest : Nat) : State :=
  let inside (k : Nat) : Bool := lo ≤ k && k < lo + len
  { s.rekey lo len dest with
    mem := Mem.shift s.mem lo len dest
    poison := (s.poison.filter fun g => !inside g && !(dest ≤ g && g < dest + len)) ++
      (s.poison.filter inside).map fun g => g - lo + dest }

/-- The key of an offset of the image of a context that is out: its pocket, then its tray. (DESIGN CHOICE, log 99) -/
def imageKey (uid off : Nat) : Nat := regionKey (256 + uid) 6 off

/-- Bytes of a tray (R285). -/
def traySize : Nat := 2 ^ 18

/-- A context whose team is swapped out has no core: it keeps its last core's number, 512 above. (DESIGN CHOICE, log 99) -/
def Ctx.isOut (c : Ctx) : Bool := 512 ≤ c.core

/-- The key at which a pocket offset of a context stands. (DESIGN CHOICE, log 99) -/
def Ctx.pocketAt (c : Ctx) (off : Nat) : Nat := if c.isOut then imageKey c.uid off else pocketKey c.core off

/-- The key at which a byte of a tray slot of a context stands. -/
def Ctx.trayAt (c : Ctx) (slot off : Nat) : Nat :=
  if c.isOut then imageKey c.uid (pocketSize + slot * 2 ^ 14 + off) else trayKey c.core slot off

/-- A byte key of the pocket that begins at `lo` taken to the one that begins at `dest`. -/
def rehomeKey (lo dest k : Nat) : Nat := if lo ≤ k && k < lo + pocketSize then k - lo + dest else k

/-- A request to a byte of its sender's own pocket, which moves. -/
def Req.rehome (lo dest : Nat) (r : Req) : Req :=
  match r.place with
  | .port k => { r with place := .port (rehomeKey lo dest k) }
  | _ => r

/-- A memory action of a context whose pocket moves. -/
def MemOp.rehome (lo dest : Nat) (m : MemOp) : MemOp :=
  match m with
  | .send r => .send (r.rehome lo dest)
  | .mst j => .mst { j with dest := j.dest.rehome lo dest, fold := j.fold.map (Req.rehome lo dest) }
  | m => m

/-- A sequencer of a context whose pocket moves. -/
def Pipe.rehome (lo dest : Nat) (p : Pipe) : Pipe :=
  { p with slots := p.slots.map fun x =>
      { x with
        flights := x.flights.map fun f => { f with mem := f.mem.map (MemOp.rehome lo dest) }
        wait := x.wait.map fun
          | .acq r (.port k) ea n d sc => .acq r (.port (rehomeKey lo dest k)) ea n d sc
          | w => w } }

/-- What a context holds of its own pocket's keys, when the pocket moves. (DESIGN CHOICE, log 99) -/
def Ctx.rehome (lo dest : Nat) (c : Ctx) : Ctx :=
  { c with
    pipe := c.pipe.rehome lo dest
    trapped := c.trapped.map fun t => (t.1.rehome lo dest, t.2)
    uiSaved := c.uiSaved.map fun t => (t.1.rehome lo dest, t.2)
    releases := c.releases.map fun
      | .rel i q p => .rel i (q.rehome lo dest) p
      | r => r }

/-- Pocket and tray of the focused context leave its core; its writes are performed at DOMAIN scope (R223). (DESIGN CHOICE, log 99) -/
def State.takeOut (s : State) : State :=
  let c := s.ctx
  let s := s.performAtScope (some c) c.seat 4 ((s.history.filter fun w => w.agent == .ctx c.uid).map Past.whole)
  ((s.moveRun (pocketKey c.core 0) pocketSize (imageKey c.uid 0)).moveRun (trayKey c.core 0 0) traySize
    (imageKey c.uid pocketSize)).mapCtx fun c =>
      { c.rehome (pocketKey c.core 0) (imageKey c.uid 0) with core := c.core + 512 }

/-- Pocket and tray of the focused context, which is out, come to a core. (DESIGN CHOICE, log 99) -/
def State.bringIn (s : State) (core : Nat) : State :=
  let c := s.ctx
  ((s.moveRun (imageKey c.uid 0) pocketSize (pocketKey core 0)).moveRun (imageKey c.uid pocketSize) traySize
    (trayKey core 0 0)).mapCtx fun c => { c.rehome (imageKey c.uid 0) (pocketKey core 0) with core := core }

/-! ### Permits (R428) -/

/-- The class a context holds is no longer counted against the budget. (DEDUCED, log 109) -/
def State.releasePermit (s : State) (c : Ctx) : State := { s with budget := s.budget - c.heldClass }

/-! ### Dependences (R422) -/

/-- A dependence on number `n` of counter `tc` of a grid. -/
inductive DepState where
  | met | waits | failed
  deriving DecidableEq, Repr

/-- Where a dependence stands. -/
def State.depState (s : State) (grid tc n : Nat) : DepState :=
  if !(s.grids.any fun g => g.id == grid) then .met
  else
    let cs := s.gridCtxs grid
    let poisoned (c : Ctx) : Bool := (c.tcval tc).poison != 0 && (c.tcval tc).poison ≤ n
    if cs.any fun c => c.run == .stopped || poisoned c then .failed
    else
      let unplaced := s.teams.any fun t => t.grid == grid && !t.ended && !(cs.any fun c => t.holds c)
      if (cs.all fun c => c.run.over || n ≤ (c.tcval tc).done) && (n = 0 || !unplaced) then .met else .waits

/-- A launch-error entry of the steward error queue of a die (R438 TYPE 0x04). -/
def State.launchError (s : State) (die cause grid detail : Nat) : State :=
  s.pushErr die 0x04 0 (Bits.natLe 8 cause ++ Bits.natLe 8 grid ++ Bits.natLe 8 detail)

/-- A grid leaves the live ones; its fabric group's set does not shrink (R452). (DEDUCED, log 78) -/
def State.destroyGrid (s : State) (grid : Nat) : State :=
  let size (fg : Nat) : Nat := (((s.grids.filter fun g => g.fgroup == fg).map Grid.groupSize).foldl max 0)
  { s with
    grids := (s.grids.filter fun g => g.id != grid).map fun g => if g.fgroup = 0 then g else { g with groupSize := size g.fgroup }
    teams := s.teams.filter fun t => t.grid != grid }

/-- Waiting grids with a failed dependence are destroyed, with a launch-error record of cause 0x08 on the accepting die (R422).
(DEDUCED, log 78) -/
def State.settleDeps (s : State) : State :=
  s.grids.foldl (fun s g =>
    if g.eligible then s
    else
      match g.deps.find? fun d => s.depState d.2.1 d.2.2.1 d.2.2.2 == .failed with
      | some d => (s.destroyGrid g.id).launchError g.die 0x08 g.id d.1
      | none => s) s

/-! ### The end of teams and grids (R166) -/

/-- What the members of a grid of a fabric group did counts for the group's later supersteps when the grid is no longer live (R222, R452).
(DESIGN CHOICE, log 76) -/
def State.releaseEnded (s : State) (grid : Nat) : State :=
  match s.grids.find? fun g => g.id == grid && g.fgroup != 0 with
  | some g => (s.gridCtxs grid).foldl (fun s c => s.overRelease (.ended g.fgroup) 4 c) s
  | none => s

/-- A grid whose teams have all ended is no longer live, and its contexts are gone. -/
def State.endGrid (s : State) (grid : Nat) : State :=
  if s.teams.any fun t => t.grid == grid && !t.ended then s
  else ((s.releaseEnded grid).destroyGrid grid).mapAll fun c => if c.grid = grid && c.run.over then { c with run := .empty } else c

/-- A team whose members have all halted or stopped ends, and its cores are free. -/
def State.endTeam (s : State) (grid num : Nat) : State :=
  if (s.members grid num).all fun c => c.run.over then
    let s := s.mapTeam grid num fun t => { t with ended := true, resident := false, leaving := false }
    { s with barriers := s.barriers.filter fun b => b.team != (grid, num) }.endGrid grid
  else s

/-! ### Swap-out (R424) -/

/-- A resident team is asked to leave: pre-emption with FRZ = 0 of every member that goes on. (DEDUCED, log 53) -/
def State.swapOut (s : State) (grid num : Nat) : State :=
  (s.mapTeam grid num fun t => { t with leaving := true }).mapAll fun c =>
    if c.grid = grid && c.team = num && c.run = .running then c.request false else c

/-- A team is being swapped out (R424). -/
def State.teamLeaves (s : State) (grid num : Nat) : Bool := s.teams.any fun t => t.grid == grid && t.num == num && t.leaving

/-- A debugger's freeze keeps a context on its core (R325). (DEDUCED, log 53) -/
def Ctx.keepsCore (c : Ctx) : Bool := c.run == .frozen && (c.dbgCode.isSome || c.preq.getLsbD 1)

/-- A leaving team whose members are all frozen, or over, leaves its cores as a whole, and waits from now on (R58, R424). (DEDUCED, log 53) -/
def State.settleSwap (s : State) (grid num : Nat) : State :=
  let ms := s.members grid num
  if s.teamLeaves grid num && ms.all fun c => c.run.over || (c.run == .frozen && !c.keepsCore) then
    let s := ms.foldl (fun s c =>
      (if c.run == .frozen then s.releasePermit c else s).onCtx c.uid fun s =>
        s.takeOut.mapCtx fun c => if c.run == .frozen then { c with run := .swapped } else c) s
    s.mapTeam grid num fun t => { t with leaving := false, resident := false, swapped := true, since := s.clock }
  else s

/-- The effective priority of a waiting team: PRIO and one for every 50 ms it has waited (R424). -/
def State.effective (s : State) (t : Team) : Nat := min 7 (t.prio + (s.clock - t.since) / (50000 * s.usCycles t.die))

/-- A team of equal or higher effective priority waits for cores of the die (R338). -/
def State.rivalWaits (s : State) (die eff : Nat) : Bool :=
  s.teams.any fun t => t.die == die && !t.ended && !t.resident && eff ≤ s.effective t &&
    (s.grids.any fun g => g.id == t.grid && g.eligible)

end Sys2Proof.Machine
end

