-- ==== Sys2Proof/Machine/Perform.lean ====
section
/-! DEFINITION. Results that fall due (R74 to R76): registers written, pocket accesses performed in bundle order (R213), requests
sent, landing entries written (R79, R80). -/

namespace Sys2Proof.Machine

/-- The state of a meaning that always goes on. -/
def Out.state (o : Out) (s : State) : State :=
  match o with
  | .next s' => s'
  | _ => s

/-- A CWR falls due: the register's own meaning (R335). -/
def State.writeControl (s : State) (n : Nat) (v : Word) : State :=
  let s := s.mapCtx fun c => { c with crNow := n :: c.crNow }
  (match n with
    | 0x008 => execFpstWrite v s
    | 0x009 => execRseedWrite 0 v s
    | 0x00A => execRseedWrite 1 v s
    | 0x00B => execRseedWrite 2 v s
    | 0x00D => execRseedWrite 3 v s
    | 0x012 => execUistatWrite v s
    | 0x023 => execPreqWrite v s
    | 0x024 => .next (s.queueWtbase v)
    | _ => execControlRegisterWrite (BitVec.ofNat 10 n) v s : Out).state s

/-- A GEOMODE count of the field at `lo` advanced, saturating (R396). -/
def escAdd (g : Word) (lo n : Nat) : Word := Bits.setFld g lo 24 (min (Bits.fld g lo 24 + n) (2 ^ 24 - 1))

/-- One effect of a result of slot `k` that falls due; `act` tells whether a completion-interrupt handler issued it (R282). -/
def State.applyEff (act : Bool) (k : Slot) (s : State) (e : Eff) : State :=
  match e with
  | .reg r v => s.mapCtx fun c => c.writeReg act k r v
  | .vec d v m => s.mapCtx fun c =>
      { c.cleanReg ⟨.v, d⟩ fun w => m.extractLsb' (64 * w) 64 == BitVec.allOnes 64 with
        vreg := c.vreg.setIfInBounds d (Bits.merge m v (c.vval d)) }
  | .latch d v po => s.mapCtx fun c =>
      po.foldl (fun c w => c.soilReg ⟨.sl, d⟩ w) { c.cleanReg ⟨.sl, d⟩ fun _ => true with slreg := c.slreg.setIfInBounds d v }
  | .flags f => s.mapCtx fun c => { c with fpnow := c.fpnow ||| f }
  | .outside n d v =>
    let (bs, s) := s.traced 3 n (Bits.wordLe v)
    s.mapCtx fun c => c.writeReg act k ⟨.s, d⟩ (Bits.leWord bs)
  | .cwr n v => s.writeControl n v
  | .chst v => s.mapCtx fun c => c.putChst v
  | .esc a b => s.mapCtx fun c =>
      if c.crNow.contains 0x018 then c else { c with geomode := escAdd (escAdd c.geomode 16 a) 40 b }
  | .release i => (s.mapCtx fun c => c.releaseSlot i).settleTray

/-- The effects of a result in order. -/
def State.applyEffs (act : Bool) (k : Slot) (s : State) (es : List Eff) : State :=
  es.foldl (fun s e => s.applyEff act k e) s

/-! ### Read-modify-write (R263, R264, R408) -/

/-- The new value of an atomic at memory. -/
def atomNew (op : AtomOp) (ty len old v cmp : Nat) : Nat :=
  let m := 2 ^ (8 * len)
  match op with
  | .add => (old + v) % m
  | .and => old &&& (v % m)
  | .or => old ||| (v % m)
  | .xor => old ^^^ (v % m)
  | .min => if srcInt ty old ≤ srcInt ty v then old else v % m
  | .max => if srcInt ty v ≤ srcInt ty old then old else v % m
  | .xchg => v % m
  | .fadd => (rounded (Fp.ofCode ty) .rne (Fp.add .rne (Fp.decode (Fp.ofCode ty) old) (Fp.decode (Fp.ofCode ty) (v % m)))).1
  | .fmin => (fpMinMax false (Fp.ofCode ty) old (v % m)).1
  | .fmax => (fpMinMax true (Fp.ofCode ty) old (v % m)).1
  | .cas => if old = cmp % m then v % m else old
  | .swapZero => 0

/-- The bytes an action reaches. -/
def Action.size : Action → Nat
  | .read n => n
  | .write bs => bs.length
  | .atom _ _ n _ _ => n

/-- An action of an origin performed on the bytes of `rs`: the state, the answer, and whether poison stopped it (R447). A read returns what
it sees (R212); an atomic acts at its scope as its window narrows it (R203). (DESIGN CHOICE, log 11) -/
def State.performAt (s : State) (o : Origin) (a : Action) (rs : List (Nat × Nat)) : State × List Byte × Bool :=
  match a with
  | .read n => if s.poisonedRuns rs then (s, [], true) else (s.readBy o (unitOf n) rs, s.seeRuns o (unitOf n) rs, false)
  | .write bs => (s.recorded o rs fun s => s.writeRuns rs bs, [], false)
  | .atom op ty len v cmp =>
    if s.poisonedRuns rs then (s, [], true)
    else
      let o := { o with atomic := o.atomic.map (s.scopeFor o.agent ((rs.head?.map Prod.fst).getD 0)) }
      let old := s.seeRuns o len rs
      ((s.brought o len rs).recorded o rs fun s =>
        s.writeRuns rs (Bits.natLe len (atomNew op ty len (Bits.leNat old) v cmp)), old, false)

/-- An atomic completes, and is performed at its scope (R221, R265, R270). -/
def State.atomicDone (s : State) (uid req : Nat) : State :=
  s.history.foldl (fun s w =>
    if w.origin.req = req && w.agent == .ctx uid then
      match w.origin.atomic with
      | some sc => s.performAtScope (s.ctxOf uid) (s.seatOf (.ctx uid)) sc [w.whole]
      | none => s
    else s) s

/-! ### Landing entries (R79, R80) -/

/-- The effects of landing data (R226, R229, R265). -/
def landEffs (d : LandDst) (bs : List Byte) : List Eff :=
  let x := Bits.leNat bs
  if d.reg.file = .v then [.vec d.reg.num (BitVec.ofNat 2048 x) (BitVec.allOnes 2048)]
  else if d.pair then (if d.reg.num = 0 then [] else [.reg d.reg (BitVec.ofNat 64 x), .reg ⟨.s, d.reg.num + 1⟩ (BitVec.ofNat 64 (x / 2 ^ 64))])
  else [.reg d.reg (loadVal d.ty x)]

/-- The register bytes of landing effects, and the effects with those bytes replaced, for record mode (R431). -/
def Ctx.effBytes (c : Ctx) (es : List Eff) : List Byte :=
  es.flatMap fun e => match e with
    | .reg _ v => Bits.wordLe v
    | .vec d v m => Bits.natLe 256 (Bits.merge m v (c.vval d)).toNat
    | _ => []

/-- Landing effects with their register bytes taken from `bs`. -/
def effReplace : List Eff → List Byte → List Eff
  | [], _ => []
  | .reg r _ :: es, bs => .reg r (Bits.leWord (bs.take 8)) :: effReplace es (bs.drop 8)
  | .vec d _ m :: es, bs => .vec d (BitVec.ofNat 2048 (Bits.leNat (bs.take 256))) m :: effReplace es (bs.drop 256)
  | e :: es, bs => e :: effReplace es bs

/-- DEST of a landing item (R431): file and register. -/
def landDest (r : Reg) : Nat :=
  (match r.file with
    | .a => 1
    | .v => 2
    | _ => 0) * 256 + r.num

/-- A landing entry's data written to its register, and the entry freed (R79, R431). One whose request was not sent, as the trace was to
give its data, sends it when the replay has diverged (R432). -/
def State.landWrite (s : State) (e : Landing) (es : List Eff) : State :=
  let s := s.mapCtx fun c => { (c.keepOld e.slot es) with landings := c.landings.filter fun x => x.id != e.id }
  match e.dst with
  | none => s.applyEffs e.act e.slot es
  | some d =>
    let (bs, s) := if s.ctx.trMode = 0 || e.arrival then ([], s) else s.traced 0 (landDest d.reg) (s.ctx.effBytes es)
    match (if s.ctx.replaying then none else e.unsent) with
    | some r =>
      (s.mapCtx fun c => { c with landings := c.landings ++ [{ e with data := none, pend := true, unsent := none }] }).send r
    | none =>
      let s := s.applyEffs e.act e.slot (if s.ctx.trMode = 0 || e.arrival then es else effReplace es bs)
      s.mapCtx fun c => e.poison.foldl (fun c w => c.soilReg d.reg w) c

/-- A context whose results are written: not stopped, frozen or swapped out (R316, R325). -/
def Run.moving : Run → Bool
  | .running | .halting | .draining => true
  | _ => false

/-- A context whose results that have fallen due are written: one that freezes performs its writes (R450). -/
def Run.writes (r : Run) : Bool := r.moving || r == .freezing

/-- An answer has come to its die (R399). -/
def State.answered (s : State) (r : Resp) : Bool := r.time.any fun t => t ≤ s.clock

/-- The data of a landing entry of the focused context has come: a pending register is written at once (R80); an entry in the
replay buffer keeps it (R316). -/
def State.landData (s : State) (id : Nat) (es : List Eff) : State :=
  match s.ctx.landings.find? fun e => e.id == id with
  | some e =>
    if e.pend && s.ctx.run.moving then s.landWrite e es
    else s.mapCtx fun c =>
      { c with landings := c.landings.map fun x => if x.id = id then { x with data := some es } else x }
  | none =>
    s.mapCtx fun c =>
      { c with
        replay := c.replay.map fun x => if x.id = id then { x with data := some es } else x }

/-- The answer of a landing request given to its entry. -/
def State.deliver (s : State) (id : Nat) (bs : List Byte) : State :=
  match (s.ctx.landings ++ s.ctx.replay).find? fun e => e.id == id with
  | some e => s.landData id ((e.dst.map fun d => landEffs d bs).getD [])
  | none => s

/-- The registers that a landing entry writes; a pair named by s0 is discarded (R263, R265). -/
def Landing.regs (e : Landing) : List Reg :=
  match e.dst with
  | some d => if d.pair && d.reg.num != 0 then [d.reg, ⟨.s, d.reg.num + 1⟩] else [d.reg]
  | none => []

/-- The registers that are pending (R80): no operation that reads or writes one issues. One that was pending when a handler was
entered stays pending in it, but for those that the handler has of its own (R282, R316, R317). (DEDUCED, log 121) -/
def Ctx.pendingRegs (c : Ctx) : List Reg :=
  ((c.landings.filter fun e => e.pend).flatMap fun e => e.regs.filter fun r => !shadowedReg r || e.act = c.uiAct) ++
    (((c.replay.filter fun e => e.pend).flatMap Landing.regs).filter fun r => !shadowedReg r)

/-! ### Errors found after address generation -/

/-- An error reported to the focused context (R206, R322, R447). (DEDUCED, log 111) -/
def State.lateError (s : State) (idx : Nat) (k : Slot) (site : Site) (cls cause : Byte) (addr : Word) : State :=
  let r : Raised :=
    { idx := idx, slot := k.val, cls := cls, cause := cause, smask := slotMask k.val, code := 0, detail := 0, addr := addr, site := site, ctxf := [], opnds := []
      completed := false, late := true }
  s.mapCtx fun c => { c with raised := c.raised ++ [r] }

/-- A context that can still be stopped by an error. -/
def Run.alive : Run → Bool
  | .empty | .halted | .stopped => false
  | _ => true

/-- An error of a request, reported to its context while that is alive. (DEDUCED, log 111) -/
def State.reqError (s : State) (r : Req) (cls cause : Byte) : State :=
  s.onCtx r.uid fun s => if s.ctx.run.alive then s.lateError r.idx r.slot r.site cls cause r.ea else s

/-! ### Pocket accesses in bundle order (R213) -/

/-- The byte keys that a memory action reaches in the pocket of the executing core. -/
def MemOp.keys (core : Nat) (m : MemOp) : List (Nat × Nat) :=
  let lo := pocketKey core 0
  let hi := pocketKey core pocketSize
  let ofReq (r : Req) (n : Nat) : List (Nat × Nat) :=
    match r.place with
    | .port k => if lo ≤ k && k < hi then [(k, n)] else []
    | _ => []
  match m with
  | .ld _ _ off len => [(lo + off, len)]
  | .st ws => ws.map fun w => (lo + w.1, w.2.length)
  | .vld _ ls => ls.map fun l => (lo + l.2, 4)
  | .vhadd _ ls => ls.map fun l => (lo + l.1, 4)
  | .qld _ off => [(lo + off, 64)]
  | .tld _ off len _ => [(lo + off, len)]
  | .cord n off => [(lo + off, 4 * n)]
  | .send r => ofReq r r.act.size
  | .mst j => ofReq j.dest (64 * rowBytes j.dt) ++ ((j.fold.map fun r => ofReq r 4).getD [])
  | .tcon t _ => [(lo + t.base, 2 * t.cap)]

/-- The byte keys of that pocket that a memory action writes. -/
def MemOp.writeKeys (core : Nat) (m : MemOp) : List (Nat × Nat) :=
  match m with
  | .tcon t _ => [(pocketKey core 0 + t.base + (1 - t.cur) * t.cap, t.cap)]
  | m => if m.isWrite then m.keys core else []

/-- A memory action in flight: issue, slot, and the flight. -/
abbrev Pending := Nat × Nat × Flight

/-- Order of bundles, and of slots within one (R213). -/
def Pending.before (a b : Pending) : Bool := a.1 < b.1 || (a.1 = b.1 && a.2.1 < b.2.1)

/-- An action put into a list ordered from the latest down. -/
def Pending.insert (p : Pending) : List Pending → List Pending
  | [] => [p]
  | q :: qs => if p.before q then q :: Pending.insert p qs else p :: q :: qs

/-- The memory actions in flight of the focused context before (idx, k), from the latest down. (DEDUCED, log 14) -/
def Ctx.pendingBefore (c : Ctx) (idx k : Nat) : List Pending :=
  let all := (c.pipe.slots.zipIdx).flatMap fun x => (x.1.flights.filter fun f => f.mem.isSome).map fun f => (f.idx, x.2, f)
  (all.filter fun p => p.1 < idx || (p.1 = idx && p.2.1 < k)).foldl (fun acc p => Pending.insert p acc) []

/-- A step of a TCON and a vector access, which are not ordered (R310). -/
def besideTcon (slot : Nat) (m : MemOp) : Bool :=
  (slot = 1 || slot = 2) && match m with
    | .tcon _ _ => true
    | _ => false

/-- Of actions from the latest down, the writes that must be performed before reads of ranges `need`, each of a slot, in bundle order.
(DEDUCED, log 14) -/
def mustPrecede (core : Nat) : List Pending → List (Nat × List (Nat × Nat)) → List Pending → List Pending
  | [], _, acc => acc
  | p :: ps, need, acc =>
    match p.2.2.mem with
    | none => mustPrecede core ps need acc
    | some m =>
      if need.any fun n => !besideTcon n.1 m && rangesMeet n.2 (m.writeKeys core) then
        mustPrecede core ps (if m.isRead then (p.2.1, m.keys core) :: need else need) (p :: acc)
      else mustPrecede core ps need acc

/-- The writes in flight that must be performed before a read of (idx, k). -/
def Ctx.writesAhead (c : Ctx) (idx k : Nat) (ks : List (Nat × Nat)) : List Pending :=
  if ks = [] then [] else mustPrecede c.core (c.pendingBefore idx k) [(k, ks)] []

/-- A read of (idx, k) must follow the result of an array operation or of an MST, which is performed at its due cycle (R302, R310).
(DEDUCED, log 14) -/
def Ctx.arrayAhead (c : Ctx) (idx k : Nat) (ks : List (Nat × Nat)) : Bool := (c.writesAhead idx k ks).any fun p => p.2.2.array

/-- A result of slot `k` that accesses memory waits in the result stage, past its due time: a read for a write that a slot behind it has still
to make, or for the result of an array operation; an access for a release's increment of the bytes, or for a barrier (R74, R213, R214).
(DEDUCED, log 14) -/
def Ctx.holdsBack (c : Ctx) (k : Slot) (f : Flight) : Bool :=
  match f.mem with
  | none => false
  | some m =>
    let ks := m.keys c.core
    c.behindBarrier f.idx || (m.isRead && (c.laggardMeets f.idx k.val (ks != []) || c.arrayAhead f.idx k.val ks)) ||
      c.releases.any fun x => match x with
        | .rel _ q _ => (q.idx < f.idx || (q.idx = f.idx && 0 < k.val)) && rangesMeet (MemOp.keys c.core (.send q)) ks
        | .arv _ _ _ _ _ => false

/-- Slot `k` does not go on: its next cycle would pass the due time of a result that is held back. (DEDUCED, log 14) -/
def Ctx.mustStand (c : Ctx) (k : Slot) : Bool :=
  let x := c.slot k
  x.flights.any fun f => f.due ≤ x.time + 1 && f.mem.isSome && c.holdsBack k f

/-- A landing read while the context replays: it is not sent, and its entry takes its data from the trace when it is written (R432). -/
def State.fromTrace (s : State) (r : Req) (id : Nat) : State :=
  let keep (e : Landing) : Landing := if e.id = id then { e with unsent := some r } else e
  (s.mapCtx fun c => { c with landings := c.landings.map keep, replay := c.replay.map keep }).deliver id (List.replicate r.act.size 0)

/-- A request enters the memory system, but for a landing read while the context replays. -/
def State.sendOut (s : State) (r : Req) : State :=
  match r.act, r.land with
  | .read _, some id => if s.ctx.replaying then s.fromTrace r id else s.send r
  | _, _ => s.send r

/-- A request to the executing core's own pocket is performed as it leaves; any other enters the memory system (R228, R229). -/
def State.depart (s : State) (r : Req) : State :=
  match r.place with
  | .port k =>
    if s.inPocket r.place then
      let (s, bs, bad) := s.performAt r.origin r.act [(k, r.act.size)]
      if bad then s.reqError r 0x24 1
      else
        match r.land with
        | some id => s.deliver id bs
        | none => s
    else s.sendOut r
  | _ => s.sendOut r

/-- The writes of one store, in order; together they clear the poison of a granule that they cover (R447). -/
def State.writeLanes (s : State) (ws : List (Nat × List Byte)) : State :=
  let s := ws.foldl (fun s w => s.writeMem w.1 w.2) s
  if s.poison = [] then s
  else { s with poison := s.poison.filter fun g => !((List.range (granule g)).all fun i =>
    ws.any fun w => w.1 ≤ g + i && g + i < w.1 + w.2.length) }

/-- One VHADD addition: the word and its flags (R195). -/
def vhaddWord (ty old v : Nat) : Nat × Fp.Flags :=
  if ty = 9 then rounded Fp.f32 .rne (Fp.add .rne (Fp.decode Fp.f32 old) (Fp.decode Fp.f32 v)) else ((old + v) % 2 ^ 32, 0)

/-- Offsets of the poisoned words among `len` bytes read from a key on (R303, R447). -/
def State.poisonWords (s : State) (key len : Nat) : List Nat :=
  if s.poison = [] then [] else ((List.range ((len + 7) / 8)).map fun i => 8 * i).filter fun o => s.poisoned (key + o) (min 8 (len - o))

/-- The completed engine writes of bytes are ordered before a tile-checked read of them, which follows the copies that filled its tiles (R82,
R260). -/
def State.tileFollows (s : State) (a : Agent) (key len : Nat) : State :=
  s.learn a 0 ((s.history.filter fun w => w.span.any (fun r => r.1 < key + len && key < r.1 + r.2) && (match w.agent with
    | .engine u tc n => (s.ctxOf u).all fun c => n ≤ (c.tcval tc).done
    | _ => false)).map Past.whole)

/-- `len` bytes of the pocket as a read of an origin sees them from a key on in units of `u` bytes, tile-checked or not (R82, R212).
(DESIGN CHOICE, log 11) -/
def State.pocketLook (s : State) (o : Origin) (chk : Bool) (u key len : Nat) (fresh : Bool := false) : List Byte :=
  (if chk && !s.plainly o then s.tileFollows o.agent key len else s).see o u key len fresh

/-- `n` words of a contraction-order program at a pocket offset. -/
def State.orderAt (s : State) (o : Origin) (chk : Bool) (off n : Nat) : List W32 :=
  (List.range n).map fun i => BitVec.ofNat 32 (Bits.leNat (s.pocketLook o chk 4 (pocketKey s.ctx.core (off + 4 * i)) 4))

/-- A TLD's fill (R289): the contents with their poison, and the header; an item of record mode (R431). -/
def State.fillTray (s : State) (o : Origin) (slot : Nat) (bytes : List Byte) (poison : List Nat) (swz : BitVec 4) : State :=
  let (bs, s) := s.traced 2 (16384 * slot) bytes
  let key := trayKey s.ctx.core slot 0
  let s := poison.foldl (fun s o => s.poisonAt (key + o)) (s.recorded o [(key, bs.length)] fun s => s.writeMem key bs)
  s.mapCtx fun c => c.mapHead slot fun h => { h with swz := swz, len := bytes.length }

/-- The contraction-order program as a CORD records it (R308). -/
def Ctx.setOrder (c : Ctx) (ws : List W32) : Ctx := { c with orderLen := ws.length, order := ws }

/-- An origin does not see an engine's write of a byte that it need not see (R196, R216). -/
def State.passesOver (s : State) (o : Origin) (key : Nat) : Bool :=
  match s.viewOf o.agent key with
  | some (.before n) => s.tagOf o none key = some n
  | some (.coming _ _) | some (.free _) => true
  | none => false

/-- A lane of a VHADD: the word with the addend and its flags; where an engine's write of the word is not seen, it stands over the sum
(R195, R196). (DESIGN CHOICE, log 12) -/
def State.vhaddLane (s : State) (o : Origin) (ty key v : Nat) : State × Fp.Flags :=
  let (w, fl) := vhaddWord ty (Bits.leNat (s.see o 4 key 4 true)) v
  if s.views != [] && (List.range 4).any fun i => s.passesOver o (key + i) then (s, fl)
  else (s.recorded o [(key, 4)] fun s => s.writeMem key (Bits.natLe 4 w), fl)

/-- A memory action of slot `k` performed: the register effects it yields. (DEDUCED, log 43) -/
def State.performOp (s : State) (k : Slot) (f : Flight) (m : MemOp) : State × List Eff :=
  let pk (off : Nat) : Nat := pocketKey s.ctx.core off
  let o := s.originOf f.idx k.val
  let chk := f.site.word.getLsbD 30
  let rd (u off len : Nat) (fresh : Bool) : List Byte := s.pocketLook o chk u (pk off) len fresh
  let poison (addr : Nat) : State × List Eff :=
    (s.lateError f.idx k f.site 0x24 1 (BitVec.ofNat 64 (0x80FF800000000000 + addr)), [])
  match m with
  | .ld reg ty off len =>
    if s.poisoned (pk off) len then poison off else (s, [.reg reg (loadVal ty (Bits.leNat (rd len off len false)))])
  | .st ws =>
    (s.recorded o (ws.map fun w => (pk w.1, w.2.length)) fun s => s.writeLanes (ws.map fun w => (pk w.1, w.2)), [])
  | .vld d ls =>
    (match ls.find? fun l => s.poisoned (pk l.2) 4 with
      | some l => poison l.2
      | none =>
        let fs := ls.map fun l => (32 * l.1, 32, Bits.leNat (rd 4 l.2 4 true))
        let (v, mask) := scatter fs
        (s, [.vec d v mask]))
  | .vhadd ty ls =>
    (match ls.find? fun l => s.poisoned (pk l.1) 4 with
      | some l => poison l.1
      | none =>
        let (t, fl) := ls.foldl (fun (acc : State × Fp.Flags) l =>
          let (t, fl) := acc.1.vhaddLane o ty (pk l.1) l.2.toNat
          (t, acc.2 ||| fl)) (s, 0)
        (t, [.flags (flagsV fl)]))
  | .qld d off =>
    (s, [.latch d (BitVec.ofNat 512 (Bits.leNat (rd 1 off 64 false))) ((s.poisonWords (pk off) 64).map fun o => o / 8)])
  | .tld slot off len swz => (s.fillTray o slot (rd 1 off len false) (s.poisonWords (pk off) len) swz, [])
  | .cord n off =>
    if s.poisoned (pk off) (4 * n) then poison off else (s.mapCtx fun c => c.setOrder (s.orderAt o chk off n), [])
  | .send r => (s.depart r, [])
  | .mst j =>
    let t := s.mstTile j
    let (bs, fl) := mstBytes j t
    let s := s.depart { j.dest with act := .write bs }
    let s := match j.fold with
      | some r => s.depart { r with act := .atom .max 7 4 (mstFold t) 0 }
      | none => s
    (s, [.flags fl])
  | .tcon t n => (s.performStep o (some n) t, [])

/-- A write performed ahead of its due cycle, because a later read of its bytes is performed: its register effects keep their due
cycle. -/
def State.resolve (s : State) (p : Pending) : State :=
  match p.2.2.mem with
  | none => s
  | some m =>
    let k : Slot := Fin.ofNat 7 p.2.1
    let (s, es) := s.performOp k p.2.2 m
    s.mapCtx fun c => c.mapSlot k fun x =>
      { x with flights := x.flights.map fun f => if f = p.2.2 then { f with mem := none, effs := f.effs ++ es } else f }

/-- A memory action of slot `k` performed, a read after every earlier write of its context to the same bytes (R213). (DEDUCED, log 14) -/
def State.perform (s : State) (k : Slot) (f : Flight) (m : MemOp) : State × List Eff :=
  let s := if m.isRead then (s.ctx.writesAhead f.idx k.val (m.keys s.ctx.core)).foldl State.resolve s else s
  s.performOp k f m

/-- The writes of its context that a read made at issue of `n` bytes from key `k` on must follow, performed (R213). (DEDUCED, log 14) -/
def State.ahead (s : State) (k n : Nat) : State :=
  (s.ctx.writesAhead s.ctx.now.issue.idx s.k.val [(k, n)]).foldl State.resolve s

/-- TLD (R289, R290): its header is read at issue, after the earlier writes of its context to those bytes (R213). (DEDUCED, log 38)
(DESIGN CHOICE, log 11) -/
def execTld (f : MForm) (s : State) : Out :=
  let ea := s.eaStd f 256
  .next (s.memForm f ea fun s =>
    let a := ea &&& ~~~3
    s.withPlace ⟨.read, 64, false, true⟩ a fun p s =>
      let off := s.pocketOff p
      let key := pocketKey s.ctx.core off
      let idx := s.ctx.now.issue.idx
      let lagging := s.ctx.behindBarrier idx || s.ctx.arrayAhead idx s.k.val [(key, 64)] || s.ctx.lags idx s.k.val fun j m o =>
        (reach o).any Prod.snd && !(j.idx = idx && j.sync.getLsbD m && j.sync.getLsbD s.k.val)
      if lagging || (f.chk && !s.ctx.tilesFull off 64) then s.stall
      else
        let s := s.ahead key 64
        let bs := s.pocketLook (s.originOf idx s.k.val) f.chk 1 key 64
        let w := Bits.leNat (bs.take 8)
        let len := Bits.nfld w 32 15
        let bad := Bits.nfld w 47 17 != 0 || Bits.nfld w 9 23 != 0 || len = 0 || 16384 < len || 1 < Bits.nfld w 0 4 ||
          Bits.leNat (bs.drop 8) != 0
        let v := s.rts f.d.toNat
        let slot := Bits.fld v 0 4
        let trap (k : Nat) := s.raise 0x07 0 (trayDetail k 0 f.d.toNat 0 (s.ctx.head slot) 0)
        if !v.getLsbD 7 then trap 3
        else if bad then trap 4
        else
          s.withPlace ⟨.read, len, false, true⟩ (a + 64) fun _ s =>
            if (f.chk && !s.ctx.tilesFull (off + 64) len) || s.ctx.tldPort != 0 then s.stall
            else
              (s.post 72 [] (some (.tld slot (off + 64) len (BitVec.ofNat 4 w)))).mapCtx fun c => { c with tldPort := 72 })

/-! ### RESULT_WRITEBACK (R75) -/

/-- Of results due at or before `t`, the one that comes first: by due time, then by issue (R76). -/
def firstDue (t : Nat) : List (Nat × Nat × (Flight ⊕ Landing)) → Option (Flight ⊕ Landing)
  | [] => none
  | l =>
    (l.foldl (fun (acc : Option (Nat × Nat × (Flight ⊕ Landing))) x =>
      if t < x.1 then acc
      else
        match acc with
        | none => some x
        | some y => if x.1 < y.1 || (x.1 = y.1 && x.2.1 < y.2.1) then some x else acc) none).map fun x => x.2.2

/-- The due time of the first result of slot `k` that is held back. -/
def Ctx.heldFrom (c : Ctx) (k : Slot) : Option Nat :=
  ((c.slot k).flights.filter fun f => f.due ≤ (c.slot k).time && c.holdsBack k f).foldl (fun a f => some (min (a.getD f.due) f.due)) none

/-- The results of slot `k` that wait to be written: its flights, and its landing entries not pending or with their data; past one that
is held back, only writes to memory. -/
def Ctx.waiting (c : Ctx) (k : Slot) : List (Nat × Nat × (Flight ⊕ Landing)) :=
  let held := c.heldFrom k
  let ok (due : Nat) : Bool := held.all fun t => due < t
  (((c.slot k).flights.filter fun f => ok f.due || (f.mem.any MemOp.isWrite && f.effs == [] && !c.holdsBack k f)).map
      fun f => (f.due, f.idx, Sum.inl f)) ++
    ((c.landings.filter fun e => e.slot == k && (!e.pend || e.data.isSome) && ok e.due).map fun e => (e.due, e.idx, Sum.inr e))

/-- A result in flight written. -/
def State.writeFlight (s : State) (k : Slot) (f : Flight) : State :=
  let s := s.mapCtx fun c => c.mapSlot k fun x => { x with flights := x.flights.erase f }
  match f.mem with
  | none => (s.mapCtx fun c => c.keepOld k f.effs).applyEffs f.act k f.effs
  | some m =>
    let (s, es) := s.perform k f m
    (s.mapCtx fun c => c.keepOld k (f.effs ++ es)).applyEffs f.act k (f.effs ++ es)

/-- At most `n` results of slot `k` that are due are written, in order; a landing entry without its data becomes pending (R80). -/
def State.writebackN (k : Slot) : Nat → State → State
  | 0, s => s
  | n + 1, s =>
    match firstDue (s.ctx.slot k).time (s.ctx.waiting k) with
    | none => s
    | some (.inl f) => State.writebackN k n (s.writeFlight k f)
    | some (.inr e) =>
      State.writebackN k n (match e.data with
        | some es => s.landWrite e es
        | none => s.mapCtx fun c =>
          { c with landings := c.landings.map fun x => if x.id = e.id then { x with pend := true } else x })

/-- RESULT_WRITEBACK (R75): every result of slot `k` whose due time its slot time has reached. (DEDUCED, log 9) -/
def execResultWriteback (k : Slot) (s : State) : Out := .next (State.writebackN k (s.ctx.waiting k).length s).settleTray

/-- LANDING_DATA_ARRIVAL (R80): the answer `resp` reaches its context: landing data, or the value of the object that an ACQ waits
for (R269), which asks again when the context is stopped meanwhile. -/
def execLandingDataArrival (resp : Nat) (s : State) : Out :=
  match s.resps.find? fun r => r.id == resp && s.answered r with
  | none => .next s
  | some r =>
    let s := ({ s with resps := s.resps.filter fun x => x.id != resp }).atomicDone r.uid r.id
    .next (s.onCtx r.uid fun s =>
      match r.land with
      | some id => s.deliver id r.bytes
      | none =>
        match (s.ctx.slot 0).wait with
        | some (.acq req _ ea n d scope) =>
          let v := Bits.leWord r.bytes
          if req = r.id && n.toNat ≤ v.toNat && s.ctx.run.moving then
            ((r.key.map fun k => s.acquireObject ea k n.toNat scope.toNat).getD s).finishWait 0 [.reg ⟨.s, d⟩ v]
          else s
        | _ => s)

end Sys2Proof.Machine
end

