-- ==== Sys2Proof/Machine/Access.lean ====
section
/-! DEFINITION. Requests at their place: memory ports (R262), the MTUs (R204 to R207), the BAR0 image and control space (R435,
R440), target dies, turnstiles and answers (R225, R405 to R417), and the range probe (R231 to R234). -/

namespace Sys2Proof.Machine

/-! ### The BAR0 image (R435, R448) -/

/-- A BAR0 register by its offset. -/
def State.barReg (s : State) (off : Nat) : Nat :=
  if off = 0 then s.evstat.toNat
  else if off = 8 then s.even.toNat
  else if off = 0x18 then s.bootst.toNat
  else if off = 0x20 then s.resmap.toNat
  else if 0x100 ≤ off && off < 0x200 then
    let (c, u) := s.errCounts ((off - 0x100) / 64) (off % 64 / 8)
    u * 2 ^ 32 + c
  else 0

/-- A byte of the image; offsets that hold nothing read zero. -/
def State.barByte (s : State) (off : Nat) : Byte :=
  if 0x1000 ≤ off && off < 0x9000 then Mem.byte s.mem (mailKey off)
  else BitVec.ofNat 8 (s.barReg (off / 8 * 8) / 256 ^ (off % 8))

/-- A read of the image clears each field of an error counter of which it takes a byte (R448). (DEDUCED, log 137) -/
def State.barRead (s : State) (off n : Nat) : List Byte × State :=
  let meets (a : Nat) : Bool := off < a + 4 && a < off + n
  ((List.range n).map fun i => s.barByte (off + i),
    (List.range 32).foldl (fun s i =>
      let a := 0x100 + 8 * i
      let (c, u) := s.errCounts (i / 8) (i % 8)
      if meets a || meets (a + 4) then s.setErrCounts (i / 8) (i % 8) (if meets a then 0 else c, if meets (a + 4) then 0 else u) else s) s)

/-- The 8 bytes at `reg` as a number, `old` with the bytes of a write that fall into them. -/
def barField (off reg : Nat) (old : Word) (bs : List Byte) : Nat :=
  Bits.leNat ((List.range 8).map fun i =>
    if off ≤ reg + i then bs.getD (reg + i - off) (old.extractLsb' (8 * i) 8) else old.extractLsb' (8 * i) 8)

/-- A write of the image: EVSTAT bits written as ones clear; EVEN takes the bytes written; HEVT sends the host event; the mailbox pages
are memory (R435, R436). -/
def State.barWrite (s : State) (off : Nat) (bs : List Byte) : State :=
  let hit (reg : Nat) : Bool := off < reg + 8 && reg < off + bs.length
  let s := if hit 0 then { s with evstat := s.evstat &&& ~~~(BitVec.ofNat 64 (barField off 0 0 bs)) } else s
  let s := if hit 8 then
      let v := BitVec.ofNat 64 (barField off 8 s.even bs) &&& 0xFF1F
      let fires := s.evstat &&& s.even == 0 && s.evstat &&& v != 0
      { s with even := v, msix := if fires then s.msix + 1 else s.msix }
    else s
  let s := if hit 0x10 && barField off 0x10 0 bs < 8 then { s with hevts := s.hevts ++ [barField off 0x10 0 bs] } else s
  let from' := max off 0x1000
  let page := (bs.drop (from' - off)).take (0x9000 - from')
  if page = [] then s else s.writeMem (mailKey from') page

/-! ### Answers -/

/-- A request is performed, at a key in memory, and leaves the memory system: its data goes back, a RATOM and what merged with it are
acknowledged, an RSTK's ticket lands (R265, R409, R410, R414). -/
def State.respond (s : State) (r : Req) (bs : List Byte) (key : Option Nat := none) : State :=
  let ans (q : Req) : Resp := s.answerTo q bs key none
  let partners := s.reqs.filter fun q => q.state == ReqState.merged r.id
  let s := { s with reqs := s.reqs.filter fun q => q.id != r.id && q.state != ReqState.merged r.id }
  let answers := if r.ratom then ans r :: partners.map ans
    else match r.act with
      | .read _ => [ans r]
      | .atom _ _ _ _ _ => if r.land.isSome then [ans r] else []
      | .write _ => []
  let s := { s with resps := s.resps ++ answers }
  match r.ticket with
  | some h => s.sendMsg 0 ((r.target).getD r.src) r.src r.src h
  | none => s

/-- A request and what merged with it are ended. -/
def State.withMerged (s : State) (r : Req) (f : State → Req → State) : State :=
  (r :: s.reqs.filter fun q => q.state == ReqState.merged r.id).foldl f s

/-- A request and what merged with it end in an error. -/
def State.failReq (s : State) (r : Req) (cls cause : Byte) : State := s.withMerged r fun s q => s.answerError q cls cause

/-- Poison that travelled with the bytes of a write, at the offsets it lay on (R447). -/
def State.poisonRuns (s : State) (rs : List (Nat × Nat)) (offs : List Nat) : State :=
  if offs = [] then s
  else
    let keys := rs.flatMap fun r => (List.range r.2).map fun i => r.1 + i
    offs.foldl (fun s o => match keys[o]? with
      | some k => s.poisonAt k
      | none => s) s

/-- A request that is a REL's increment, of the object at the runs from the value `old` on: its release is made, and the increment, which
nothing acknowledges, is performed at its scope (R218, R221, R270). -/
def State.noteRel (s : State) (r : Req) (rs : List (Nat × Nat)) (old : List Byte) : State :=
  match (s.ctxOf r.uid).bind fun c => c.releases.findSome? fun x => match x with
      | .rel i q p => if q.id = r.id then some (i, p) else none
      | .arv _ _ _ _ _ => none with
  | some (start, p) =>
    (s.releaseObject r.uid start r.scope.toNat r.ea ((rs.head?.map Prod.fst).getD 0) (Bits.leNat old + 1) p).atomicDone r.uid r.id
  | none => s

/-- A request whose bytes are served. (DESIGN CHOICE, log 11) -/
def State.serve (s : State) (r : Req) (rs : List (Nat × Nat)) : State :=
  let (s, bs, bad) := s.performAt r.origin r.act rs
  if bad then
    (match r.target with
      | some _ => s.failReq r 0x25 3
      | none => (s.dropReq r.id).reqError r 0x24 1)
  else ((s.poisonRuns rs r.poison).noteRel r rs bs).respond r bs (rs.head?.map Prod.fst)

/-- A fault or an unsupplied page at the memory side (R205, R206, R405): a global access stops its context, a remote one is
answered receiver-not-ready. -/
def State.faultReq (s : State) (r : Req) : State :=
  match r.target with
  | none => (s.dropReq r.id).reqError r 0x24 1
  | some _ =>
    let b := if r.backoff = 0 then 1 else min (2 * r.backoff) 64
    s.mapReq r.id fun q =>
      { q with backoff := b, since := some ((q.since).getD s.clock), state := .retry (s.clock + b * s.reqUs r) false }

/-- A request served, parked or faulted by the state of its pages (R204). -/
def State.atMemory (s : State) (r : Req) : State :=
  match s.answer r.place r.size r.isWrite with
  | .served rs => s.serve r rs
  | .parked => { s.mapReq r.id fun q => { q with state := .parked s.fresh s.nextNum } with fresh := s.fresh + 1 }
  | .faulted => s.faultReq r

/-- A request that has reached its place and that no earlier access of its context holds back (R213): a remote one was held at its
source. -/
def State.arrived (s : State) (r : Req) : Bool :=
  match r.state with
  | .sent t => t ≤ s.clock && (r.target.isSome || !s.heldByOrder r)
  | _ => false

/-- A context's own control-space access to the BAR0 image (R440). -/
def State.serveBar (s : State) (r : Req) (off : Nat) : State :=
  match r.act with
  | .read n =>
    let (bs, s) := s.barRead off n
    s.respond r bs
  | .write bs => (s.barWrite off bs).respond r []
  | .atom _ _ _ _ _ => s.respond r []

/-- MEMORY_PORT_ACCESS (R262): a request performed at the port of a pocket, basket or hamper, or at a mailbox page. Reads of the wake
words return 0 (R440). -/
def execMemoryPortAccess (req : Nat) (s : State) : Out :=
  match s.req req with
  | none => .next s
  | some r =>
    if !s.arrived r then .next s
    else
      match r.place with
      | .port k => .next (s.serve r [(k, r.size)])
      | .control off =>
        (match off / 2 ^ 48, r.act with
          | 0x00, _ => .next (s.serveBar r (off % 2 ^ 48))
          | 0x20, .read n => .next (s.respond r (List.replicate n 0))
          | _, _ => .next s)
      | _ => .next s

/-- MEMORY_SIDE_ACCESS (R204 to R206). -/
def execMemorySideAccess (req : Nat) (s : State) : Out :=
  match s.req req with
  | none => .next s
  | some r =>
    (match r.place with
      | .virt _ _ => if s.arrived r then .next (s.atMemory r) else .next s
      | _ => .next s)

/-! ### Events on BAR0 registers: `input.flag` tells that request `input.n` of a context makes the access, else the host -/

/-- A control-space request that an event serves. -/
def State.barEvent (s : State) (host : State → State) : State :=
  if s.input.flag then
    match s.req s.input.n with
    | some r =>
      (match r.place with
        | .control off => if s.arrived r && off / 2 ^ 48 = 0 then s.serveBar r (off % 2 ^ 48) else s
        | _ => s)
    | none => s
  else host s

/-- EVSTAT_WRITE (R435): the host writes `input.word`. -/
def execEvstatWrite (s : State) : Out := .next (s.barEvent fun s => s.barWrite 0 (Bits.wordLe s.input.word))

/-- EVEN_WRITE (R435): the host writes `input.word`. -/
def execEvenWrite (s : State) : Out := .next (s.barEvent fun s => s.barWrite 8 (Bits.wordLe s.input.word))

/-- ERROR_COUNTER_READ (R448): the host reads the counter of die `input.die` and kind `input.m`. -/
def execErrorCounterRead (s : State) : Out :=
  .next (s.barEvent fun s => (s.barRead (0x100 + 64 * (s.input.die % 4) + 8 * (s.input.m % 8)) 8).2)

/-- A store of `n` bytes at an offset of the wake words wakes every core whose word it meets (R440, R339). -/
def State.wakeWords (s : State) (off n : Nat) : State :=
  (List.range 512).foldl (fun s core =>
    if off % 4096 < 8 * core + 8 && 8 * core < off % 4096 + n then
      match s.resident core with
      | some c => s.onCtx c.uid fun s => s.mapCtx fun c => { c with wfeLatch := c.wfeLatch ||| 4 }
      | none => s
    else s) s

/-- WAKE_WORD_STORE (R440, R339): a store of a context, `input.n`, or of a steward to the word of core `input.m`. -/
def execWakeWordStore (s : State) : Out :=
  if s.input.flag then
    match s.req s.input.n with
    | some r =>
      (match r.place with
        | .control off =>
          if s.arrived r && off / 2 ^ 48 = 0x20 && r.isWrite then .next ((s.wakeWords off r.size).respond r []) else .next s
        | _ => .next s)
    | none => .next s
  else .next (s.wakeWords (8 * s.input.m) 8)

/-- A control register written with privileged semantics on the focused context (R335, R440). -/
def State.crPut (s : State) (n : Nat) (v : Word) : State := if crWritable n then s.writeControl n v else s

/-- The control register of a core in control space as it reads there (R440): zero with no resident context. -/
def State.ctlReg (s : State) (reg : Nat) : Word :=
  match s.resident (reg / 1024 % 512) with
  | some c => (s.refocus c.uid).crValue (reg % 1024)
  | none => 0

/-- A control register of a core written there; with no resident context the write is ignored. -/
def State.ctlPut (s : State) (reg : Nat) (v : Word) : State :=
  match s.resident (reg / 1024 % 512) with
  | some c => s.onCtx c.uid fun s => s.crPut (reg % 1024) v
  | none => s

/-- `n` bytes read at an offset of the control registers (R440). -/
def State.ctlRead (s : State) (off n : Nat) : List Byte :=
  (List.range n).map fun i => (s.ctlReg ((off + i) / 8)).extractLsb' (8 * ((off + i) % 8)) 8

/-- Bytes written at an offset of the control registers, register by register; a register keeps the bytes not written (R440). -/
def State.ctlWrite (s : State) (off : Nat) (bs : List Byte) : State :=
  (List.range ((off + bs.length - 1) / 8 - off / 8 + 1)).foldl (fun s i =>
    let reg := off / 8 + i
    s.ctlPut reg (BitVec.ofNat 64 (barField off (8 * reg) (s.ctlReg reg) bs))) s

/-- CONTROL_REGISTER_ACCESS (R440): a context's request `input.n`, or a steward's write of `input.word` to register `input.m` of core
`input.die`; with no resident context reads return 0 and writes are ignored. -/
def execControlRegisterAccess (s : State) : Out :=
  if s.input.flag then
    match s.req s.input.n with
    | some r =>
      (match r.place with
        | .control off =>
          if s.arrived r && off / 2 ^ 48 = 0x30 then
            (match r.act with
              | .read len => .next (s.respond r (s.ctlRead (off % 2 ^ 48) len))
              | .write bs => .next ((s.ctlWrite (off % 2 ^ 48) bs).respond r [])
              | .atom _ _ _ _ _ => .next (s.respond r []))
          else .next s
        | _ => .next s)
    | none => .next s
  else .next (s.ctlPut (1024 * s.input.die + s.input.m) s.input.word)

/-! ### Target dies (R225, R405, R410, R414) -/

/-- Stores in the turnstile of a die. -/
def State.heldAt (s : State) (die : Nat) : Nat :=
  (s.reqs.filter fun r => r.target == some die && (match r.state with
    | .held _ => true
    | _ => false)).length

/-- REMOTE_REQUEST_ARRIVAL (R225): a request that is next in its context's order at the target is performed there, held in the
turnstile with its tickets, or answered busy or receiver-not-ready. -/
def execRemoteRequestArrival (req : Nat) (s : State) : Out :=
  match s.req req with
  | none => .next s
  | some r =>
    match r.target with
    | none => .next s
    | some die =>
      if !s.arrived r || s.heldByTarget r then .next s
      else if r.isRstd && r.carried != [] then
        if 256 ≤ s.heldAt die then
          let b := if r.backoff = 0 then 1 else min (2 * r.backoff) 64
          .next (s.mapReq r.id fun q => { q with backoff := b, state := .retry (s.clock + b * s.reqUs r) true })
        else .next (s.mapReq r.id fun q => { q with state := .held s.clock, backoff := 0 })
      else .next (s.atMemory r)

/-- RATOM_HOLD_EXPIRY (R410): a router forwards a RATOM it held. -/
def execRatomHoldExpiry (req : Nat) (s : State) : Out :=
  match s.req req with
  | some r =>
    (match r.state with
      | .merging t =>
        if t ≤ s.clock then
          let (d, s) := s.takeDelay
          .next (s.mapReq req fun q => { q with state := .sent (s.laneTime (s.laneOf r) r.src ((r.target).getD r.src) d) })
        else .next s
      | _ => .next s)
  | none => .next s

/-- RNR_RETRY (R405): the source router sends the access again. -/
def execRnrRetry (req : Nat) (s : State) : Out :=
  match s.req req with
  | some r =>
    (match r.state with
      | .retry t _ =>
        if t ≤ s.clock then .next (s.resend r ((r.target).getD r.src)) else .next s
      | _ => .next s)
  | none => .next s

/-- Receiver-not-ready retries of a request have gone on for TKEXP.RNRT (R405). -/
def State.rnrOver (s : State) (r : Req) : Bool :=
  match r.state, r.since with
  | .retry _ false, some t => t + r.rnrt * s.reqUs r ≤ s.clock
  | _, _ => false

/-- RNR_RETRY_EXHAUSTED (R406). -/
def execRnrRetryExhausted (req : Nat) (s : State) : Out :=
  match s.req req with
  | some r => if s.rnrOver r then .next (s.withMerged r fun s q => s.sourceError q 1) else .next s
  | none => .next s

/-- A remote-access or ticket error of a context that has ended: its record goes to the steward error queue of its die (R406).
(DEDUCED, log 111) -/
def State.queueError (s : State) (r : Resp) (cls cause : Byte) (addr : Word) : State :=
  let x : Raised :=
    { idx := r.idx, slot := r.slot.val, cls := cls, cause := cause, smask := slotMask r.slot.val, code := 0, detail := 0, addr := addr, site := r.site
      ctxf := [], opnds := [], completed := false, late := true }
  let die := ((s.allCtx.find? fun c => c.uid == r.uid).map Ctx.die).getD 0
  s.pushErr die 0x01 r.ctxid ((Ctx.reset.recordHead x).take 136)

/-- REMOTE_RESPONSE_ARRIVAL (R409): an acknowledgment, data or an error comes back to its source (R406). -/
def execRemoteResponseArrival (resp : Nat) (s : State) : Out :=
  match s.resps.find? fun r => r.id == resp && s.answered r with
  | none => .next s
  | some r =>
    let s := { s with resps := s.resps.filter fun x => x.id != resp }
    let s := if r.ratom then (s.atomicDone r.uid r.id).onCtx r.uid fun s => s.mapCtx fun c => { c with ratoms := c.ratoms - 1 } else s
    match r.err with
    | some (cls, cause, addr) =>
      if s.allCtx.any fun c => c.uid == r.uid && c.run.alive then
        .next (s.onCtx r.uid fun s => s.lateError r.idx r.slot r.site cls cause addr)
      else .next (s.queueError r cls cause addr)
    | none => .next s

/-! ### Tickets (R414, R415) -/

/-- A message between dies that has come, taken out. -/
def State.takeMsg (s : State) (kind die origin : Nat) (h : Word) : Option State :=
  (s.ticketMsgs.find? fun m => m.kind = kind && m.die = die && m.origin = origin && m.ticket == h && s.msgThere m).map fun m =>
    { s with ticketMsgs := s.ticketMsgs.erase m }

/-- TICKET_LANDING (R414): releases go out to the destinations, and the entry is free. -/
def execTicketLanding (die : BitVec 8) (ticket : Word) (s : State) : Out :=
  match s.takeMsg 0 die.toNat die.toNat ticket with
  | none => .next s
  | some s => .next (s.closeTicket die.toNat ticket 1)

/-- The stores of a turnstile whose tickets have all been released are performed, in order (R414). -/
def State.releaseHeld (s : State) (die : Nat) : State :=
  s.reqs.foldl (fun s r =>
    match s.req r.id with
    | some q =>
      (match q.state with
        | .held _ => if q.target == some die && q.carried = [] && !s.heldByTarget q then s.atMemory q else s
        | _ => s)
    | none => s) s

/-- TICKET_RELEASE_ARRIVAL (R414): every store to the die that carries the ticket loses it; held ones that wait for no other are
performed. -/
def execTicketReleaseArrival (die origin : BitVec 8) (ticket : Word) (s : State) : Out :=
  match s.takeMsg 1 die.toNat origin.toNat ticket with
  | none => .next s
  | some s =>
    let off (r : Req) : Req :=
      if r.target == some die.toNat && r.src = origin.toNat then { r with carried := r.carried.filter fun h => h != ticket } else r
    .next ({ s with reqs := s.reqs.map off }.releaseHeld die.toNat)

/-- The body of a turnstile entry of a steward error queue (R438 TYPE 0x03). -/
def turnstileBody (reason : Nat) (r : Req) (ticket : Word) (us behind : Nat) : List Byte :=
  let va := match r.place with
    | .remote _ _ d => d
    | _ => 0
  let t := r.src * 2 ^ 56 + Bits.fld ticket 32 16 * 2 ^ 32 + Bits.fld ticket 0 10
  Bits.natLe 8 reason ++ Bits.natLe 8 r.src ++ Bits.natLe 8 va ++ Bits.natLe 8 t ++ Bits.natLe 8 us ++ Bits.natLe 8 behind

/-- Microseconds a held store has been held. -/
def State.heldUs (s : State) (r : Req) : Nat :=
  match r.state with
  | .held t => (s.clock - t) / s.reqUs r
  | _ => 0

/-- A turnstile's entry in the error queue of its die, where that die is of this package. -/
def State.turnstileRecord (s : State) (reason : Nat) (r : Req) (ticket : Word) (behind : Nat) : State :=
  match r.target with
  | some die => if s.pkgOf die = 0 then s.pushErr (localDie die) 0x03 r.ctxid (turnstileBody reason r ticket (s.heldUs r) behind) else s
  | none => s

/-- TICKET_CANCEL (R414): the stores that carry the ticket are discarded and reported. -/
def execTicketCancel (die origin : BitVec 8) (ticket : Word) (s : State) : Out :=
  match s.takeMsg 2 die.toNat origin.toNat ticket with
  | none => .next s
  | some s =>
    let hit := s.reqs.filter fun r => r.target == some die.toNat && r.src = origin.toNat && r.carried.contains ticket
    .next (hit.foldl (fun s r => (s.turnstileRecord 2 r ticket 0).failReq r 0x25 4) s)

/-- A store has been held for longer than its LIMIT (R415). (DEDUCED, log 105) -/
def State.heldTooLong (s : State) (r : Req) : Bool :=
  match r.state with
  | .held t => t + r.limit * s.reqUs r < s.clock
  | _ => false

/-- TURNSTILE_EXPIRY (R415): the store and every access held behind it are discarded and answered with the expiry. (DEDUCED, log 105) -/
def execTurnstileExpiry (req : Nat) (s : State) : Out :=
  match s.req req with
  | none => .next s
  | some r =>
    if s.heldTooLong r then
      let behind := s.reqs.filter fun q => r.beforeAt q && (match q.state with
        | .sent t => t ≤ s.clock
        | .held _ => true
        | _ => false)
      let s := s.turnstileRecord 1 r (r.carried.headD 0) behind.length
      .next ((r :: behind).foldl (fun s q => s.failReq q 0x26 1) s)
    else .next s

/-! ### Parked accesses and pages (R205, R207) -/

/-- The place of a request lies on a page, or on the one of `n` pages from it on. -/
def State.onPages (s : State) (r : Req) (ref : PageRef) (n : Nat) : Bool :=
  let hits (pkg : Nat) (asn : Byte) (d : Nat) : Bool :=
    pkg == ref.pkg && asn == ref.asn && d / 4096 < ref.page + n && ref.page ≤ (d + r.size - 1) / 4096
  match r.place with
  | .virt asn d => hits 0 asn d
  | .remote die asn d => hits (s.pkgOf die) asn d
  | _ => false

/-- The place of a request lies on a page. -/
def State.onPage (s : State) (r : Req) (ref : PageRef) : Bool := s.onPages r ref 1

/-- The place of a request lies on the page of an entry. -/
def State.onEntry (s : State) (r : Req) (p : Page) : Bool := s.onPages r p.ref p.frames

/-- Requests by a number of theirs, ascending. -/
def orderReqs (l : List (Nat × Req)) : List Req :=
  let ins (x : Nat × Req) (acc : List (Nat × Req)) : List (Nat × Req) := (acc.takeWhile fun y => y.1 ≤ x.1) ++ x :: acc.dropWhile fun y => y.1 ≤ x.1
  (l.foldl (fun acc x => ins x acc) []).map Prod.snd

/-- The requests that are parked, in the order in which they arrived at the MTU (R205). -/
def State.parkedReqs (s : State) : List Req :=
  orderReqs (s.reqs.filterMap fun r => match r.state with
    | .parked n _ => some (n, r)
    | _ => none)

/-- The accesses parked on an entry's page, in order of arrival, tried again, or turned into faults (R205). -/
def State.replayParked (s : State) (p : Page) (supplied : Bool) : State :=
  s.parkedReqs.foldl (fun s r =>
    match s.req r.id with
    | some q => if s.onEntry q p then (if supplied then s.atMemory q else s.faultReq q) else s
    | none => s) s

/-- The steward of a die has been released and answers (R20, R444). -/
def State.stewardUp (s : State) (die : Nat) : Bool := s.bootst.getLsbD 0 && !((s.stewards[die]?).map Steward.failed).getD false

/-- The die whose MTUs hold a page: that of the stack of its frame (R21, R23, R204). (DESIGN CHOICE, log 106) -/
def Page.die (p : Page) : Nat :=
  if frameFlash p.frame then (p.frame / 2 ^ 28 - 1) % 4 else if framePool p.frame then poolPort p.frame else p.frame / 2 ^ 24 / 2 % 4

/-- The steward that serves a page answers: that of the die whose MTUs hold it, where that is of this package (R20). -/
def State.servedPage (s : State) (p : Page) : Bool := p.ref.pkg != 0 || s.stewardUp p.die

/-- A reference to a frame more (R207). -/
def State.frameUp (s : State) (f : Nat) : State :=
  { s with frames := (f, (s.frames.lookup f).getD 0 + 1) :: s.frames.filter fun x => x.1 != f }

/-- A reference to a frame less; at zero the frame is queued for reuse (R207). -/
def State.frameFree (s : State) (f : Nat) : State :=
  let n := (s.frames.lookup f).getD 1 - 1
  let rest := s.frames.filter fun x => x.1 != f
  if n = 0 then { s with frames := rest, reuse := s.reuse ++ [f] } else { s with frames := (f, n) :: rest }

/-- Bytes from a key on, as they stood before the accesses from number `from'` on. -/
def State.bytesBefore (s : State) (key len from' : Nat) : List Byte :=
  (s.history.filter fun w => from' ≤ w.num && w.runs.any fun r => (runMeet (r.1, r.2.length) (key, len)).isSome).foldl
    (fun bs w => bs.zipIdx.map fun b => (w.old (key + b.2)).getD b.1) (Mem.read s.mem key len)

/-- `n` frames copied to others, poison with them (R447): as they stood before the accesses from a number on, if one is given. -/
def State.copyFrames (s : State) (pkg src dst n : Nat) (from' : Option Nat := none) : State :=
  let a := s.frameKey pkg src
  let b := s.frameKey pkg dst
  let bs := match from' with
    | some k => s.bytesBefore a (4096 * n) k
    | none => Mem.read s.mem a (4096 * n)
  (s.writeMem b bs).copyPoison a b (4096 * n)

/-- What was written and released in an entry's frames is past, once no mapping holds them (R207). (DESIGN CHOICE, log 106) -/
def State.forgetFrames (s : State) (p : Page) : State :=
  if (s.frames.lookup p.frame).isSome || s.hostmaps.any fun h => p.ref.pkg = 0 && h.2 = p.frame then s
  else s.forget (physKey p.ref.pkg (p.frame * 4096)) (4096 * p.frames)

/-! ### The logs of flash (R22, R209) -/

/-- The pages appended to the log of a flash stack. -/
def State.logHead (s : State) (stack : Nat) : Nat := (s.flashHead[stack]?).getD 0

/-- The frame of a page of the log of a stack, which goes round its stack. (DEDUCED, log 70) -/
def logFrame (stack page : Nat) : Nat := 2 ^ 28 * (stack + 1) + page % 2 ^ 28

/-- The erase block of a page of the log that the log has not begun since its last round. (DEDUCED, log 70) -/
def State.logBlock (s : State) (stack page : Nat) : Option (Nat × Nat) :=
  if page < 2 ^ 28 || (s.logHead stack != 0 && (s.logHead stack - 1) / 2 ^ 14 = page / 2 ^ 14) then none
  else some (stack, page / 2 ^ 14 % 2 ^ 14)

/-- The log can take a page: a block written before must have been reclaimed (R209). -/
def State.logTakes (s : State) (stack page : Nat) : Bool := (s.logBlock stack page).all s.flashFree.contains

/-- The log takes a page, if it has not taken it already. (DEDUCED, log 70) -/
def State.logTake (s : State) (stack page : Nat) : State :=
  if page < s.logHead stack then s
  else
    { s with
      flashFree := s.flashFree.filter fun e => s.logBlock stack page != some e
      flashHead := s.flashHead.setIfInBounds stack (page + 1) }

/-- The log of a stack takes `n` frames from frame `f` on, its next ones; none where they are not. -/
def State.logFrames (s : State) (stack : Nat) : Nat → Nat → Option State
  | 0, _ => some s
  | n + 1, f =>
    if f = logFrame stack (s.logHead stack) && s.logTakes stack (s.logHead stack) then
      (s.logTake stack (s.logHead stack)).logFrames stack n (f + 1)
    else none

/-- Frames that a page can be moved to: any but those of the flash of this package, of which the log gives the next (R22, R209).
(DEDUCED, log 70) -/
def State.targetFrames (s : State) (pkg f n : Nat) : Option State :=
  if pkg = 0 && frameFlash f then s.logFrames (f / 2 ^ 28 - 1) n f else some s

/-- PARKED_ACCESS_REPLAY (R205): the steward supplies page `input.page` (`input.flag`; an absent page takes frame `input.n`) and its parked
accesses are replayed, or it cannot, and everything parked on it becomes a fault. (DESIGN CHOICE, log 106) -/
def execParkedAccessReplay (s : State) : Out :=
  let i := s.input
  match s.findPage i.page with
  | none => .next s
  | some p =>
    if !s.servedPage p then .next s
    else if i.flag then
      let q : Page := if p.state = .absent then { p with state := .resident, frame := i.n } else p
      .next (((if p.state = .absent then s.frameUp i.n else s).setPage q).replayParked q true)
    else .next (({ s with denied := p.ref :: s.denied }).replayParked p false)

/-- What a steward writes into the MTUs for page `input.page` beside moving it (R204, R207): with `input.m` 1 or 3 it maps the page, of 4 KiB or
of 2 MiB, to frame `input.n`, writable by bit 0 and marked copy-on-write by bit 1 of `input.word`, absent by its bit 2; with 2 it unmaps
it. (DESIGN CHOICE, log 106) -/
def State.stewardMaps (s : State) : State :=
  let i := s.input
  match s.findPage i.page with
  | some p =>
    if i.m = 2 && s.servedPage p then
      let s := { s with pages := s.pages.filter fun q => q.ref != p.ref }
      if p.state = .absent then s else (s.frameFree p.frame).forgetFrames p
    else s
  | none =>
    let p : Page :=
      { ref := if i.m = 3 then { i.page with page := i.page.page / 512 * 512 } else i.page, big := i.m = 3
        state := if i.word.getLsbD 2 then .absent else .resident, frame := i.n, writable := i.word.getLsbD 0 && !frameFlash i.n
        cow := i.word.getLsbD 1, probed := none }
    if (i.m = 1 || i.m = 3) && s.servedPage p then (if p.state = .absent then s else s.frameUp i.n).setPage p else s

/-- PAGE_MIGRATION (R207): page `input.page` begins to move (`input.flag`), unless a PRB probed it within 2 ms (R232), or its move to
frame `input.n` completes, in flash as the log's next pages (R22); with `input.m` not zero the steward maps or unmaps it.
(DESIGN CHOICE, log 106) -/
def execPageMigration (s : State) : Out :=
  let i := s.input
  if i.m != 0 then .next s.stewardMaps
  else
    match s.findPage i.page with
    | none => .next s
    | some p =>
      if !s.servedPage p then .next s
      else if i.flag then
        let recent := (p.probed).any fun t => s.clock < t + 2000 * s.usCycles p.die
        if p.state = .resident && !recent then .next (s.setPage { p with state := .migrating }) else .next s
      else if p.state = .migrating then
        let q : Page := { p with state := .resident, frame := i.n, writable := p.writable && !frameFlash i.n }
        if i.n = p.frame then .next (s.setPage q)
        else
          .next (match s.targetFrames i.page.pkg i.n p.frames with
            | some t =>
              let (a, b) := (s.frameKey i.page.pkg p.frame, s.frameKey i.page.pkg i.n)
              ((((t.copyFrames i.page.pkg p.frame i.n p.frames).rekey a (4096 * p.frames) b).frameUp i.n).frameFree p.frame).setPage q
            | none => s)
      else .next s

/-- COPY_ON_WRITE_BREAK (R207): the space of page `input.page` gets a copy of its own in frame `input.n`, as the page stood when the first
write that is parked on it arrived, and the parked writes are replayed into the copy. (DESIGN CHOICE, log 106) -/
def execCopyOnWriteBreak (s : State) : Out :=
  let i := s.input
  match s.findPage i.page with
  | none => .next s
  | some p =>
    if p.cow && p.state = .resident && s.servedPage p && !frameFlash i.n then
      let came := (s.parkedReqs.filter fun r => r.isWrite && s.onEntry r p).filterMap fun r => match r.state with
        | .parked _ n => some n
        | _ => none
      let (a, b) := (s.frameKey i.page.pkg p.frame, s.frameKey i.page.pkg i.n)
      let s := ((s.copyFrames i.page.pkg p.frame i.n p.frames came.min?).cloneKeys a (4096 * p.frames) b came.min?).frameUp i.n
      let s := (s.frameFree p.frame).forgetFrames p
      let q := { p with frame := i.n, cow := false, writable := true }
      .next ((s.setPage q).replayParked q true)
    else .next s

/-- DEADLINE_MISS (R208, R448): a deadline-class request on die `input.die` passed its latest service time. (DESIGN CHOICE, log 107) -/
def execDeadlineMiss (s : State) : Out := .next ((s.countCorr (s.input.die % 4) 6).setEvent 4)

/-- FLASH_ERASE_BLOCK_RECLAIM (R209): the erase block `input.n` of 64 MiB of flash stack `input.die` can be written again.
(DEDUCED, log 70) (DESIGN CHOICE, log 106) -/
def execFlashEraseBlockReclaim (s : State) : Out :=
  let i := s.input
  if s.stewardUp (i.die % 4) then .next { s with flashFree := s.flashFree ++ [(i.die % 4, i.n)] } else .next s

/-! ### PRB (R231 to R234) -/

/-- What the probe finds at one byte: nothing wrong, a wait, or a cause of R233. -/
inductive Probe where
  | ok
  | wait
  | bad (cause : Byte)
  deriving DecidableEq, Repr

/-- The permission an INTENT needs (R231, R202). -/
def intentPerm (intent : Nat) : Perm :=
  match intent with
  | 0 => .read
  | 1 => .write
  | _ => .atomic

/-- A page at the MTU as the probe finds it (R232). -/
def State.probePage (s : State) (ref : PageRef) (write : Bool) : Probe :=
  match s.pageAnswer ref write with
  | .ok _ => .ok
  | .error .parked => .wait
  | .error _ => .bad 6

/-- The probe of one byte: checks 1 to 5 of R198, then its page (R232, R233). (DEDUCED, log 140) -/
def State.probeByte (s : State) (intent : Nat) (x : Word) : Probe :=
  match s.check ⟨intentPerm intent, 1, false, false⟩ x with
  | .error b => .bad (if b.order = 1 then 2 else if b.order = 2 then 3 else if b.order = 4 then 4 else 5)
  | .ok (.virt asn d) => s.probePage ⟨0, asn, d / 4096⟩ (intent != 0)
  | .ok (.remote die asn d) =>
    if !s.reachable s.ddie die then .bad 7 else s.probePage ⟨s.pkgOf die, asn, d / 4096⟩ (intent != 0)
  | .ok _ => .ok

/-- The bytes from `x` to the end of its 4 KiB page. -/
def toPageEnd (x : Word) : Nat := 4096 - x.toNat % 4096

/-- The page at an MTU that a byte lies on. -/
def State.probedPage (s : State) (intent : Nat) (x : Word) : Option PageRef :=
  match s.check ⟨intentPerm intent, 1, false, false⟩ x with
  | .ok (.virt asn d) => some ⟨0, asn, d / 4096⟩
  | .ok (.remote die asn d) => some ⟨s.pkgOf die, asn, d / 4096⟩
  | _ => none

/-- The pages that `n` bytes from `x` on pass, and the first byte that is not well, found page by page: within a page the places of all
bytes agree but at the ends of an offset range, which no page straddles. -/
def State.probeRun (s : State) (intent : Nat) : Nat → Word → Nat → List PageRef × Option (Word × Probe)
  | 0, _, _ => ([], none)
  | m + 1, x, n =>
    if n = 0 then ([], none)
    else
      match s.probeByte intent x with
      | .ok =>
        let (ps, r) := s.probeRun intent m (x + BitVec.ofNat 64 (toPageEnd x)) (n - toPageEnd x)
        ((s.probedPage intent x).toList ++ ps, r)
      | p => ([], some (x, p))

/-- Pages that a probe has passed are marked, and not migrated for 2 ms (R232). -/
def State.markProbed (s : State) (refs : List PageRef) : State :=
  { s with pages := s.pages.map fun p => if refs.any p.covers then { p with probed := some s.clock } else p }

/-- One test of a probe: done, a trap, or a further wait (R232 to R234). -/
def State.pollPrb (s : State) (ea : Word) : State :=
  let v := s.rs (match s.curInstr with
    | .prb f => f.d.toNat
    | _ => 0)
  let len := Bits.fld v 0 32
  let intent := Bits.fld v 32 2
  let (refs, r) := s.probeRun intent (len / 4096 + 2) ea len
  let s := s.markProbed refs
  match r with
  | none => s.unblock.endWait []
  | some (_, .wait) => s
  | some (x, .bad cause) => (s.endWait []).raise 0x03 cause (BitVec.ofNat 64 intent) x
  | some (_, .ok) => s

/-- PRB (R231 to R234). -/
def execPrb (f : MForm) (s : State) : Out :=
  let ea := s.eaStd f 4096
  let s := s.mapSlot fun x => { x with ea := ea }
  if s.acts f.pred f.pneg then
    let v := s.rs f.d.toNat
    if Bits.fld v 34 30 != 0 || Bits.fld v 32 2 = 3 then .next (s.raise 0x03 1 (BitVec.ofNat 64 (Bits.fld v 32 2)) ea)
    else .next ((s.waitIn (.prb ea)).pollPrb ea)
  else .next s.unblock

end Sys2Proof.Machine
end

