-- ==== Sys2Proof/Machine/Pipeline.lean ====
section
/-! DEFINITION. Dispatch: the fetch of a bundle (R116 to R118), the end of a bundle with its transfer or its loops (R73, R84 to
R86, R168), the illegal-encoding check (R141 to R143), the dependence check (R69), sticky re-issue (R67, R68) and the metadata
stream (R135, R136). -/

namespace Sys2Proof.Machine

/-! ### Kinds of operations -/

/-- Control transfers (R68, R73, R336, R338, R375). -/
def controlTransfer (i : Instr) : Bool :=
  match i with
  | .br _ | .brc _ | .bri _ | .call _ | .calli _ | .ret _ | .halt _ | .trap _ | .eretResume _ | .eretSkip _ | .eretRedirect _
  | .uiret _ | .yield _ | .dbrk _ | .crpl _ => true
  | _ => false

/-- A write of WTBASE, whose bundle realigns all slots (R329). -/
def writesWtbase (i : Instr) : Bool :=
  match i with
  | .cwr (.r f) => f.sub == 0x024
  | .cwr (.i f) => f.d.toNat * 64 + f.a.toNat = 0x024
  | _ => false

/-- Operations that are never re-issued (R68, R375); a NOP stops its slot (R131). (DEDUCED, log 26) -/
def neverAgain (i : Instr) : Bool :=
  controlTransfer i || match i with
  | .loop _ | .lbrk _ | .sstep _ | .launch _ | .save _ | .nop _ => true
  | _ => false

/-- Operations whose bundle realigns all slots (R73, R169, R232, R274, R275, R279, R280, R328, R329, R339, R420). (DEDUCED, log 33) -/
def realigns (i : Instr) : Bool :=
  controlTransfer i || writesWtbase i || match i with
  | .lbrk _ | .sstep _ | .launch _ | .save _ | .wfe _ | .prb _ | .waittl _ | .waittlArm _ | .tlrd _ | .tlrdClear _ | .arvGated _ => true
  | _ => false

/-- Operations that dispatch waits for before it goes on. -/
def decides (i : Instr) : Bool :=
  controlTransfer i || writesWtbase i || match i with
  | .loop _ | .lbrk _ | .save _ | .prb _ => true
  | _ => false

/-! ### Fetch -/

/-- What a fetch finds (R117, R204). -/
inductive Fetched where
  | ok (bs : List Byte)
  | miss
  | parked
  | faulted
  deriving DecidableEq, Repr

/-- The byte key of a code address, or what stops the fetch. -/
def State.codeKey (s : State) (va : Nat) : Except Fetched Nat :=
  match findWindow s.ctx.windows va with
  | none => .error .miss
  | some w =>
    if !w.allows .exec then .error .miss
    else
      match s.pageAnswer ⟨0, s.ctx.asn, w.map va / 4096⟩ false with
      | .ok f => .ok (s.frameKey 0 f + w.map va % 4096)
      | .error .parked => .error .parked
      | .error _ => .error .faulted

/-- The worse of two findings: a window miss before a fault before a park. -/
def Fetched.worse (a b : Fetched) : Fetched :=
  match a, b with
  | .miss, _ | _, .miss => .miss
  | .faulted, _ | _, .faulted => .faulted
  | _, _ => .parked

/-- Bytes of code from the address `va` on. (DEDUCED, log 32) -/
def State.codeBytes (s : State) : Nat → Nat → Except Fetched (List Byte)
  | 0, _ => .ok []
  | n + 1, va =>
    match s.codeKey va, s.codeBytes n (va + 1) with
    | .ok k, .ok bs => .ok (Mem.byte s.mem k :: bs)
    | .error a, .error b => .error (a.worse b)
    | .error a, .ok _ => .error a
    | .ok _, .error b => .error b

/-- A fetch of `n` bytes through the window table at a global pointer (R117). (DEDUCED, log 32) -/
def State.fetch (s : State) (a : Word) (n : Nat) : Fetched :=
  if spaceOf a != .global || mbzBad a then .miss
  else
    match s.codeBytes n a.toNat with
    | .ok bs => .ok bs
    | .error e => e

/-- The bundle at an address. -/
def State.fetchBundle (s : State) (a : Word) : Fetched :=
  match s.fetch a 4 with
  | .ok h => s.fetch a (Decode.header (BitVec.ofNat 32 (Bits.leNat h))).size
  | e => e

/-! ### The end of a bundle -/

/-- What the loop engine finds at the end of a bundle (R168, R324): the open levels, the next bundle, the loop predicate written;
when a drain reaches the level's boundary, DRN; whether dispatch stops there, and whether the level went away under the drain. -/
structure LoopOut where
  levels : List Level
  pc : Word
  lp : Option (Nat × Word)
  drn : Option Word
  stop : Bool
  lost : Bool
  deriving DecidableEq, Repr

/-- A predicate's words for a trip (R85). -/
def tripPred (set : Bool) : Word := if set then BitVec.allOnes 64 else 0

/-- The test of R168 on at most `n` levels from the innermost out, for the bundle at `addr`. `dr` is the depth of the level that
drains with DRN once its boundary has been reached (R324), and `ldra` the drain resume address. -/
def loopTest (dr : Option (Nat × Option Word)) (ldra addr next : Word) : Nat → List Level → LoopOut
  | 0, ls => ⟨ls, next, none, none, false, false⟩
  | _ + 1, [] => ⟨[], next, none, none, false, false⟩
  | n + 1, l :: ls =>
    if l.last != addr then ⟨l :: ls, next, none, none, false, false⟩
    else
      let e := BitVec.ofNat 64 l.epi
      let resume := if ldra = 0 then l.loop else ldra
      let drains : Option (Option Word) := dr.bind fun d => if d.1 = (l :: ls).length then some d.2 else none
      if 1 < l.lc.toNat then
        let c := l.lc - 1
        match drains with
        | some none =>
          let drn := if e.toNat < c.toNat then c - e else 0
          let c' := if c.toNat < e.toNat then c else e
          if c' = 0 then ⟨ls, resume, none, some drn, true, false⟩
          else ⟨{ l with lc := c' } :: ls, l.first, some (l.lp, 0), some drn, false, false⟩
        | _ => ⟨{ l with lc := c } :: ls, l.first, some (l.lp, tripPred (e.toNat < c.toNat)), none, false, false⟩
      else
        match drains with
        | some (some _) => ⟨ls, resume, none, none, true, false⟩
        | some none => { loopTest dr ldra addr next n ls with lost := true }
        | none => loopTest dr ldra addr next n ls

/-- A loop predicate's value for the coming trip; p0 is not written (R167). -/
def Pipe.addLp (p : Pipe) (w : Option (Nat × Word)) (opened : Option Nat := none) : Pipe :=
  match w with
  | some (n, v) => if n = 0 then p else { p with lp := p.lp ++ [⟨n, v, opened⟩] }
  | none => p

/-- The level that the bundle's LOOP opens (R167). -/
def Pipe.openLevel (p : Pipe) : Pipe :=
  match p.opening with
  | some l => { p with levels := l :: p.levels, opening := none }.addLp (some (l.lp, tripPred (l.epi < l.lc.toNat))) (some p.start)
  | none => p

/-- The drain of a context in the loop-drain form that has not reached its end: depth and DRN. -/
def Ctx.drains (c : Ctx) : Option (Nat × Option Word) :=
  if c.run = .draining && c.drainDepth != 0 then some (c.drainDepth, c.drainDrn) else none

/-- A drain whose level is gone falls back to the freeze form (R324). (DEDUCED, log 50) -/
def Ctx.lostDrain (c : Ctx) : Ctx :=
  if c.drains.any fun d => c.pipe.levels.length < d.1 then c.beginFreeze else c

/-- The address after the bundle at `a`; `none` while its header is not there. A header that cannot be fetched leaves `a`, whose
fetch then stops the context (R117). -/
def State.afterBundle (s : State) (a : Word) : Option Word :=
  match s.fetch a 4 with
  | .ok h => some (a + BitVec.ofNat 64 (Decode.header (BitVec.ofNat 32 (Bits.leNat h))).size)
  | .parked => none
  | _ => some a

/-- Dispatch continues at an address. -/
def State.continueAt (s : State) (a : Word) : State :=
  s.mapCtx fun c =>
    { c with pipe := { c.pipe with pc := a, ended := none, redirect := none, opening := none } }.lostDrain

/-- The end of the bundle that dispatch has finished, if any (R73, R168): `none` while a page it needs is not there. (DEDUCED, log 127)
(DEDUCED, log 128) -/
def State.endBundle (s : State) : Option State :=
  match s.ctx.pipe.ended with
  | none => some s
  | some (addr, next) =>
    match s.ctx.pipe.redirect with
    | some (.goto a) => some (s.continueAt a)
    | some (.after a) => (s.afterBundle a).map s.continueAt
    | none =>
      let c := s.ctx
      let p := c.pipe.openLevel
      let o := loopTest c.drains (c.ldra &&& ~~~3) addr next p.activeCount p.levels
      let p := { p with pc := o.pc, ended := none, levels := o.levels }.addLp o.lp
      let c := { c with pipe := p, drainDrn := o.drn.or c.drainDrn, drainDepth := if o.stop then 0 else c.drainDepth }
      some { s with ctx := if o.lost then c.beginFreeze else c.lostDrain }

/-! ### An issue -/

/-- The lower of two cause codes, 0 for none. -/
def lowCause (a b : Nat) : Nat := if a = 0 then b else if b = 0 then a else min a b

/-- The operation of slot `k` in the issue that dispatch makes, and the cause code of its word; `none` is an idle slot. (DEDUCED, log 28) -/
def Pipe.slotOp (p : Pipe) (h : Decode.Header) (ws : List (Slot × Word)) (k : Slot) : Option Instr × Nat :=
  if p.rep = 0 && h.slots.getLsbD k.val then
    match ws.lookup k with
    | none => (none, 0)
    | some w =>
      (match Decode.slotWord (Class.ofSlot k) w with
        | .ok i => (some i, 0)
        | .error e => (Decode.rawOp (Class.ofSlot k) w, e.toNat))
  else
    (p.sticky.getD k.val none,
      if p.rep != 0 && ((ws.lookup k).bind fun w => Decode.rawOp (Class.ofSlot k) w).any controlTransfer then 8 else 0)

/-- Causes that depend on the bundle or on the loop engine: 0x04 for a short LOOP, 0x08, 0x09, 0x0B (R143, R167, R86). (DEDUCED, log 26)
(DEDUCED, log 51) (DEDUCED, log 130) -/
def Pipe.issueCause (p : Pipe) (h : Decode.Header) (o : Option Instr) : Nat :=
  match o with
  | none => 0
  | some i =>
    let flow := if h.rep != 0 && controlTransfer i then 8 else 0
    match i with
    | .loop f => lowCause (if 4 * Bits.fld f.imm 24 18 < h.size then 4 else 0) (if 6 ≤ p.levels.length then 0x0B else 0)
    | .ret _ => lowCause flow (if p.activeCount != 0 then 0x0B else 0)
    | .mmas _ => if h.takesMeta then 0 else 9
    | _ => flow

/-- Two operations of one issue, of slots `j` and `k`, depend on each other (R69). -/
def dependent (j : Nat) (a : Instr) (k : Nat) (b : Instr) : Bool :=
  let wa := Legality.writesAt j a
  let wb := Legality.writesAt k b
  (Legality.readsAt j a).any (fun r => wb.contains r) || (Legality.readsAt k b).any (fun r => wa.contains r) ||
    wa.any fun r => wb.contains r

/-- Slot `k` is in a dependence with another slot of the issue. -/
def inDependence (ops : List (Option Instr)) (k : Nat) : Bool :=
  match ops.getD k none with
  | none => false
  | some a => (ops.zipIdx).any fun x => x.2 != k && x.1.any fun b => dependent k a x.2 b

/-- An event found at dispatch: the issue is not made. (DEDUCED, log 31) (DEDUCED, log 37) -/
def State.raiseDispatch (s : State) (cls cause : Byte) (slot : Nat) (smask : BitVec 7) (addr : Word) : State :=
  let p := s.ctx.pipe
  let r : Raised :=
    { idx := p.count, slot := slot, cls := cls, cause := cause, smask := smask, code := 0, detail := 0, addr := addr
      site := { Site.none with addr := p.pc, mpc := p.mpc, rep := p.rep }, ctxf := [], opnds := [], completed := false, late := false }
  s.mapCtx fun c => { c with raised := c.raised ++ [r] }

/-- A fetch that failed (R117, R135, R206); one that finds its page absent waits. (DEDUCED, log 31) -/
def State.fetchFailed (s : State) (e : Fetched) (slot : Nat) (addr : Word) : State :=
  match e with
  | .miss => s.raiseDispatch 0x21 0 slot (slotMask slot) addr
  | .faulted => s.raiseDispatch 0x24 1 slot (slotMask slot) addr
  | .parked | .ok _ => s

/-- The sticky operation of a slot after an issue (R67, R68). (DEDUCED, log 28) -/
def Pipe.stickyAfter (p : Pipe) (h : Decode.Header) (k : Nat) (o : Option Instr) : Option Instr :=
  if p.rep = 0 && h.slots.getLsbD k then o.bind fun i => if neverAgain i then none else some i else p.sticky.getD k none

/-- The issue made: it joins the slots' queues. -/
def State.enqueue (s : State) (h : Decode.Header) (ops : List (Option Instr)) (word : Option Word) (skip : Bool) : State :=
  s.mapCtx fun c =>
    let p := c.pipe
    let first := p.rep = 0
    let s0 := ops.getD 0 none
    let next := p.pc + BitVec.ofNat 64 h.size
    let i : Issue :=
      { idx := p.count, start := if first then p.count else p.start, addr := p.pc, next := next, rep := p.rep
        mpc0 := if first then p.mpc else p.mpc0, mpc := p.mpc
        sync := if s0.any realigns then 0x7F else if first then h.sync else 0
        ops := ops, fresh := if first && !skip then h.slots else 0, metaWord := word, levels := p.levels, lp := p.lp
        stickyBefore := p.sticky }
    let sticky := if skip then p.sticky else (ops.zipIdx).map fun x => p.stickyAfter h x.2 x.1
    let last := h.rep ≤ p.rep
    { c with pipe :=
      { p with
        mpc := if word.isSome then p.mpc + 8 else p.mpc, rep := if last then 0 else p.rep + 1, mpc0 := i.mpc0
        count := p.count + 1, start := i.start, ended := if last then some (p.pc, next) else none
        blocked := !skip && s0.any decides, queue := p.queue ++ [i], sticky := sticky, lp := [], skipNext := false } }

/-- The issue of the bundle at PC whose bytes are `bs`: checked whole before any slot of it executes (R142), then its metadata
word is read (R136). (DEDUCED, log 51) -/
def State.issueBundle (s : State) (bs : List Byte) : State :=
  let p := s.ctx.pipe
  let b := Decode.bundle bs
  let h := b.1
  if p.skipNext then s.enqueue h (List.replicate 7 none) none true
  else
    let found := (List.finRange 7).map fun k => p.slotOp h b.2 k
    let ops := found.map Prod.fst
    let causes := (found.zipIdx).map fun x =>
      lowCause (lowCause x.1.2 (p.issueCause h x.1.1)) (if inDependence ops x.2 then 7 else 0)
    let mask := BitVec.ofNat 7 ((causes.zipIdx).foldl (fun a x => if x.1 = 0 then a else a + 2 ^ x.2) 0)
    if !h.ok then s.raiseDispatch 0x01 0x01 7 mask 0
    else
      match (causes.zipIdx).find? fun x => x.1 != 0 with
      | some (e, k) => s.raiseDispatch 0x01 (BitVec.ofNat 8 e) k mask 0
      | none =>
        if h.takesMeta then
          match s.fetch p.mpc 8 with
          | .ok w => s.enqueue h ops (some (Bits.leWord w)) false
          | e => s.fetchFailed e 3 p.mpc
        else s.enqueue h ops none false

/-- A fired arm entry may be delivered (R282). -/
def Ctx.deliveryDue (c : Ctx) : Bool :=
  c.uivec &&& ~~~3 != 0 && c.uiEn && !c.uiAct && (c.arms.any fun a => a.any Arm.fired)

/-- Dispatch may make an issue: the context runs, or drains a loop whose end it has not reached; S has decided what came before;
nothing is raised; and no completion interrupt waits for the end of the bundle. -/
def Ctx.mayDispatch (c : Ctx) : Bool :=
  (c.run == .running || c.drains.isSome) && !c.pipe.blocked && !c.pipe.halt && c.raised.isEmpty && !(c.run == .running && c.pipe.rep = 0 && c.deliveryDue)

/-- Dispatch makes one issue, if it may. -/
def State.dispatch (s : State) : State :=
  if s.ctx.pipe.blocked || !s.ctx.raised.isEmpty then s
  else
    match s.endBundle with
    | none => s
    | some s =>
      if s.ctx.mayDispatch then
        match s.fetchBundle s.ctx.pipe.pc with
        | .ok bs => s.issueBundle bs
        | e => s.fetchFailed e 7 s.ctx.pipe.pc
      else s

/-- BUNDLE_ISSUE (R67): dispatch issues one issue of a bundle. -/
def execBundleIssue (s : State) : Out := .next s.dispatch

end Sys2Proof.Machine
end

