-- ==== Sys2Proof/Machine/System.lean ====
section
/-! DEFINITION. The system instructions (R336 to R339, R321, R328, R428) and what happens to a whole context: trap entry and the
context-error stop (R315 to R322), completion interrupts (R282, R283), the end (R166), pre-emption and resume (R324 to R326). -/

namespace Sys2Proof.Machine

/-! ### TRAP, DBRK, ERET, UIRET -/

/-- The code of TRAP and DBRK (R336). -/
def State.trapCode (s : State) (f : RI) : BitVec 16 :=
  match f with
  | .r f => (s.rs f.a.toNat).setWidth 16
  | .i f => f.imm.setWidth 16

/-- TRAP (R336): the software trap; the operation counts as completed (R315). -/
def execTrap (f : RI) (s : State) : Out := .next (s.unblock.raiseDone 0x0B 0 (s.trapCode f) [])

/-- DBRK (R336, R318): a freeze with the code for the debugger, the break trap, or nothing when that would be unhandled. -/
def execDbrk (f : RI) (s : State) : Out :=
  let code := s.trapCode f
  let s := s.unblock
  .next (if s.ctx.dbg then s.mapCtx fun c => { c with dbgCode := some code }.beginFreeze
    else if s.ctx.unhandled then s
    else s.raiseDone 0x0C 0 code [])

/-- S has consumed the issue of a return: its time goes on by one, and the cycle consumes nothing more of it (R317, R321). -/
def State.leaving (s : State) : State :=
  s.mapCtx fun c => { c.mapSlot 0 fun x => { x with time := x.time + 1 } with now := { c.now with moved := true } }

/-- Levels are open that the handler opened (R321, R337). -/
def Ctx.levelsLeft (c : Ctx) : Bool := c.pipe.base < c.pipe.levels.length

/-- The checks of ERET, an illegal encoding first (R142), then its return (R321); `bad`: the target is misaligned. (DEDUCED, log 122) -/
def State.eret (s : State) (bad : Bool) (go : State → State) : State :=
  if s.ctx.tact && s.ctx.levelsLeft then s.raiseIllegal 0x0B
  else if bad then s.raiseIllegal 0x0C
  else if !s.ctx.priv then s.raise 0x02 1
  else if !s.ctx.tact then s.raise 0x02 4
  else go s.leaving

/-- The bundle of a trap is fetched again at the return from its handler (R321): a fetch that fails stops the context (R117, R206).
(DEDUCED, log 29) -/
def State.fetchTrapped (s : State) (r : Raised) : State :=
  match s.fetchBundle r.site.addr with
  | .miss => s.lateError r.idx (Fin.ofNat 7 r.slot) r.site 0x21 0 r.site.addr
  | .faulted => s.lateError r.idx (Fin.ofNat 7 r.slot) r.site 0x24 1 r.site.addr
  | .ok _ | .parked => s

/-- The return to the code that a trap interrupted: ERET modes 0 and 1 (R321). (DEDUCED, log 29) -/
def State.eretBack (s : State) (skip : Bool) : State :=
  match s.ctx.trapped with
  | some (_, r) => (s.returnTrap skip).when (r.cls != 0x01) fun s => s.fetchTrapped r
  | none => s

/-- ERET mode 0 (R321). -/
def execEretResume (_f : RI) (s : State) : Out := .next (s.eret false fun s => s.eretBack false)

/-- ERET mode 1 (R321): after an illegal encoding the whole issue is skipped. (DEDUCED, log 28) -/
def execEretSkip (_f : RI) (s : State) : Out :=
  .next (s.eret false fun s =>
    match s.ctx.trapped with
    | some (_, r) =>
      let s := s.eretBack true
      if r.cls == 0x01 then s.mapCtx fun c => { c with pipe := { c.pipe with skipNext := true } } else s
    | none => s)

/-- ERET mode 2 (R321, R144). -/
def execEretRedirect (f : RForm) (s : State) : Out :=
  let t := s.ra f.a.toNat
  .next (s.eret (misaligned t) fun s => s.redirectTrap t)

/-- The status part of UIRET (R337, R284): the shadow copies are swapped back, ACT is clear, and so is EN where a write asked
for it. -/
def Ctx.leaveInterrupt (c : Ctx) : Ctx :=
  let (c, bank) := c.swapBank c.uiShadow
  let st := Bits.setFld c.uistat 31 1 0
  { c with uiShadow := bank, uistat := c.deviceSets 0x012 (1 <<< 30) c.uistat (if c.uiclear then Bits.setFld st 30 1 0 else st)
           uiclear := false, uiSaved := none }

/-- The sticky state of a saved sequencer in one that begins elsewhere (R337). -/
def Pipe.withSticky (p saved : Pipe) : Pipe :=
  { p with
    sticky := saved.sticky, levels := saved.levels, marks := saved.marks, base := saved.base
    slots := (List.range 7).map fun i =>
      let a := saved.slots.getD i SlotState.start
      { p.slots.getD i SlotState.start with ea := a.ea, os := a.os, od := a.od, pview := a.pview } }

/-- UIRET (R337, R283): the interrupted code goes on where it stood, or at UIPC when that has been written. (DEDUCED, log 30)
(DEDUCED, log 127) -/
def execUiret (_f : RI) (s : State) : Out :=
  .next (if s.ctx.uiAct && s.ctx.levelsLeft then s.raiseIllegal 0x0B
    else if !s.ctx.uiAct then s.raise 0x02 4
    else
      match s.ctx.uiSaved with
      | none => s.unblock
      | some (saved, ret) =>
        let s := s.leaving.mapCtx Ctx.leaveInterrupt
        if s.ctx.uipc = ret then s.rejoin saved false
        else s.mapCtx fun c => { c with pipe := (c.pipe.aligned c.uipc c.pipe.mpc true).withSticky saved })

/-! ### YIELD, WFE, PRMT -/

/-- YIELD (R338). -/
def execYield (_f : RI) (s : State) : Out :=
  let s := s.unblock
  .next (match s.teamOf s.ctx with
    | none => s
    | some t =>
      if s.rivalWaits t.die t.eff then s.swapOut t.grid t.num else s.mapTeam t.grid t.num fun t => { t with since := s.clock })

/-- The events of WFE that are set (R339): the latched ones, and PREQ.REQ. -/
def Ctx.wfeEvents (c : Ctx) : Word :=
  BitVec.ofNat 64 ((c.wfeLatch &&& 5).toNat + 2 * Bits.fld c.preq 0 1)

/-- The latched events of WFE cleared (R339). -/
def Ctx.clearWfe (c : Ctx) : Ctx := { c with wfeLatch := c.wfeLatch &&& ~~~(c.wfeEvents.setWidth 3) }

/-- One cycle of WFE (R339): done when an event is set, else the timeout runs. -/
def State.pollWfe (s : State) (d : Nat) (left : Option Nat) : State :=
  let ev := s.ctx.wfeEvents
  if ev != 0 then (s.mapCtx Ctx.clearWfe).endWait [.reg ⟨.s, d⟩ ev]
  else
    match left with
    | some (n + 1) => s.waitIn (.wfe d (some n))
    | _ => s

/-- WFE (R339). -/
def execWfe (f : RI) (s : State) : Out :=
  let (pred, pneg, d, n) := match f with
    | .r f => (f.pred, f.pneg, f.d.toNat, (s.rs f.b.toNat).toNat)
    | .i f => (f.pred, f.pneg, f.d.toNat, f.imm.toNat)
  .next (s.guarded pred pneg fun s =>
    let left := if n = 0 then none else some n
    (s.waitIn (.wfe d left)).pollWfe d left)

/-- WFE_TIMEOUT (R339): the timeout of the focused context's WFE has passed. -/
def execWfeTimeout (s : State) : Out :=
  match (s.ctx.slot 0).wait with
  | some (.wfe d (some 0)) =>
    .next ((s.finishWait 0 [.reg ⟨.s, d⟩ (s.ctx.wfeEvents ||| 8)]).mapCtx Ctx.clearWfe)
  | _ => .next s

/-- The held class changed, and what it counts against the budget (R428). (DEDUCED, log 109) -/
def State.setHeld (s : State) (c : Nat) : State :=
  { s with budget := s.budget - s.ctx.heldClass + c, ctx := { s.ctx with prmst := Bits.setFld s.ctx.prmst 0 2 c } }

/-- The operations of the M slot that use the array (R77, R300, R364). -/
def arrayForm (i : Instr) : Bool :=
  match i with
  | .mma _ | .mmas _ | .mzro _ | .macc _ | .mtrn _ | .tcon _ | .tchn _ | .catt _ | .capp _ | .cstb _ => true
  | _ => false

/-- PRMT to a class not above the held one takes effect once the array operations before it have finished (R428); a higher one waits for the
governor. (DEDUCED, log 49) -/
def State.pollPrmt (s : State) (d cls : Nat) : State :=
  if s.ctx.heldClass < cls || s.ctx.arrayBusy || s.ctx.lags s.ctx.now.issue.idx 0 (fun _ _ i => arrayForm i) then s
  else ((s.setHeld cls).endWait []).postReg 1 ⟨.s, d⟩ (BitVec.ofNat 64 cls)

/-- PRMT begins: its request arrives at the governor in its turn (R428). -/
def State.askPrmt (s : State) (d cls : Nat) : State :=
  let s := { s with fresh := s.fresh + 1 }
  (s.waitIn (.prmt d cls s.fresh)).pollPrmt d cls

/-- PRMT (R428). -/
def execPrmt (f : RI) (s : State) : Out :=
  .next (match f with
    | .r f => s.guarded f.pred f.pneg fun s =>
      let v := s.rs f.a.toNat
      if Bits.fld v 2 62 != 0 then s.postReg 1 ⟨.s, f.d.toNat⟩ (BitVec.allOnes 64)
      else s.askPrmt f.d.toNat (Bits.fld v 0 2)
    | .i f => s.guarded f.pred f.pneg fun s => s.askPrmt f.d.toNat (Bits.fld f.imm 0 2))

/-- The place of a context's request at the governor, when it asks for a higher class (R428). -/
def Ctx.asks (c : Ctx) : Option Nat :=
  match (c.slot 0).wait with
  | some (.prmt _ cls n) => if c.heldClass < cls then some n else none
  | _ => none

/-- GOVERNOR_ANSWER (R428): the governor grants (`input.flag`) or refuses, with the estimate `input.n` in µs, the request of context
`input.uid`, once no request of its die has arrived before it. (DEDUCED, log 49) (DEDUCED, log 109) -/
def execGovernorAnswer (s : State) : Out :=
  let i := s.input
  .next (s.onCtx i.uid fun s =>
    match (s.ctx.slot 0).wait with
    | some (.prmt d cls n) =>
      if cls ≤ s.ctx.heldClass || s.others.any (fun c => c.die = s.ctx.die && c.run.alive && c.asks.any fun m => m < n) then s
      else if i.flag then (s.setHeld cls).finishWait 0 [.reg ⟨.s, d⟩ (BitVec.ofNat 64 cls)]
      else s.finishWait 0 [.reg ⟨.s, d⟩ (BitVec.ofNat 64 (2 ^ 63 + min i.n (2 ^ 24 - 1) * 2 ^ 16 + s.ctx.heldClass))]
    | _ => s)

/-! ### SAVE (R327, R328) -/

/-- Words in order, as bytes. -/
def wordsLe (ws : List Word) : List Byte := ws.flatMap Bits.wordLe

/-- lc of level `n`, 0 for a closed one (R170). -/
def Ctx.lcVal (c : Ctx) (n : Nat) : Word := ((c.pipe.levels.reverse[n]?).map Level.lc).getD 0

/-- The sections from 0x00_0100 to 0x00_FFFF of the image as the context stands; the private one holds free bytes, the first
numbered `n` (DESIGN CHOICE, log 13). -/
def State.imageRegs (s : State) (n : Nat) : List Byte :=
  let c := s.ctx
  wordsLe ((List.range 64).map c.sval) ++ wordsLe ((List.range 32).map c.aval) ++ wordsLe ((List.range 32).map (c.pval 0)) ++
    wordsLe ((List.range 6).map c.lcVal) ++ wordsLe ((List.range 16).map c.tsval) ++
    wordsLe ((List.range 16).map fun i => BitVec.ofNat 64 (c.bdval i)) ++ wordsLe ((List.range 16).map c.kval) ++
    List.replicate (0x1000 - 0x6B0) 0 ++ wordsLe ((List.range 1024).map s.crValue) ++
    ((List.range 64).flatMap fun i => Bits.natLe 256 (c.vval i).toNat) ++
    (List.range 36864).map fun i => Config.freeByte (n + i)

/-- The z tiles, row-major binary32. -/
def Ctx.imageTiles (c : Ctx) : List Byte :=
  (List.range 8).flatMap fun z => (c.zval z).toList.flatMap fun r => Bits.natLe 256 r.toNat

/-- The header of the image. -/
def State.imageHead (s : State) (mask : Nat) (pc mpc : Word) : List Byte :=
  Bits.natLe 8 1 ++ Bits.natLe 8 mask ++ Bits.wordLe s.ctx.ctxid ++ Bits.wordLe pc ++ Bits.wordLe mpc ++ List.replicate 216 0

/-- Offsets of the poisoned bytes of a run, in steps of 8 (R447). -/
def State.poisonOffs (s : State) (key len : Nat) : List Nat :=
  if s.poison = [] then [] else ((List.range (len / 8)).map fun i => 8 * i).filter fun o => s.poisoned (key + o) 8

/-- The sections that a mask selects: offset, bytes and poison, the header first (R327, R328). (DESIGN CHOICE, log 13) -/
def State.imageSections (s : State) (mask n : Nat) (pc mpc : Word) : List (Nat × List Byte × List Nat) :=
  let tray := trayKey s.ctx.core 0 0
  let pocket := pocketKey s.ctx.core 0
  [(0, s.imageHead mask pc mpc, [])] ++
    (if mask.testBit 0 then [(0x100, s.imageRegs n, [])] else []) ++
    (if mask.testBit 1 then [(0x10000, s.ctx.imageTiles, [])] else []) ++
    (if mask.testBit 2 then [(0x30000, Mem.read s.mem tray traySize, s.poisonOffs tray traySize)] else []) ++
    (if mask.testBit 3 then [(0x70000, Mem.read s.mem pocket pocketSize, s.poisonOffs pocket pocketSize)] else [])

/-- The sections sent to memory; a check that fails is a context error (R328). -/
def State.sendSections (s : State) (base : Word) : List (Nat × List Byte × List Nat) → State
  | [] => s
  | (off, bs, po) :: rest =>
    let ea := base + BitVec.ofNat 64 off
    match s.check ⟨.write, bs.length, false, false⟩ ea with
    | .error b => (s.endWait []).raiseBad b ea
    | .ok p => (s.send { s.newReq ea p (.write bs) 3 none with poison := po }).sendSections base rest

/-- SAVE goes on once every write before its bundle, and its own, is performed (R328, R450). -/
def State.pollSave (s : State) : State :=
  if s.writesOpen s.ctx.now.issue.start || (s.reqs.any fun r => r.uid == s.ctx.uid && r.idx == s.ctx.now.issue.idx && r.isWrite) then s
  else s.unblock.endWait []

/-- SAVE (R328). -/
def execSave (f : RI) (s : State) : Out :=
  let (addr, mask) := match f with
    | .r f => (s.ra f.a.toNat, Bits.fld f.sub 0 4)
    | .i f => (s.ra f.a.toNat, Bits.fld f.imm 0 4)
  .next (if spaceOf addr != .global || addr.toNat % 65536 != 0 then s.raiseIllegal 0x04
    else if !s.ctx.priv then s.raise 0x02 1
    else
      let n := s.fresh * 65536
      let s := { s with fresh := s.fresh + 1 }
      let pc := ((s.endBundle).map fun s => s.ctx.pipe.pc).getD s.ctx.now.issue.next
      let s := ((s.waitIn (.save addr mask true)).mapCtx Ctx.againGeo).sendSections addr (s.imageSections mask n pc s.ctx.pipe.mpc)
      if s.slot.wait.isSome then s.pollSave else s)

/-! ### Traps and context errors taken (R315 to R322) -/

/-- The event taken next: an error that is taken as reported, else the first by R315. -/
def Ctx.taken (c : Ctx) : Option Raised := (c.raised.find? fun r => r.late).or (chosen c.raised)

/-- The event is a precise trap that its handler takes. -/
def Ctx.handles (c : Ctx) (r : Raised) : Bool := r.cls.toNat < 0x21 && !r.late && !c.unhandled

/-- TRAP_ENTRY (R317): once the lagging slots have consumed the trapping issue. (DEDUCED, log 9) -/
def execTrapEntry (s : State) : Out :=
  match s.ctx.taken with
  | some r => if s.ctx.handles r && s.ctx.trapReady r then .next (s.enterTrap r) else .next s
  | none => .next s

/-- An unhandled trap as the context error it becomes (R318). -/
def Raised.asError (r : Raised) : Raised :=
  if 0x21 ≤ r.cls.toNat then r
  else if r.cls == 0x09 then { r with cls := 0x27, cause := 0 }
  else { r with cls := 0x28, cause := r.cls }

/-- What follows when the focused context has stopped or halted: its permit goes back, dependences on it are settled, its team may
end (R166, R322, R422, R428). -/
def State.contextOver (s : State) : State :=
  let c := s.ctx
  ((s.releasePermit c).settleDeps.settleSwap c.grid c.team).endTeam c.grid c.team

/-- CONTEXT_ERROR_STOP (R322); an error of a context that is frozen or out is taken at its resume (R406). (DEDUCED, log 111) -/
def execContextErrorStop (s : State) : Out :=
  match s.ctx.taken with
  | some r =>
    if (s.ctx.run.moving || s.ctx.run == .freezing) && !s.ctx.handles r && (r.late || s.ctx.trapReady r) then .next (s.stopContext r.asError).contextOver
    else .next s
  | none => .next s

/-! ### Completion interrupts (R282, R283) -/

/-- An interruptible wait (R283). -/
def Wait.interruptible : Wait → Bool
  | .acq _ _ _ _ _ _ | .waittl _ _ | .bar _ _ _ _ | .waitb _ _ | .sstep _ _ | .tkwt _ | .wfe _ _ => true
  | _ => false

/-- A tile-checked read. -/
def tileChecked (i : Instr) : Bool :=
  match i with
  | .ld f | .vld f | .vldg f | .tld f | .cord f | .qld f => f.chk
  | _ => false

/-- A result of an operation that a LOOP's opening overwrites: a write of the level's predicate by the LOOP's own issue (R167).
(DEDUCED, log 20) -/
def Flight.without (f : Flight) (n j : Nat) : Flight :=
  if f.idx != j then f
  else { f with effs := f.effs.filter fun e => match e with
    | .reg r _ => r != ⟨.p, n⟩
    | _ => true }

/-- Slot `k` begins a trip with issue `idx`: it sees the loop engine's value of the predicate, or the write that an instruction of a slot
ahead has made in the same trip, and may then still read the loop engine's (R78, R85, R167, R168). (DEDUCED, log 20) -/
def Ctx.beginTrip (c : Ctx) (k : Slot) (idx : Nat) (l : LpSet) : Ctx :=
  let c := match l.opened with
    | some j => c.mapSlot k fun x => { x with flights := x.flights.map fun (f : Flight) => f.without l.reg j }
    | none => c
  match c.lpWrites.find? fun (w : LpWrite) => w.reg = l.reg && w.trip = idx + 1 with
  | some w =>
    { c.mapSlot k fun x => x.seeP l.reg w.val (idx + 1) with
      olds := ⟨⟨.p, l.reg⟩, l.val.setWidth 2048, w.writer, BitVec.ofNat 7 (2 ^ k.val)⟩ :: c.olds }
  | none => c.mapSlot k fun x => x.seeP l.reg l.val (idx + 1)

/-- Slot `k` takes up issue `i`. (DEDUCED, log 20) -/
def State.enterIssue (s : State) (k : Slot) (i : Issue) : State :=
  s.mapCtx fun c =>
    let c := if i.lp.all fun l => (c.slot k).trip l.reg = i.idx + 1 then c else i.lp.foldl (fun c l => c.beginTrip k i.idx l) c
    { c with now := ⟨k, i, (c.slot k).cap, false, false⟩ }

/-- A tile-checked read issued. -/
def tileRead (i : Instr) (s : State) : State :=
  match i with
  | .ld f => (execLd f s).state s
  | .vld f => (execVld f s).state s
  | .vldg f => (execVldg f s).state s
  | .tld f => (execTld f s).state s
  | .cord f => (execCord f s).state s
  | .qld f => (execQld f s).state s
  | _ => s

/-- The issue at which slot `k` of the focused context stalls in a tile-checked read (R82): with every tile full it would not, and it waits
for no other slot. -/
def State.atTile (s : State) (k : Slot) : Option Issue :=
  let x := s.ctx.slot k
  (s.ctx.pipe.issueAt x.pos).filter fun i =>
    let waits := x.held || x.stopped || x.skip || x.wait.isSome || x.cool != 0 ||
      (i.sync.getLsbD k.val && (List.finRange 7).any fun m => i.sync.getLsbD m.val && (s.ctx.slot m).pos < i.idx)
    let stalls (s : State) : Bool := (i.ops.getD k.val none).any fun o => (tileRead o (s.enterIssue k i)).ctx.now.stalled
    !waits && (i.ops.getD k.val none).any tileChecked && stalls s &&
      !stalls (s.mapCtx fun c => { c with tileBits := List.range 384 })

/-- The issue at which the focused context waits or is blocked, once no slot moves (R283). -/
def State.waitsAt (s : State) : Option Issue :=
  let c := s.ctx
  if !c.idle then none
  else if ((c.slot 0).wait).any Wait.interruptible then c.pipe.issueAt (c.slot 0).pos
  else (List.finRange 7).findSome? s.atTile

/-- All slots have consumed every issue, at the end of a bundle. -/
def Ctx.atBoundary (c : Ctx) : Bool :=
  c.pipe.rep = 0 && !c.pipe.blocked && c.pipe.slots.all fun x => x.pos = c.pipe.count && x.wait.isNone

/-- An arm entry delivered (R282). -/
def State.deliverArm (s : State) (n : Nat) (a : Arm) (ret : Word) : State :=
  let c := s.ctx.foldPview
  let saved := { c.pipe with slots := c.pipe.slots.map fun x => { x with flights := [] } }
  let pipe := c.pipe.handler saved (c.uivec &&& ~~~3) c.pipe.mpc true
  let (c, bank) := c.swapBank c.uiShadow
  let st := Bits.setFld (Bits.setFld c.uistat 31 1 1) 26 4 a.num
  let st := Bits.setFld (Bits.setFld (Bits.setFld st 25 1 a.kind.toNat) 24 1 a.pois.toNat) 0 3 n
  { s with ctx := { c with uiShadow := bank, uistat := st, uipc := c.deviceSets 0x011 (BitVec.allOnes 64) c.uipc ret, arms := c.arms.set n none, uiSaved := some (saved, ret)
                           pipe := pipe } }

/-- COMPLETION_INTERRUPT_DELIVERY (R282, R283). -/
def execCompletionInterruptDelivery (s : State) : Out :=
  if s.ctx.deliveryDue && s.ctx.run == .running && s.ctx.raised.isEmpty then
    match (s.ctx.arms.zipIdx).find? fun x => x.1.any Arm.fired with
    | some (some a, n) =>
      if s.ctx.atBoundary then
        (match s.endBundle with
          | some s => .next (s.deliverArm n a s.ctx.pipe.pc)
          | none => .next s)
      else
        (match s.waitsAt with
          | some i => .next (s.deliverArm n a i.addr)
          | none => .next s)
    | _ => .next s
  else .next s

/-! ### The end of a context (R166) -/

/-- The work of a halting context is done: every result and landing written, every waiting command started, every write performed
(R166, R450). -/
def State.drained (s : State) : Bool :=
  let c := s.ctx
  c.pipe.slots.all (fun x => x.flights.isEmpty) && c.landings.isEmpty && c.releases.isEmpty && c.array.isNone &&
    !(s.cmds.any fun x => x.uid == c.uid && !x.started) &&
    !(s.reqs.any fun r => r.uid == c.uid && r.isWrite) && !(s.resps.any fun r => r.uid == c.uid && r.write)

/-- The context has executed HALT and every slot its bundle, or a host command ends it (R166, R437). -/
def Ctx.ending (c : Ctx) : Bool :=
  c.run == .halting || (c.run == .running && c.pipe.halt && c.raised.isEmpty && c.pipe.slots.all fun x => x.pos = c.pipe.count)

/-- CONTEXT_HALT_COMPLETE (R166). -/
def execContextHaltComplete (s : State) : Out :=
  if s.ctx.ending && s.drained then .next (s.mapCtx fun c => { c with run := .halted }).contextOver
  else .next s

/-! ### Pre-emption (R324 to R326) -/

/-- DRAIN_TIMEOUT (R324): 20 µs have passed since the request. (DEDUCED, log 50) -/
def execDrainTimeout (s : State) : Out :=
  if s.ctx.run == .draining && 20 * s.usCycles s.ctx.die ≤ s.ctx.drainFor then .next (s.mapCtx Ctx.beginFreeze) else .next s

/-- The drained loop's end (R324 steps 3 and 4): all slots stand at the boundary. (DEDUCED, log 50) -/
def Ctx.drainStops (c : Ctx) : Bool :=
  c.run == .draining && c.drainDepth = 0 && c.drainDrn.isSome && c.pipe.slots.all fun x => x.pos = c.pipe.count

/-- s[D] := DRN, PREQ.DRN, and the stop goes on as R325 from its step 2. (DEDUCED, log 50) -/
def Ctx.endDrain (c : Ctx) : Ctx :=
  if c.drainStops then
    { (c.putReg 0 ⟨.s, c.drainReg⟩ (c.drainDrn.getD 0)).againGeo with
      preq := Bits.setFld c.preq 4 1 1, run := .freezing, drainDrn := none }
  else c

/-- A freezing context is captured whole: the array has finished, a chain stands between steps, every write is performed, but for one that
must follow what is not done yet (R213, R214, R223, R316, R325). (DEDUCED, log 17) -/
def State.freezable (s : State) : Bool :=
  let c := s.ctx
  c.run == .freezing && c.array.isNone && !(c.pipe.slots.any SlotState.holdsContext) &&
    !((List.finRange 7).any fun k => (c.slot k).flights.any fun f => f.mem.any MemOp.isWrite && !c.holdsBack k f) &&
    (match c.chain with
      | none => true
      | some x => (x.steps[x.next]?).any fun t => x.left = 64 * t.p) &&
    !(s.reqs.any fun r => r.uid == c.uid && r.isWrite) && !(s.resps.any fun r => r.uid == c.uid && r.write)

/-- The context as it stands frozen: what is in flight captured, STATE 3 (R316, R325). -/
def Ctx.stopHere (c : Ctx) : Ctx :=
  let c := c.captureFlight false
  { c with run := .frozen, preq := Bits.setFld c.preq 2 2 3 }

/-- FREEZE (R325, R424): the context is stopped; a team that leaves is out of its cores once each of its members is. -/
def execFreeze (s : State) : Out :=
  if s.freezable then
    let s := s.mapCtx Ctx.stopHere
    .next (s.settleSwap s.ctx.grid s.ctx.team)
  else .next s

/-- Dispatch goes on: the replay buffer is re-injected, REQ and STATE are clear (R326). -/
def Ctx.goOn (c : Ctx) : Ctx :=
  { c.reinject false with
    run := .running, preq := Bits.setFld (Bits.setFld c.preq 0 1 0) 2 2 0, dbgCode := none
    pipe := { c.pipe with slots := c.pipe.slots.map fun x =>
      { x with cool := 0, flights := x.flights.map fun f => { f with due := f.due + x.time } } } }

/-- A team whose saved image is refused: each of its contexts counts as halted (R426). -/
def State.destroyTeam (s : State) (grid num : Nat) : State :=
  let die := ((s.teams.find? fun t => t.grid == grid && t.num == num).map Team.die).getD 0
  let s := ((s.members grid num).filter fun c => c.run.alive).foldl (fun s c => s.releasePermit c) s
  let s := s.mapAll fun c => if c.grid = grid && c.team = num && c.run.alive then { c with run := .halted } else c
  ((s.launchError die 0x0C grid num).settleDeps).endTeam grid num

/-- A context on its core goes on, and is asked to stop again when its team leaves; one that has stopped for its team stays (R58).
(DEDUCED, log 53) -/
def State.resumeHere (s : State) : State :=
  if s.teamLeaves s.ctx.grid s.ctx.team then
    (if s.ctx.keepsCore then s.mapCtx fun c => c.goOn.request false else s)
  else s.mapCtx Ctx.goOn

/-- The members of a team that are out go on together (R58, R326). -/
def State.resumeTeam (s : State) (grid num : Nat) : State :=
  s.mapAll fun c => if c.grid = grid && c.team = num && c.run = .swapped then c.goOn else c

/-- RESUME (R326): a frozen context goes on where it stands; one that is out, once its team has been placed, comes in with its whole team
(R58), unless its private section was changed (`intact` false), which destroys its team (R426). (DEDUCED, log 53) -/
def execResume (uid : Nat) (intact : Bool) (s : State) : Out :=
  .next (s.onCtx uid fun s =>
    match s.ctx.run with
    | .frozen => s.resumeHere
    | .swapped =>
      if (s.teamOf s.ctx).any fun t => t.resident then
        if intact then s.resumeTeam s.ctx.grid s.ctx.team else s.destroyTeam s.ctx.grid s.ctx.team
      else s
    | _ => s)

/-- DEBUGGER_ATTACH (R333): a debugger attaches to (`input.flag`) or detaches from context `input.uid`. -/
def execDebuggerAttach (s : State) : Out :=
  let i := s.input
  .next (s.onCtx i.uid fun s => s.mapCtx fun c => { c with ctxstat := Bits.setFld c.ctxstat 7 1 i.flag.toNat })

end Sys2Proof.Machine
end

