-- ==== Sys2Proof/Machine/Attend.lean ====
section
/-! DEFINITION. The arithmetic of attention (R350, R370) and of stubs (R382): exact sums, and exp, ln and square roots carried to
many more bits than the one rounding that follows needs, the last bit sticky. -/

namespace Sys2Proof.Fp

/-- The fixed point of the functions below: units of 2^−640. (UNVERIFIED, log 61) -/
def attendBits : Nat := 640

/-- Terms of a power series in fixed point: each term is the last times `num` over `den i` (and 2^640), until `n` are summed.
(UNVERIFIED, log 61) -/
def series (num : Int) (den : Nat → Nat) : Nat → Nat → Int → Int → Int
  | 0, _, _, acc => acc
  | n + 1, i, t, acc =>
    let t' := (t * num).fdiv ((2 ^ attendBits : Nat) * (den i : Nat))
    series num den n (i + 1) t' (acc + t')

/-- Terms of the odd power series of atanh for a ratio p / q. -/
def atanhGo (p q : Nat) : Nat → Nat → Nat → Nat → Nat
  | 0, _, _, acc => acc
  | n + 1, i, t, acc => atanhGo p q n (i + 1) (t * p * p / (q * q)) (acc + t / (2 * i + 1))

/-- 2 · atanh(p / q), for p / q at most 1/3, in units of 2^−640. -/
def twoAtanh (p q : Nat) : Nat := 2 * atanhGo p q 220 0 (2 ^ attendBits * p / q) 0

/-- ln n for n ≥ 1, in units of 2^−640: exact only for 1. (UNVERIFIED, log 61) -/
def lnFix (n : Nat) : Nat :=
  let k := n.log2
  k * twoAtanh 1 3 + (if n = 2 ^ k then 0 else twoAtanh (n - 2 ^ k) (n + 2 ^ k))

/-- exp of −i · 2^e for i ≥ 0: exactly 1 for zero; otherwise between 2^−640 steps. (UNVERIFIED, log 61) -/
def expNeg (i : Nat) (e : Int) : FVal :=
  if i = 0 then .fin false 1 0
  else if cmpMag i e 110 0 = .gt then .fin false 1 (-1000)
  else
    -- the argument over 2^8, in fixed point; the series of exp; then eight squarings
    let x := if 0 ≤ e + attendBits - 8 then i * 2 ^ (e + attendBits - 8).toNat else i / 2 ^ (8 - attendBits - e).toNat
    let one : Int := (2 ^ attendBits : Nat)
    let y := (series (-(x : Int)) (fun n => n) 130 1 one one).toNat
    let z := (List.range 8).foldl (fun y _ => y * y / 2 ^ attendBits) y
    .fin false (2 * z + 1) (-(attendBits + 1 : Nat))

/-- A finite value as an integer in units of 2^−k; `none` for NaN and infinities. The unit is no coarser than the value's. -/
def FVal.scaled (k : Nat) : FVal → Option Int
  | .fin n m e => some (sgn n (m * 2 ^ (e + k).toNat))
  | _ => none

/-- Every value scaled, if all are finite. -/
def allScaled (k : Nat) : List FVal → Option (List Int)
  | [] => some []
  | v :: vs =>
    match v.scaled k, allScaled k vs with
    | some i, some is => some (i :: is)
    | _, _ => none

/-- An exact dot product. -/
def dot (a b : List Int) : Int := (List.zipWith (fun x y => x * y) a b).foldl (fun s x => s + x) 0

/-- The exact quotient of an integer in units of 2^−k by a positive one in units of 2^−k', rounded once to binary32. -/
def ratio32 (t : Fmt) (i : Int) (k d k' : Nat) : Nat :=
  if i = 0 then 0 else (round t .rne false 0 (quot i.natAbs d (-(k : Int)) (-(k' : Int)) (decide (i < 0)))).1

/-- An integer in units of 2^−k rounded once to binary32. -/
def round32 (i : Int) (k : Nat) : Nat := (round f32 .rne false 0 (.fin (decide (i < 0)) i.natAbs (-(k : Int)))).1

/-- A square root of n · 2^−k, signed and rounded down, in units of 2^−640, and whether it is exact; k is at most 1,280. (UNVERIFIED, log 61) -/
def rootFix (neg : Bool) (n k : Nat) : Int × Bool :=
  let m := n * 2 ^ (2 * attendBits - k)
  let r := isqrt m
  (if neg && r * r != m then -(r : Int) - 1 else sgn neg r, r * r = m)

end Sys2Proof.Fp

namespace Sys2Proof.Machine

/-- A key item: its row and its value row, in units of 2^−133, the unit of BF16. -/
structure KeyItem where
  key : List Int
  val : List Int
  deriving DecidableEq, Repr

/-- A stub item: its block, mean key, N, and NB in units of 2^−149 (R349). -/
structure StubItem where
  block : Nat
  key : List Int
  n : Nat
  nb : Nat
  deriving DecidableEq, Repr

/-- BF16 elements of a row, in units of 2^−133; `none` when one is not finite. -/
def bf16Row (bs : List Byte) : Option (List Int) :=
  let n := bs.length / 2
  let x := Bits.leNat bs
  Fp.allScaled 133 ((List.range n).map fun i => Fp.decode Fp.bf16 (Bits.nfld x (16 * i) 16))

/-- The logit of a key, before its rounding: q·k/√d in units of 2^−641, odd when not exact (R370). -/
def logit (h : Nat) (q : List Int) (k : List Int) : Int :=
  let (r, exact) := let p := Fp.dot q k; Fp.rootFix (decide (p < 0)) (p.natAbs * p.natAbs) (532 + h)
  2 * r + (if exact then 0 else 1)

/-- The logit of a stub, before its rounding (R350, R370). -/
def stubLogit (h : Nat) (bounded : Bool) (q : List Int) (s : StubItem) : Int :=
  let p := Fp.dot q s.key
  let (r, e1) := Fp.rootFix (decide (p < 0)) (p.natAbs * p.natAbs) (532 + h)
  let (b, e2) := if bounded then Fp.rootFix false ((Fp.dot q q).natAbs * (s.nb * s.nb)) (266 + 298 + h) else (0, true)
  let l := Fp.lnFix s.n
  2 * (r + b + (l : Nat)) + (if e1 && e2 && s.n = 1 then 0 else 1)

/-- A binary32 pattern that is finite, as an integer in units of 2^−149. -/
def f32Fix (x : Nat) : Option Int := (Fp.decode Fp.f32 x).scaled 149

/-- The attention of one query head (R370): the d outputs and the mass of each stub, as binary32 patterns. A NaN or an infinity
makes every output the canonical NaN and leaves no candidate. (UNVERIFIED, log 61) -/
def attend (h : Nat) (bounded : Bool) (q : Option (List Int)) (keys : List (Option KeyItem)) (stubs : List (Option StubItem)) :
    List Nat × List (Nat × Nat) :=
  let d := 2 ^ h
  let bad := (List.replicate d Fp.f32.canonNaN, [])
  match q with
  | none => bad
  | some q =>
    if keys.any Option.isNone || stubs.any Option.isNone then bad
    else
      let ks := keys.filterMap id
      let ss := stubs.filterMap id
      let xs := ((ks.map fun k => logit h q k.key) ++ ss.map fun s => stubLogit h bounded q s).map fun x => f32Fix (Fp.round32 x 641)
      if xs.any Option.isNone then bad
      else
        let xs := xs.filterMap id
        let mx := xs.foldl max (xs.headD 0)
        let ws := xs.map fun x =>
          ((f32Fix (Fp.round Fp.f32 .rne false 0 (Fp.expNeg (mx - x).toNat (-149))).1).getD 0).toNat
        let z := ((f32Fix (Fp.round32 ((ws.foldl (fun a w => a + w) 0 : Nat) : Int) 149)).getD 0).toNat
        let o := (List.range d).map fun e =>
          let n := (List.zipWith (fun (w : Nat) (k : KeyItem) => (w : Int) * k.val.getD e 0) ws ks).foldl (fun a x => a + x) 0
          Fp.ratio32 Fp.f32 n 282 z 149
        (o, List.zipWith (fun (s : StubItem) (w : Nat) => (s.block, Fp.ratio32 Fp.f32 (w : Int) 149 z 149)) ss (ws.drop ks.length))

/-- The sum of two BF16 values as the mean takes it: `none` is NaN. -/
def meanSum (vs : List Fp.FVal) : Fp.FVal := vs.foldl (fun a v => (Fp.add .rne a v).1) (.fin false 0 0)

/-- RoundNE(mean of n values, bf16) (R382). -/
def meanBf16 (vs : List Fp.FVal) (n : Nat) : Nat :=
  match meanSum vs with
  | .fin neg m e => if m = 0 then 0 else (Fp.round Fp.bf16 .rne false 0 (Fp.quot m n e 0 neg)).1
  | v => (Fp.round Fp.bf16 .rne false 0 v).1

/-- The mean key of rows, and NB: the greatest distance of a row from it, rounded up; NaN when an element is not finite (R382).
(DEDUCED, log 59) -/
def stubOf (rows : List (List Nat)) (d : Nat) : List Nat × Nat :=
  let mean := (List.range d).map fun e => meanBf16 (rows.map fun r => Fp.decode Fp.bf16 (r.getD e 0)) rows.length
  let fix (r : List Nat) : Option (List Int) := Fp.allScaled 133 (r.map fun x => Fp.decode Fp.bf16 x)
  let nb :=
    match fix mean, rows.map fix with
    | some m, rs =>
      if rs.any Option.isNone then Fp.f32.canonNaN
      else
        let far := rs.foldl (fun a r =>
          let df := List.zipWith (fun x y => x - y) (r.getD []) m
          max a (Fp.dot df df).natAbs) 0
        if far = 0 then 0 else (Fp.round Fp.f32 .rup false 0 (Fp.rootOf far (-266))).1
    | none, _ => Fp.f32.canonNaN
  (mean, nb)

end Sys2Proof.Machine
end

