-- ==== Sys2Proof/Machine/Context.lean ====
section
/-! DEFINITION. Virtual context (R340 to R362) and the context instructions (R363 to R382). Each holds its slot until its accesses
can be made, and then makes them all in one step. -/

namespace Sys2Proof.Machine

/-! ### Accesses (R364) -/

/-- Why a context instruction does not complete now. -/
inductive Stop where
  /-- an access waits at its MTU (R205) -/
  | park
  /-- a remote access is answered receiver-not-ready (R405) -/
  | notReady (ea : Word)
  /-- a check, or the memory side, refuses an access: a context error -/
  | bad (cls cause : Byte) (ea : Word)
  /-- a malformed structure (R352) -/
  | malformed
  /-- a precise trap: class, cause, DETAIL, ADDR -/
  | trap (cls cause : Byte) (detail addr : Word)
  /-- a refusal by R144 -/
  | illegal (cause : Byte)
  deriving DecidableEq, Repr

/-- A computation over the machine that may stop: nothing it did then counts. -/
abbrev Cx := StateT State (Except Stop)

/-- The computation stops. -/
def Cx.stop {α : Type} (e : Stop) : Cx α := fun _ => .error e

/-- The computation stops as malformed unless `b`. -/
def Cx.need (b : Bool) : Cx Unit := if b then pure () else Cx.stop .malformed

/-- A computation tried: `none` when it met a malformed structure. -/
def Cx.tried {α : Type} (x : Cx α) : Cx (Option α) := fun s =>
  match x s with
  | .ok (a, s) => .ok (some a, s)
  | .error .malformed => .ok (none, s)
  | .error e => .error e

/-- An access of control space by the core itself (R440). (DEDUCED, log 63) -/
def State.controlAccess (s : State) (off : Nat) (a : Action) : List Byte × State :=
  match off / 2 ^ 48, a with
  | 0x00, .read len => s.barRead (off % 2 ^ 48) len
  | 0x00, .write bs => ([], s.barWrite (off % 2 ^ 48) bs)
  | 0x30, .read len => (s.ctlRead (off % 2 ^ 48) len, s)
  | 0x30, .write bs => ([], s.ctlWrite (off % 2 ^ 48) bs)
  | 0x20, .write bs => ([], s.wakeWords off bs.length)
  | _, .read len => (List.replicate len 0, s)
  | _, _ => ([], s)

/-- What a context instruction reads is an item of record mode (R431). -/
def State.contextItem (s : State) (a : Action) (bs : List Byte) : List Byte × State :=
  match a with
  | .write _ => (bs, s)
  | _ => if s.ctx.trMode = 0 then (bs, s) else s.traced 4 0 bs

/-- The origin of an access of the executing context instruction at a key: its slot's, and an atomic at DOMAIN scope as its window narrows
it where the leaf, the block header or the record word is updated (R203, R364). -/
def State.contextOrigin (s : State) (x : Access) (a : Action) (far : Option Nat) (key : Nat) : Origin :=
  let atom := x.perm = .atomic && (x.size = 16 || a matches .atom _ _ _ _ _)
  { s.originOf s.ctx.now.issue.idx s.k.val with atomic := if atom then some (s.scopeAt s.ctx key 4) else none, die := far }

/-- One access at its place: of control space; or served, parked or refused at the memory side. A target to which the route is changing, or
to which messages of the lane are under way, waits (R398, R399). (DEDUCED, log 16) (DEDUCED, log 62) -/
def Cx.atPlace (x : Access) (a : Action) (ea : Word) (p : Place) : Cx (List Byte) := fun s =>
  match p with
  | .control off => .ok (s.controlAccess off a)
  | p =>
    let far : Option Nat := match p with
      | .remote die _ _ => some die
      | _ => none
    if far.any fun die => s.draining.contains (s.ddie, die) || s.clock < s.laneTime 0 s.ddie die 0 then .error .park
    else if far.any fun die => !s.reachable s.ddie die then .error (.bad 0x25 2 ea)
    else
      match s.answer p x.size (x.perm != .read) with
      | .parked => .error .park
      | .faulted => .error (if far.isSome then .notReady ea else .bad 0x24 1 ea)
      | .served rs =>
        let (s, bs, poisoned) := s.performAt (s.contextOrigin x a far ((rs.head?.map Prod.fst).getD 0)) a rs
        if poisoned then .error (if far.isSome then .bad 0x25 3 ea else .bad 0x24 1 ea) else .ok (bs, s)

/-- One access, checked by R198 and performed. What a context that replays reads comes from its trace (R432). (DEDUCED, log 16)
(DEDUCED, log 62) -/
def Cx.access (x : Access) (a : Action) (ea : Word) : Cx (List Byte) := fun s =>
  match s.check x ea with
  | .error b => .error (.bad b.cls b.cause ea)
  | .ok p =>
    match a with
    | .read n =>
      (match s.replayItem 4 0 n with
        | (some bs, s) => .ok (bs, s)
        | (none, s) => ((do
          let bs ← Cx.atPlace x a ea p
          fun s => .ok (s.contextItem a bs)) : Cx (List Byte)) s)
    | _ => ((do
      let bs ← Cx.atPlace x a ea p
      fun s => .ok (s.contextItem a bs)) : Cx (List Byte)) s

/-- The 16 bytes of a leaf or a block header that an instruction updates, as memory has them and as it reads them: what a context that
replays reads comes from its trace, while memory is updated as in a live run (R378, R379, R432). -/
def Cx.leafNow (ea : Word) : Cx (List Byte × List Byte) := fun s =>
  match s.check ⟨.atomic, 16, true, false⟩ ea with
  | .error b => .error (.bad b.cls b.cause ea)
  | .ok p =>
    match Cx.atPlace ⟨.atomic, 16, true, false⟩ (.read 16) ea p s with
    | .error e => .error e
    | .ok (bs, s) =>
      let (item, s) := s.contextItem (.read 16) bs
      .ok ((bs, item), s)

/-- The checks of R198 for an access that is not made. -/
def Cx.checked (x : Access) (ea : Word) : Cx Unit := fun s =>
  match s.check x ea with
  | .error b => .error (.bad b.cls b.cause ea)
  | .ok _ => .ok ((), s)

/-- `n` 8-byte reads from an address on. -/
def Cx.readN : Nat → Word → Cx (List Byte)
  | 0, _ => pure []
  | n + 1, ea => do
    let b ← Cx.access ⟨.read, 8, false, false⟩ (.read 8) ea
    let bs ← Cx.readN n (ea + 8)
    pure (b ++ bs)

/-- The words at an address. -/
def Cx.words (n : Nat) (ea : Word) : Cx (List Word) := do
  let bs ← Cx.readN n ea
  pure ((List.range n).map fun i => Bits.leWord ((bs.drop (8 * i)).take 8))

/-- The word at an address. -/
def Cx.word (ea : Word) : Cx Word := do
  let b ← Cx.access ⟨.read, 8, false, false⟩ (.read 8) ea
  pure (Bits.leWord b)

/-- The two words of a leaf, read whole (R345). -/
def Cx.leafWords (ea : Word) : Cx (Word × Word) := do
  let b ← Cx.access ⟨.read, 16, false, false⟩ (.read 16) ea
  pure (Bits.leWord (b.take 8), Bits.leWord (b.drop 8))

/-- Bytes written, 8 at a time. -/
def Cx.writeN : Nat → Word → List Byte → Cx Unit
  | 0, _, _ => pure ()
  | n + 1, ea, bs => do
    let _ ← Cx.access ⟨.write, 8, false, false⟩ (.write (bs.take 8)) ea
    Cx.writeN n (ea + 8) (bs.drop 8)

/-- A run of bytes written; its length is a multiple of 8. -/
def Cx.write (ea : Word) (bs : List Byte) : Cx Unit := Cx.writeN (bs.length / 8) ea bs

/-- Words written. -/
def Cx.writeWords (ea : Word) (ws : List Word) : Cx Unit := Cx.write ea (ws.flatMap Bits.wordLe)

/-- Each element of a list in turn. -/
def Cx.each {α β : Type} (f : α → Cx β) : List α → Cx (List β)
  | [] => pure []
  | x :: xs => do
    let y ← f x
    let ys ← Cx.each f xs
    pure (y :: ys)

/-- An address plus a number of bytes. -/
def plus (a : Word) (n : Nat) : Word := a + BitVec.ofNat 64 n

/-! ### Structures (R340 to R349) -/

/-- A policy table (R342). -/
structure Policy where
  g : Nat
  h : Nat
  hk : Nat
  nl : Nat
  bytes : Nat
  layers : List Nat
  groups : List Word
  deriving DecidableEq, Repr

/-- A layer's group with its policy, and the layer's number within the group (R343, R366). -/
structure Layer where
  group : Nat
  lam : Nat
  s : Nat
  seg : Nat
  wblk : Nat
  bounded : Bool
  theta : Nat
  deriving DecidableEq, Repr

/-- A group entry, its two words (R343); `none` when malformed (R352). -/
def groupEntry (w0 w1 : Word) (g lam : Nat) : Option Layer :=
  let th := Fp.decode Fp.f16 (Bits.fld w0 48 16)
  let pos := match th with
    | .fin neg m _ => !neg && m != 0 && Fp.cmp th (.fin false 1 0) != .gt
    | _ => false
  if pos && 2 ≤ Bits.fld w0 44 4 && Bits.fld w0 44 4 ≤ 10 && Bits.fld w0 42 2 < 2 && Bits.fld w0 40 2 = 0 && Bits.fld w0 24 4 = 0 &&
      1 ≤ Bits.fld w0 12 12 && Bits.fld w0 0 12 = 0 && w1 == 0 then
    some ⟨g, lam, Bits.fld w0 28 12, 2 ^ Bits.fld w0 44 4, Bits.fld w0 12 12, Bits.fld w0 42 2 = 1, Bits.fld w0 48 16⟩
  else none

/-- The policy table at an address; `none` when it or the entry of a group that a layer maps to is malformed (R342, R343, R352). -/
def Cx.policy (p : Word) : Cx (Option Policy) := do
  let ws ← Cx.words 168 p
  let w0 := ws.getD 0 0
  let w1 := ws.getD 1 0
  let layers := ((ws.drop 8).take 32).flatMap fun w => (List.range 8).map fun i => Bits.fld w (8 * i) 8
  let nl := Bits.fld w0 0 8 + 1
  let h := Bits.fld w0 16 3
  let ok := Bits.fld p 0 6 = 0 && Bits.fld w0 26 38 = 0 && !w0.getLsbD 19 && Bits.fld w0 14 2 = 0 && 5 ≤ h && Bits.fld w1 9 55 = 0 &&
    h ≤ 8 && 1 ≤ Bits.fld w1 0 9 && Bits.fld w1 0 9 ≤ 256 && ((ws.drop 2).take 6).all (· == 0) &&
    (layers.take nl).all (fun g => g < 64 && (groupEntry (ws.getD (40 + 2 * g) 0) (ws.getD (41 + 2 * g) 0) g 0).isSome) &&
    (layers.drop nl).all (· == 0)
  pure (if ok then
    some
      { g := Bits.fld w0 20 6 + 1, h := h, hk := Bits.fld w0 8 6 + 1, nl := nl, bytes := Bits.fld w1 0 9 * 256
        layers := layers.take nl, groups := ws.drop 40 }
    else none)

/-- Bytes of a row. -/
def Policy.row (p : Policy) : Nat := 2 * 2 ^ p.h

/-- The policy of a group; `none` when malformed (R343, R352). -/
def Policy.groupOf (p : Policy) (g lam : Nat) : Option Layer :=
  groupEntry (p.groups.getD (2 * g) 0) (p.groups.getD (2 * g + 1) 0) g lam

/-- The layer `l`. -/
def Policy.layer (p : Policy) (l : Nat) : Option Layer :=
  let g := p.layers.getD l 0
  p.groupOf g ((p.layers.take l).filter (· == g)).length

/-- Rows of a pinned run: R of R347. -/
def Layer.rows (y : Layer) : Nat := y.s + y.wblk * y.seg
/-- The pinned row of a position (R347). -/
def Layer.rowOf (y : Layer) (t : Nat) : Nat := if t < y.s then t else y.s + (t - y.s) % (y.wblk * y.seg)
/-- Bytes of one layer's block: LB (R366). -/
def Layer.lb (y : Layer) (p : Policy) : Nat := 2 * p.hk * y.seg * p.row

/-- The batch table (R367). -/
structure Batch where
  ptr : Word
  words : List Word
  pol : Option Policy
  /-- every token counts as malformed (R369, R372, R373) -/
  all : Bool
  live : Word
  admitMask : Word
  deriving DecidableEq, Repr

/-- Word `n` of a batch table. -/
def Batch.w (b : Batch) (n : Nat) : Word := b.words.getD n 0

/-- The batch table at an address with its policy; `bad` of the policy makes every token malformed. (DEDUCED, log 57) -/
def Cx.batch (ptr : Word) (bad : Policy → Bool) : Cx Batch := do
  let ws ← Cx.words 72 ptr
  let pol ← Cx.policy (ws.getD 7 0)
  pure ⟨ptr, ws, pol, pol.all bad, ws.getD 0 0, ws.getD 1 0⟩

/-- LIVE and ADMIT are written (R368). -/
def Batch.finish (b : Batch) : Cx Unit := Cx.writeWords b.ptr [b.live, b.admitMask]

/-- A bit of a mask replaced. -/
def putBit (m : Word) (t : Nat) (b : Bool) : Word := Bits.setFld m t 1 b.toNat

/-- Token `t` leaves LIVE and ADMIT. -/
def Batch.drop (b : Batch) (t : Nat) : Batch := { b with live := putBit b.live t false, admitMask := putBit b.admitMask t false }

/-- A token with its sequence record as read. -/
structure Token where
  t : Nat
  seq : Word
  words : List Word
  deriving DecidableEq, Repr

/-- Word `n` of a token's record. -/
def Token.w (k : Token) (n : Nat) : Word := k.words.getD n 0
/-- LEN: the position of the pending token (R341). -/
def Token.len (k : Token) : Nat := Bits.fld (k.w 0) 0 40
/-- CHAIN. -/
def Token.chain (k : Token) : Nat := Bits.fld (k.w 0) 44 4
/-- FL. -/
def Token.fl (k : Token) : Nat := Bits.fld (k.w 0) 48 8
/-- STATE. -/
def Token.state (k : Token) : Nat := Bits.fld (k.w 0) 62 2
/-- PEND bit `l`. -/
def Token.pend (k : Token) (l : Nat) : Bool := (k.w (8 + l / 64)).getLsbD (l % 64)

/-- The pinned area of a group of a sequence: a hamper pointer aligned to 256, not zero (R340, R347, R352). -/
def Token.resOk (k : Token) (g : Nat) : Bool :=
  let r := k.w (64 + g)
  spaceOf r == .hamper && Bits.fld r 0 8 = 0 && !mbzBad r

/-- A sequence record is well formed under a policy, the pinned area of each group that a layer maps to among it (R340, R352).
(DEDUCED, log 56) -/
def Token.wf (k : Token) (p : Policy) : Bool :=
  let sp := spaceOf k.seq
  p.layers.all k.resOk && (sp == .hamper || sp == .global) && Bits.fld k.seq 0 10 = 0 && k.state != 3 && Bits.fld (k.w 0) 56 5 = 0 && Bits.fld (k.w 0) 40 4 = 0 &&
    k.fl < p.nl && ((k.words.drop 12).take 52).all (· == 0)

/-- Token `t` with its record, skipped when it is LIVE and its sequence is suspended or abandoned (R352, R368). (DEDUCED, log 124)
(DEDUCED, log 56) -/
def Cx.token (b : Batch) (t : Nat) : Cx (Option Token) := do
  let ws ← Cx.words 128 (b.w (8 + t))
  let k : Token := ⟨t, b.w (8 + t), ws⟩
  pure (if b.live.getLsbD t && (k.state = 1 || k.state = 2) then none else some k)

/-- The token is valid as far as its record and the batch go (R352, R368). (DEDUCED, log 124) -/
def Batch.valid (b : Batch) (k : Token) : Bool := !b.all && k.state = 0 && k.w 1 == b.w 7 && b.pol.any k.wf

/-- The tokens of a mask, ascending. -/
def tokensOf (m : Word) : List Nat := (List.range 64).filter fun t => m.getLsbD t

/-- An action on each valid token of a list in turn: the mask of those it acted on, and the batch without the tokens skipped
(R368). -/
def Cx.tokens (act : Batch → Token → Cx (Batch × Bool)) : List Nat → Batch → Word → Cx (Batch × Word)
  | [], b, m => pure (b, m)
  | t :: ts, b, m => do
    let k ← Cx.token b t
    match k with
    | none => Cx.tokens act ts (b.drop t) m
    | some k =>
      if b.valid k then
        let (b, did) ← act b k
        Cx.tokens act ts b (if did then putBit m t true else m)
      else Cx.tokens act ts b m

/-- Words of a token's record written. -/
def Token.put (k : Token) (n : Nat) (ws : List Word) : Cx Unit := Cx.writeWords (plus k.seq (8 * n)) ws

/-- A leaf entry (R345): its state, tier, COW, the pointer to its block, and its stub set. -/
structure Leaf where
  state : Nat
  tier : Nat
  cow : Bool
  block : Word
  stub : Nat
  deriving DecidableEq, Repr

/-- The pointer that BASE gives (R345). -/
def leafBase (w0 : Word) : Word :=
  let base := Bits.fld w0 0 48
  if Bits.fld w0 58 3 = 0 then BitVec.ofNat 64 (0x82 * 2 ^ 56 + base / 2 ^ 46 * 2 ^ 54 + base % 2 ^ 26) else BitVec.ofNat 64 base

/-- BASE lies at a block of its extent (R344, R345). -/
def inExtent (base : Nat) (x0 x1 : Word) : Bool :=
  let eb := Bits.fld x0 0 48
  let es := Bits.fld x1 32 32
  let el := Bits.fld x1 0 32
  Bits.fld x0 48 16 = 0 && eb ≤ base && (if es = 0 then base = eb && el != 0 else (base - eb) % es = 0 && (base - eb) / es < el)

/-- Leaf `b` of a group of a token's sequence: `none` at or beyond NLEAF (R344, R345, R352). -/
def Cx.leaf (k : Token) (g b : Nat) : Cx (Option Leaf) := do
  let e ← Cx.words 2 (plus (k.w 2) (16 * g))
  Cx.need (Bits.fld (e.getD 1 0) 32 32 = 0)
  if Bits.fld (e.getD 1 0) 0 32 ≤ b then pure none
  else
    let table := e.getD 0 0
    let (w0, w1) ← Cx.leafWords (plus table (256 + 16 * b))
    let state := Bits.fld w0 62 2
    let base := Bits.fld w0 0 48
    let tier := Bits.fld w0 58 3
    Cx.need (Bits.fld w0 48 6 = 0 && tier < 4 && Bits.fld w1 0 4 = 0)
    let leaf : Leaf := ⟨state, tier, w0.getLsbD 61, leafBase w0, Bits.fld w1 48 16⟩
    if state < 2 then pure (some leaf)
    else
      Cx.need (base % 256 = 0 && (tier != 0 || Bits.nfld base 26 20 = 0))
      if Bits.fld w1 0 48 != 0 then pure (some leaf)
      else
        let x ← Cx.words 2 (plus table (16 * Bits.fld w0 54 4))
        Cx.need (inExtent base (x.getD 0 0) (x.getD 1 0))
        pure (some leaf)

/-- RES of a token's group. -/
def Cx.pinned (k : Token) (g : Nat) : Cx Word := do
  Cx.need (k.resOk g)
  pure (k.w (64 + g))

/-- The layer of a policy, or malformed. -/
def Cx.layer (p : Policy) (l : Nat) : Cx Layer :=
  match p.layer l with
  | some y => pure y
  | none => Cx.stop .malformed

/-- The address of a pinned row: keys for kv = 0, values for 1 (R347). -/
def pinRow (p : Policy) (y : Layer) (res : Word) (h kv row : Nat) : Word :=
  plus res ((((y.lam * p.hk + h) * 2 + kv) * y.rows + row) * p.row)

/-- The address of a row of a block of a layer (R346, R366). -/
def blockRow (p : Policy) (y : Layer) (f : Leaf) (h kv row : Nat) : Word :=
  plus f.block (y.lam * y.lb p + ((2 * h + kv) * y.seg + row) * p.row)

/-- The address of a stub of a layer (R349, R366). -/
def stubAt (p : Policy) (y : Layer) (k : Token) (set h : Nat) : Word :=
  plus (k.w 3) (((set + y.lam) * p.hk + h) * (p.row + 64))

/-! ### CATT (R369 to R371) -/

/-- Bytes of a row read. -/
def Cx.row (p : Policy) (a : Word) : Cx (List Byte) := Cx.readN (p.row / 8) a

/-- A key item from its key row and value row. -/
def Cx.keyItem (p : Policy) (k v : Word) : Cx (Option KeyItem) := do
  let kb ← Cx.row p k
  let vb ← Cx.row p v
  pure ((bf16Row kb).bind fun k => (bf16Row vb).map fun v => ⟨k, v⟩)

/-- The stub of block `b` for a KV head (R349, R352). -/
def Cx.stub (p : Policy) (y : Layer) (k : Token) (b set h : Nat) : Cx (Option StubItem) := do
  let a := stubAt p y k set h
  let kb ← Cx.row p a
  let ws ← Cx.words 8 (plus a p.row)
  let n := Bits.fld (ws.getD 0 0) 0 32
  let nb := f32Fix (Bits.fld (ws.getD 0 0) 32 32)
  Cx.need (1 ≤ n && n ≤ y.seg && nb.any (0 ≤ ·) && (ws.drop 1).all (· == 0))
  pure ((bf16Row kb).map fun key => ⟨b, key, n, (nb.getD 0).toNat⟩)

/-- A candidate: its mass, block and KV head (R351). -/
abbrev Cand := Nat × Nat × Nat

/-- Candidates by descending mass, then lower block, then lower head (R353). -/
def insertCand (c : Cand) : List Cand → List Cand
  | [] => [c]
  | d :: ds =>
    let before := d.1 < c.1 || (d.1 = c.1 && (c.2.1 < d.2.1 || (c.2.1 = d.2.1 && c.2.2 < d.2.2)))
    if before then c :: d :: ds else d :: insertCand c ds

/-- What CATT forms for one valid token: outputs by query head, candidates in rank, missing blocks. -/
structure Attended where
  outs : List (Nat × List Nat)
  cands : List Cand
  missing : List Nat
  deriving DecidableEq, Repr

/-- The items of one KV head, and its query heads (R348, R351, R370). -/
def Cx.head (b : Batch) (p : Policy) (y : Layer) (k : Token) (res : Word) (blocks : List (Nat × Leaf)) (h : Nat) :
    Cx (List (Nat × List Nat) × List Cand) := do
  let pos := k.len
  let new := plus (b.w 5) ((k.t * p.hk + h) * 2 * p.row)
  let self ← Cx.keyItem p new (plus new p.row)
  let pin (t : Nat) := Cx.keyItem p (pinRow p y res h 0 (y.rowOf t)) (pinRow p y res h 1 (y.rowOf t))
  let sinks ← Cx.each pin (List.range (min y.s pos))
  let w0 := y.s + y.seg * ((pos - y.s) / y.seg + 1 - y.wblk)
  let window ← Cx.each pin (if pos ≤ y.s then [] else (List.range (pos - w0)).map fun i => w0 + i)
  let full := blocks.filter fun x => 2 ≤ x.2.state
  let keys ← Cx.each (fun (x : Nat × Leaf) =>
    Cx.each (fun j => Cx.keyItem p (blockRow p y x.2 h 0 j) (blockRow p y x.2 h 1 j)) (List.range y.seg)) full
  let stubs ← Cx.each (fun (x : Nat × Leaf) => Cx.stub p y k x.1 x.2.stub h) (blocks.filter fun x => x.2.state = 1)
  let heads ← Cx.each (fun j => do
    let q ← Cx.row p (plus (b.w 3) ((k.t * p.hk * p.g + j) * p.row))
    pure (j, attend p.h y.bounded (bf16Row q) (self :: sinks ++ window ++ keys.flatten) stubs)) ((List.range p.g).map fun i => h * p.g + i)
  let masses := heads.flatMap fun x => x.2.2
  let ids := (blocks.filter fun x => x.2.state = 1).map Prod.fst
  let best := ids.map fun blk => (((masses.filter fun m => m.1 = blk).map Prod.snd).foldl max 0, blk, h)
  let th := Fp.decode Fp.f16 y.theta
  pure (heads.map fun x => (x.1, x.2.1), best.filter fun c => Fp.cmp (Fp.decode Fp.f32 c.1) th == .gt)

/-- One valid token attended over `count` KV heads from `h0` on (R370). (DEDUCED, log 54) -/
def Cx.attendToken (b : Batch) (p : Policy) (l h0 count : Nat) (k : Token) : Cx Attended := do
  let y ← Cx.layer p l
  let res ← Cx.pinned k y.group
  let older := if k.len ≤ y.s then 0 else (k.len - y.s) / y.seg + 1 - y.wblk
  let leaves ← Cx.each (fun blk => do
    let f ← Cx.leaf k y.group blk
    pure (blk, f)) (List.range older)
  let there := leaves.filterMap fun x => x.2.bind fun f => if f.state = 0 then none else some (x.1, f)
  let missing := (leaves.filter fun x => x.2.all fun f => f.state = 0).map Prod.fst
  let hs ← Cx.each (Cx.head b p y k res there) ((List.range count).map fun i => h0 + i)
  pure ⟨hs.flatMap Prod.fst, (hs.flatMap Prod.snd).foldl (fun l c => insertCand c l) [], missing⟩

/-- CHAIN after a fault, and the record word that holds it (R371). -/
def Token.faulted (k : Token) : Nat × Word :=
  let c := min (k.chain + 1) 15
  (c, Bits.setFld (k.w 0) 44 4 c)

/-- The group of a layer and its θ, as a fault record shows them: zero where the policy or the layer does not give them. (DEDUCED, log 55) -/
def Batch.groupInfo (b : Batch) (l : Nat) : Nat × Nat :=
  match b.pol with
  | some p => if l < p.nl then let g := p.layers.getD l 0; (g, Bits.fld (p.groups.getD (2 * g) 0) 48 16) else (0, 0)
  | none => (0, 0)

/-- A fault record (R353). (DEDUCED, log 55) -/
def faultRecord (k : Token) (g th l kind chain : Nat) (a : Attended) : List Word :=
  let entry (h blk : Nat) : Word := BitVec.ofNat 64 (h * 2 ^ 48 + blk)
  let more := if kind = 0 then ((a.cands.drop 1).map fun c => entry c.2.2 c.2.1) ++ a.missing.map (entry 0) else []
  let first := match kind, a.cands with
    | 0, c :: _ => entry c.2.2 c.2.1
    | 1, _ => entry 0 (a.missing.headD 0)
    | _, _ => 0
  let mass := if kind = 0 then (a.cands.headD (0, 0, 0)).1 else 0
  let w1 := kind * 2 ^ 56 + l % 256 * 2 ^ 48 + chain * 2 ^ 44 + g % 16 * 2 ^ 40 + k.len
  let w3 := g / 16 * 2 ^ 48 + th * 2 ^ 32 + mass
  let listed := more.take 8
  [k.seq, BitVec.ofNat 64 w1, first, BitVec.ofNat 64 w3] ++ listed ++ List.replicate (8 - listed.length) 0 ++
    [BitVec.ofNat 64 ((if 8 < more.length then 16 else 0) + listed.length), k.w 6, k.w 7, 0]

/-- The outcome of CATT so far: the batch, what it writes at completion, the faulting tokens and the causes. -/
structure CattOut where
  batch : Batch
  writes : List (Word × List Byte)
  mask : Word
  cause : Nat
  deriving DecidableEq, Repr

/-- A token faults (R371, R353). -/
def CattOut.fault (o : CattOut) (k : Token) (l kind : Nat) (a : Attended) : CattOut :=
  let (c, w) := k.faulted
  let (g, th) := o.batch.groupInfo l
  { batch := { o.batch with live := putBit o.batch.live k.t false }
    writes := o.writes ++ [(k.seq, Bits.wordLe w),
      (plus (o.batch.w 2) (128 * k.t), (faultRecord k g th l kind c a).flatMap Bits.wordLe)]
    mask := putBit o.mask k.t true
    cause := o.cause ||| 2 ^ kind }

/-- One LIVE token of CATT (R371, R357). -/
def Cx.cattToken (l h0 count : Nat) (o : CattOut) (t : Nat) : Cx CattOut := do
  let s ← get
  let b := o.batch
  let k ← Cx.token b t
  match k with
  | none => pure { o with batch := b.drop t }
  | some k =>
    let a ← Cx.tried (match b.pol with
      | some p => do
        Cx.need (b.valid k)
        Cx.attendToken b p l h0 count k
      | none => Cx.stop .malformed)
    match a with
    | none =>
      if s.ctx.tact then Cx.stop (.bad 0x28 4 0)
      else pure (o.fault k l 2 ⟨[], [], []⟩)
    | some a =>
      let hit := a.cands != [] || a.missing != []
      let admitted := Bits.fld (s.rcr 0x01B) 0 4 ≤ k.chain || s.ctx.tact || b.admitMask.getLsbD t
      if hit && !admitted then pure (o.fault k l (if a.cands = [] then 1 else 0) a)
      else
        let p := b.pol.getD ⟨1, 5, 1, 1, 0, [], []⟩
        let outs := a.outs.map fun x =>
          (plus (b.w 4) ((t * p.hk * p.g + x.1) * 2 * p.row), x.2.flatMap fun v => Bits.natLe 4 v)
        let appr := if hit then [(k.seq, Bits.wordLe (Bits.setFld (k.w 0) 61 1 1))] else []
        pure { o with writes := o.writes ++ outs ++ appr }

/-- The LIVE tokens in turn. -/
def Cx.cattTokens (l h0 count : Nat) : List Nat → CattOut → Cx CattOut
  | [], o => pure o
  | t :: ts, o => do
    let o ← Cx.cattToken l h0 count o t
    Cx.cattTokens l h0 count ts o

/-- What a context instruction leaves when it completes: its register result, the transfer it makes, the context fault it
raises. -/
structure Done where
  res : Option (Reg × Word)
  goto : Option (Word × Word)
  fault : Option (Byte × List Word)
  deriving DecidableEq, Repr

/-- A result in s[D]. -/
def Done.s (f : RForm) (v : Word) : Done := ⟨some (⟨.s, f.d.toNat⟩, v), none, none⟩

/-- CATT's work (R369 to R371): every write is made at its completion. (DEDUCED, log 54) -/
def cattBody (f : RForm) (s : State) : Cx Done := do
  let w := s.rs f.b.toNat
  let l := Bits.fld w 0 8
  let h0 := Bits.fld w 16 6
  let count := Bits.fld w 24 6 + 1
  let odd := Bits.fld w 8 8 != 0 || Bits.fld w 22 2 != 0 || Bits.fld w 30 34 != 0
  let b ← Cx.batch (s.ra f.a.toNat) fun p => odd || p.nl ≤ l || p.hk < h0 + count
  let o ← Cx.cattTokens l h0 count (tokensOf b.live) ⟨b, [], 0, 0⟩
  let _ ← Cx.each (fun (x : Word × List Byte) => Cx.write x.1 x.2) o.writes
  o.batch.finish
  pure ⟨none, none, if o.mask = 0 then none
    else some (BitVec.ofNat 8 o.cause, [o.mask, b.w 2, BitVec.ofNat 64 ((tokensOf o.mask).length + l * 256)])⟩

/-! ### CAPP (R373, R360) -/

/-- The place at which a valid token appends: its layer, its pinned area, and its block's leaf from S on; the shared-tail cause. -/
structure AppendAt where
  k : Token
  y : Layer
  res : Word
  leaf : Option Leaf
  cause : Nat
  deriving DecidableEq, Repr

/-- The cause of the shared-tail fault of a block, 0 for none (R360). -/
def sharedTail (f : Option Leaf) : Nat :=
  match f with
  | none => 2
  | some f => if f.state = 0 then 2 else if f.state = 1 || f.tier = 3 then 3 else if f.cow then 1 else 0

/-- Where token `k` appends at layer `l`. -/
def Cx.appendAt (p : Policy) (l : Nat) (k : Token) : Cx AppendAt := do
  let y ← Cx.layer p l
  let res ← Cx.pinned k y.group
  if k.len < y.s then pure ⟨k, y, res, none, 0⟩
  else
    let f ← Cx.leaf k y.group ((k.len - y.s) / y.seg)
    pure ⟨k, y, res, f, sharedTail f⟩

/-- The acting tokens of CAPP, and the batch without the skipped ones (R373 phase 1). -/
def Cx.appenders (p : Policy) (l : Nat) : List Nat → Batch → Cx (Batch × List AppendAt)
  | [], b => pure (b, [])
  | t :: ts, b => do
    let k ← Cx.token b t
    match k with
    | none => Cx.appenders p l ts (b.drop t)
    | some k =>
      let a ← if b.valid k && k.fl = l then Cx.tried (Cx.appendAt p l k) else pure none
      let (b, rest) ← Cx.appenders p l ts b
      pure (b, a.toList ++ rest)

/-- One token's rows of one KV head written (R348, R373 phase 2). -/
def Cx.appendHead (b : Batch) (p : Policy) (a : AppendAt) (h : Nat) : Cx Unit := do
  let new := plus (b.w 5) ((a.k.t * p.hk + h) * 2 * p.row)
  let kb ← Cx.row p new
  let vb ← Cx.row p (plus new p.row)
  let row := a.y.rowOf a.k.len
  Cx.write (pinRow p a.y a.res h 0 row) kb
  Cx.write (pinRow p a.y a.res h 1 row) vb
  match a.leaf with
  | none => pure ()
  | some f =>
    let row := (a.k.len - a.y.s) % a.y.seg
    Cx.write (blockRow p a.y f h 0 row) kb
    Cx.write (blockRow p a.y f h 1 row) vb

/-- One token appended, its PEND bit set. -/
def Cx.append (b : Batch) (p : Policy) (l : Nat) (a : AppendAt) : Cx Unit := do
  let _ ← Cx.each (Cx.appendHead b p a) (List.range p.hk)
  let n := 8 + l / 64
  a.k.put n [putBit (a.k.w n) (l % 64) true]

/-- CAPP's work (R373). -/
def cappBody (f : RForm) (s : State) : Cx Done := do
  let w := s.rs f.b.toNat
  let l := Bits.fld w 0 8
  let b ← Cx.batch (s.ra f.a.toNat) fun p => Bits.fld w 8 56 != 0 || p.nl ≤ l
  let p := b.pol.getD ⟨1, 5, 1, 1, 0, [], []⟩
  let (b, as) ← Cx.appenders p l (tokensOf b.live) b
  match as.find? fun a => a.cause != 0 with
  | some a =>
    let blk := (a.k.len - a.y.s) / a.y.seg
    Cx.stop (.trap 0x05 (BitVec.ofNat 8 a.cause) (BitVec.ofNat 64 (a.y.group * 2 ^ 56 + l * 2 ^ 48 + blk)) a.k.seq)
  | none =>
    let _ ← Cx.each (Cx.append b p l) as
    b.finish
    pure (Done.s f (as.foldl (fun m a => putBit m a.k.t true) 0))

/-! ### CCKP, CCMT, CRPL, CTRN (R372, R374 to R376) -/

/-- The hidden state copied (R372, R375). -/
def Cx.copyHidden (n : Nat) (src dst : Word) : Cx Unit := do
  let bs ← Cx.readN (n / 8) src
  Cx.write dst bs

/-- The hidden state of a token in the batch. -/
def Batch.hidden (b : Batch) (t : Nat) : Word := plus (b.w 6) (t * (b.pol.map Policy.bytes).getD 0)

/-- CCKP's work (R372). -/
def cckpBody (f : RForm) (s : State) : Cx Done := do
  let w := s.rs f.c.toNat
  let l := Bits.fld w 0 8
  let i := s.ctx.now.issue
  let b ← Cx.batch (s.ra f.a.toNat) fun p => Bits.fld w 8 56 != 0 || p.nl ≤ l
  let (b, m) ← Cx.tokens (fun b k => do
    Cx.copyHidden ((b.pol.map Policy.bytes).getD 0) (b.hidden k.t) (k.w 4)
    k.put 0 [Bits.setFld (k.w 0) 48 8 l]
    k.put 6 [i.addr, i.mpc0]
    pure (b, true)) (tokensOf (b.live &&& s.rs f.b.toNat)) b 0
  b.finish
  pure (Done.s f m)

/-- The pending state of a record cleared: FL, CHAIN and PEND are zero, word 0 otherwise `w` (R355, R360). -/
def Token.clear (k : Token) (w : Word) : Cx Unit := do
  k.put 0 [Bits.setFld (Bits.setFld w 48 8 0) 44 4 0]
  k.put 8 [0, 0, 0, 0]

/-- CCMT's work (R374, R355). -/
def ccmtBody (f : RForm) (s : State) : Cx Done := do
  let b ← Cx.batch (s.ra f.a.toNat) fun _ => false
  let (b, m) ← Cx.tokens (fun b k => do
    if (List.range ((b.pol.map Policy.nl).getD 0)).all k.pend && k.len < 2 ^ 40 - 1 then
      k.clear (Bits.setFld (k.w 0) 0 40 (k.len + 1))
      pure ({ b with admitMask := putBit b.admitMask k.t false }, true)
    else pure (b, false)) (tokensOf (b.live &&& s.rs f.b.toNat)) b 0
  b.finish
  pure (Done.s f m)

/-- The valid tokens of a list, and the batch without the skipped ones. -/
def Cx.validTokens : List Nat → Batch → Cx (Batch × List Token)
  | [], b => pure (b, [])
  | t :: ts, b => do
    let k ← Cx.token b t
    match k with
    | none => Cx.validTokens ts (b.drop t)
    | some k =>
      let (b', rest) ← Cx.validTokens ts b
      pure (b', if b.valid k then k :: rest else rest)

/-- CRPL's work (R375). -/
def crplBody (f : RForm) (s : State) : Cx Done := do
  let b ← Cx.batch (s.ra f.a.toNat) fun _ => false
  let (b, ks) ← Cx.validTokens (tokensOf (s.rs f.b.toNat)) b
  match ks with
  | [] =>
    Batch.finish { b with live := 0 }
    pure (Done.s f 0)
  | k :: _ =>
    let r := k.w 6
    let m := k.w 7
    if misaligned r || Bits.fld m 0 3 != 0 then Cx.stop (.illegal 0x0C)
    else
      let rs := ks.filter fun x => x.w 6 == r && x.w 7 == m
      let _ ← Cx.each (fun (x : Token) => Cx.copyHidden ((b.pol.map Policy.bytes).getD 0) (x.w 4) (b.hidden x.t)) rs
      let live := rs.foldl (fun m x => putBit m x.t true) (0 : Word)
      let admitMask := rs.foldl (fun m x => putBit m x.t (f.sub.getLsbD 0)) b.admitMask
      Batch.finish { b with live := live, admitMask := admitMask }
      pure { Done.s f live with goto := some (r, m) }

/-- CTRN's work (R376, R360). -/
def ctrnBody (f : RForm) (s : State) : Cx Done := do
  let b ← Cx.batch (s.ra f.a.toNat) fun _ => false
  let (b, m) ← Cx.tokens (fun b k => do
    k.clear (if f.sub.getLsbD 0 then Bits.setFld (k.w 0) 62 2 2 else k.w 0)
    pure (b.drop k.t, true)) (tokensOf (s.rs f.b.toNat)) b 0
  b.finish
  pure (Done.s f m)

/-! ### Records, leaves and stubs (R377 to R382) -/

/-- An access with atomic permission (R364). -/
def atomAccess (n : Nat) : Access := ⟨.atomic, n, true, false⟩

/-- CSEQ's work (R377). (DEDUCED, log 39) -/
def cseqBody (f : RForm) (s : State) : Cx Done := do
  let a := s.ra f.a.toNat
  let v := s.rs f.b.toNat
  if Bits.fld v 40 21 != 0 || Bits.fld v 62 2 = 3 then pure (Done.s f (BitVec.allOnes 64))
  else
    let _ ← Cx.each (fun i => Cx.access (atomAccess 8) (.write (Bits.natLe 8 0)) (plus a (64 + 8 * i))) (List.range 4)
    let old ← Cx.access (atomAccess 8) (.atom .xchg 8 8 v.toNat 0) a
    pure (Done.s f (Bits.leWord old))

/-- A new word 0 of a leaf that R378 refuses. -/
def leafRefused (w : Word) : Bool := Bits.fld w 48 6 != 0 || 4 ≤ Bits.fld w 58 3 || Bits.fld w 0 8 != 0

/-- The leaf at an address replaced by `new` of its words, where that gives any; its old word 0 (R378). -/
def Cx.leafUpdate (f : RForm) (a : Word) (refused : Bool) (new : Word → Word → Option (Word × Word)) : Cx Done := do
  let (b, item) ← Cx.leafNow a
  if refused then pure (Done.s f (BitVec.allOnes 64))
  else
    match new (Bits.leWord (b.take 8)) (Bits.leWord (b.drop 8)) with
    | some (x, y) =>
      let _ ← Cx.access (atomAccess 16) (.write (Bits.wordLe x ++ Bits.wordLe y)) a
      pure (Done.s f (Bits.leWord (item.take 8)))
    | none => pure (Done.s f (Bits.leWord (item.take 8)))

/-- CMAP's work (R378). -/
def cmapBody (f : RForm) (s : State) : Cx Done :=
  let w0 := s.rs f.b.toNat
  let w1 := s.rs f.c.toNat
  Cx.leafUpdate f (s.ra f.a.toNat) (leafRefused w0 || Bits.fld w1 0 4 != 0) fun _ _ => some (w0, w1)

/-- CRES's work (R378). -/
def cresBody (f : RForm) (s : State) : Cx Done :=
  let w0 := s.rs f.b.toNat
  let c := s.rs f.c.toNat
  Cx.leafUpdate f (s.ra f.a.toNat) (leafRefused w0 || Bits.fld c 2 62 != 0) fun o0 o1 =>
    if Bits.fld o0 62 2 = Bits.fld c 0 2 then some (w0, o1) else none

/-- The count that CREF makes of word 0 of a block header, if it accepts it (R379). -/
def crefCount (w0 : Nat) (v : Word) : Option Nat :=
  let n : Int := (w0 % 2 ^ 32 : Nat) + v.toInt
  if 0 ≤ n && n < 2 ^ 32 && w0 / 2 ^ 32 = 0 then some n.toNat else none

/-- CREF's work (R379). -/
def crefBody (f : RForm) (s : State) : Cx Done := do
  let a := s.ra f.a.toNat
  let v := s.rs f.b.toNat
  let (b, item) ← Cx.leafNow a
  let out := Done.s f (((crefCount (Bits.leNat (item.take 8)) v).map (BitVec.ofNat 64)).getD (BitVec.allOnes 64))
  match crefCount (Bits.leNat (b.take 8)) v with
  | some n =>
    let _ ← Cx.access (atomAccess 16) (.write (Bits.natLe 8 n ++ b.drop 8)) a
    pure out
  | none => pure out

/-- Layers of a group. -/
def Policy.groupLayers (p : Policy) (g : Nat) : Nat := (p.layers.filter (· == g)).length

/-- A pinned area is accepted (R380): zero, or a hamper pointer whose area lies within its hamper. (DEDUCED, log 60) -/
def pinAccepted (p : Option Policy) (g : Nat) (v : Word) : Bool :=
  v == 0 || (spaceOf v == .hamper && !mbzBad v && Bits.fld v 0 8 = 0 && p.any fun p => (p.groupOf g 0).any fun y =>
    Bits.fld v 0 26 + p.groupLayers g * p.hk * 2 * y.rows * p.row ≤ 2 ^ 26)

/-- CPIN's work (R380). (DEDUCED, log 60) -/
def cpinBody (f : RForm) (s : State) : Cx Done := do
  let a := s.ra f.a.toNat
  let g := Bits.fld (s.rs f.b.toNat) 0 6
  let v := s.ra f.c.toNat
  let ptr ← Cx.word (plus a 8)
  let p ← Cx.policy ptr
  if Bits.fld (s.rs f.b.toNat) 6 58 = 0 && pinAccepted p g v then
    let old ← Cx.word (plus a (512 + 8 * g))
    Cx.writeWords (plus a (512 + 8 * g)) [v]
    pure (Done.s f old)
  else pure (Done.s f (BitVec.allOnes 64))

/-- The block of entry `i` of a fault record (R381). (DEDUCED, log 58) -/
def recordBlock (ws : List Word) (i : Nat) : Option Nat :=
  if 1 < Bits.fld (ws.getD 1 0) 56 3 then none
  else if i = 0 then some (Bits.fld (ws.getD 2 0) 0 48)
  else if i ≤ min 8 (Bits.fld (ws.getD 12 0) 0 4) then some (Bits.fld (ws.getD (3 + i) 0) 0 48)
  else none

/-- CFREC's work (R381). -/
def cfrecBody (f : RForm) (s : State) : Cx Done := do
  let a := s.ra f.a.toNat
  Cx.checked ⟨.read, 8, false, false⟩ a
  if Bits.fld a 0 7 != 0 then Cx.stop (.bad 0x22 1 a)
  else
    let ws ← Cx.words 16 a
    let out (v : Word) : Done := ⟨some (⟨.a, f.d.toNat⟩, v), none, none⟩
    match recordBlock ws (s.rs f.b.toNat).toNat with
    | none => pure (out 0)
    | some blk =>
      let g := Bits.fld (ws.getD 3 0) 48 2 * 16 + Bits.fld (ws.getD 1 0) 40 4
      let root ← Cx.word (plus (ws.getD 0 0) 16)
      let e ← Cx.words 2 (plus root (16 * g))
      pure (out (if blk < Bits.fld (e.getD 1 0) 0 32 then plus (e.getD 0 0) (256 + 16 * blk) else 0))

/-- One KV head's stub formed and written (R382). (DEDUCED, log 59) -/
def Cx.formStub (p : Policy) (y : Layer) (k : Token) (f : Leaf) (n h : Nat) : Cx Unit := do
  let rows ← Cx.each (fun j => do
    let bs ← Cx.row p (blockRow p y f h 0 j)
    pure ((List.range (2 ^ p.h)).map fun e => Bits.nfld (Bits.leNat bs) (16 * e) 16)) (List.range n)
  let (mean, nb) := stubOf rows (2 ^ p.h)
  Cx.write (stubAt p y k f.stub h) ((mean.flatMap fun x => Bits.natLe 2 x) ++ Bits.natLe 8 (n + nb * 2 ^ 32) ++ List.replicate 56 0)

/-- CSTB's work on a record, once its policy is well formed (R382): the status. (DEDUCED, log 59) -/
def Cx.stubSet (p : Policy) (k : Token) (l b : Nat) : Cx Word := do
  Cx.need (k.wf p && l < p.nl)
  let y ← Cx.layer p l
  let f ← Cx.leaf k y.group b
  match f with
  | none => pure 1
  | some f =>
    if f.state < 2 then pure 1
    else
      let n := min (k.len - y.s - b * y.seg) y.seg
      if n = 0 then pure 2
      else
        let _ ← Cx.each (Cx.formStub p y k f n) (List.range p.hk)
        pure 0

/-- CSTB's work (R382). (DEDUCED, log 59) -/
def cstbBody (f : RForm) (s : State) : Cx Done := do
  let a := s.ra f.a.toNat
  let w := s.rs f.b.toNat
  let ws ← Cx.words 128 a
  let k : Token := ⟨0, a, ws⟩
  let p ← Cx.policy (k.w 1)
  let r ← Cx.tried (match p with
    | some p => do
      Cx.need (Bits.fld w 56 8 = 0)
      Cx.stubSet p k (Bits.fld w 0 8) (Bits.fld w 8 48)
    | none => Cx.stop .malformed)
  pure (Done.s f (r.getD 3))

/-! ### Issue and completion (R364, R365) -/

/-- The work of a context instruction. -/
def contextBody (i : Instr) (s : State) : Cx Done :=
  match i with
  | .catt f => cattBody f s
  | .capp f => cappBody f s
  | .cstb f => cstbBody f s
  | .ccmt f => ccmtBody f s
  | .cckp f => cckpBody f s
  | .crpl f => crplBody f s
  | .cfrec f => cfrecBody f s
  | .cres f => cresBody f s
  | .cmap f => cmapBody f s
  | .cref f => crefBody f s
  | .cpin f => cpinBody f s
  | .cseq f => cseqBody f s
  | .ctrn f => ctrnBody f s
  | _ => pure ⟨none, none, none⟩

/-- An access of the context issued before operation (idx, k) has not been performed (R213), or a barrier before it has not completed
(R214). (DEDUCED, log 16) -/
def State.accessOpen (s : State) (idx k : Nat) : Bool :=
  let before (i j : Nat) : Bool := i < idx || (i = idx && j < k)
  s.ctx.behindBarrier idx || s.ctx.laggardMeets idx k false ||
  ((s.ctx.pipe.slots.zipIdx).any fun x => x.1.flights.any fun f => f.mem.isSome && before f.idx x.2) ||
  (s.reqs.any fun r => r.uid == s.ctx.uid && before r.idx r.slot.val) ||
  (s.resps.any fun r => r.uid == s.ctx.uid && r.write && before r.idx r.slot.val) ||
  (s.ctx.releases.any fun r => r.idx < idx)

/-- An event is raised that prevails over one of slot `k` at an issue: of an earlier issue, or of a lower slot (R315). -/
def Ctx.outranked (c : Ctx) (i : Issue) (k : Nat) : Bool := c.raised.any fun r => r.idx < i.idx || (r.idx = i.idx && r.slot < k)

/-- No other slot can still raise an event that prevails over one of slot `k` at an issue (R315, R354). -/
def Ctx.alone (c : Ctx) (i : Issue) (k : Nat) : Bool :=
  (c.pipe.slots.zipIdx).all fun x => x.2 = k || i.idx < x.1.pos || (k < x.2 && x.1.pos = i.idx)

/-- What the executing context instruction has written is performed at DOMAIN scope (R364). -/
def State.contextPerformed (s : State) : State :=
  let (i, k) := (s.ctx.now.issue.idx, s.k.val)
  s.performAtScope (some s.ctx) s.ctx.seat 4
    ((s.history.filter fun w => w.runs != [] && w.agent == .ctx s.ctx.uid && w.origin.idx = i && w.origin.slot = k).map Past.whole)

/-- A context instruction completes: its accesses have been made in `s`. (DEDUCED, log 16) -/
def State.contextDone (s : State) (i : Instr) (d : Done) : State :=
  let s := s.contextPerformed.endWait []
  let s := match d.res with
    | some (r, v) => s.postReg 1 r v
    | none => s
  let s := match d.goto with
    | some (r, m) => (s.branch r).mapCtx fun c => { c with pipe := { c.pipe with mpc := m } }
    | none => match i with
      | .crpl _ => s.unblock
      | _ => s
  match d.fault with
  | some (cause, ctxf) => s.raiseDone 0x04 cause 0 ctxf
  | none => s

/-- An access of a context instruction is answered receiver-not-ready (R405): it tries again 1 µs later, and each time after twice the last
interval up to 64 µs, until TKEXP.RNRT has elapsed since the first answer. (DEDUCED, log 62) -/
def State.contextRetry (s : State) (ea : Word) (catt : Bool) (rnr : Option (Nat × Nat × Nat)) : State :=
  let us := s.usCycles s.ctx.die
  let since := (rnr.map Prod.fst).getD s.clock
  let lim := since + Bits.fld s.ctx.tkexp 32 20 * us
  let step := min (2 * (rnr.map fun t => t.2.1).getD 0 + (if rnr.isNone then 1 else 0)) 64
  if lim ≤ s.clock then (s.endWait []).raise 0x25 1 0 ea
  else s.mapSlot fun x => { x with wait := some (.context (min (s.clock + step * us) lim) catt (some (since, step, Bits.fld ea 48 8))) }

/-- The executing slot tries to complete its context instruction. (DEDUCED, log 16) (DEDUCED, log 62) -/
def State.pollContext (s : State) (i : Instr) (ready : Nat) (catt : Bool) (rnr : Option (Nat × Nat × Nat)) : State :=
  let idx := s.ctx.now.issue.idx
  if s.clock < ready || s.accessOpen idx s.k.val then s
  else
    match contextBody i s s with
    | .ok (d, s') =>
      if catt && (s.ctx.outranked s.ctx.now.issue s.k.val || (d.fault.isSome && !s.ctx.alone s.ctx.now.issue s.k.val)) then s
      else s'.contextDone i d
    | .error .park => s
    | .error (.notReady ea) => s.contextRetry ea catt rnr
    | .error (.bad cls cause ea) => (s.endWait []).raise cls cause 0 ea
    | .error (.trap cls cause detail addr) => (s.endWait []).raise cls cause detail addr
    | .error (.illegal cause) => (s.endWait []).raiseIllegal cause
    | .error .malformed => s.endWait []

/-- The issue of a context instruction (R363, R364). -/
def State.contextIssue (s : State) (i : Instr) (catt : Bool) : State :=
  let (d, s) := s.takeDelay
  (s.waitIn (.context (s.clock + d) catt none)).pollContext i (s.clock + d) catt none

/-- A context instruction of the S slot. -/
def State.contextS (s : State) (f : RForm) (i : Instr) : State := s.guarded f.pred f.pneg fun s => s.contextIssue i false

/-- A context instruction of the M slot, which holds the array (R364, R77). -/
def State.contextM (s : State) (f : RForm) (i : Instr) (catt : Bool) : State :=
  s.guarded f.pred f.pneg fun s => if s.ctx.arrayBusy then s.stall else s.contextIssue i catt

/-- CATT (R369 to R371). -/
def execCatt (f : RForm) (s : State) : Out := .next (s.contextM f (.catt f) true)
/-- CAPP (R373). -/
def execCapp (f : RForm) (s : State) : Out := .next (s.contextM f (.capp f) false)
/-- CSTB (R382). -/
def execCstb (f : RForm) (s : State) : Out := .next (s.contextM f (.cstb f) false)
/-- CCMT (R374). -/
def execCcmt (f : RForm) (s : State) : Out := .next (s.contextS f (.ccmt f))
/-- CCKP (R372). -/
def execCckp (f : RForm) (s : State) : Out := .next (s.contextS f (.cckp f))
/-- CRPL (R375): one that does not act falls through. -/
def execCrpl (f : RForm) (s : State) : Out :=
  .next (if s.acts f.pred f.pneg then s.contextIssue (.crpl f) false else s.unblock)
/-- CFREC (R381). -/
def execCfrec (f : RForm) (s : State) : Out := .next (s.contextS f (.cfrec f))
/-- CRES (R378). -/
def execCres (f : RForm) (s : State) : Out := .next (s.contextS f (.cres f))
/-- CMAP (R378). -/
def execCmap (f : RForm) (s : State) : Out := .next (s.contextS f (.cmap f))
/-- CREF (R379). -/
def execCref (f : RForm) (s : State) : Out := .next (s.contextS f (.cref f))
/-- CPIN (R380). -/
def execCpin (f : RForm) (s : State) : Out := .next (s.contextS f (.cpin f))
/-- CSEQ (R377). -/
def execCseq (f : RForm) (s : State) : Out := .next (s.contextS f (.cseq f))
/-- CTRN (R376). -/
def execCtrn (f : RForm) (s : State) : Out := .next (s.contextS f (.ctrn f))

end Sys2Proof.Machine
end

