-- ==== Sys2Proof/Machine/Geometry.lean ====
section
/-! DEFINITION. Exact geometric predicates (R383 to R397): determinants over exact values, the symbolic tie-break, the stage that
decides a test, and the operations with their landing entries. -/

namespace Sys2Proof.Geo

/-- A polynomial in ε: exponent and coefficient, exponents rising, no coefficient zero (R389). A number is one of degree 0. -/
abbrev Poly := List (Nat × Int)

/-- A term added. -/
def addTerm (k : Nat) (v : Int) : Poly → Poly
  | [] => if v = 0 then [] else [(k, v)]
  | (j, w) :: r =>
    if k < j then (if v = 0 then (j, w) :: r else (k, v) :: (j, w) :: r)
    else if k = j then (if w + v = 0 then r else (j, w + v) :: r)
    else (j, w) :: addTerm k v r

/-- A sum. -/
def add (a b : Poly) : Poly := b.foldl (fun p t => addTerm t.1 t.2 p) a
/-- A difference. -/
def sub (a b : Poly) : Poly := b.foldl (fun p t => addTerm t.1 (-t.2) p) a
/-- A product. -/
def mul (a b : Poly) : Poly := a.foldl (fun p t => b.foldl (fun p u => addTerm (t.1 + u.1) (t.2 * u.2) p) p) []

/-- The operations of a determinant's entries: exact numbers, or polynomials in ε. -/
structure Arith (α : Type) where
  add : α → α → α
  sub : α → α → α
  mul : α → α → α

/-- Exact numbers. -/
def ints : Arith Int := ⟨fun a b => a + b, fun a b => a - b, fun a b => a * b⟩
/-- Polynomials. -/
def polys : Arith Poly := ⟨add, sub, mul⟩

/-- The tests (R386). -/
inductive Kind where
  | orient2 | orient3 | circle | sphere
  deriving DecidableEq, Repr

/-- Coordinates of a point. -/
def Kind.dim : Kind → Nat
  | .orient2 | .circle => 2
  | .orient3 | .sphere => 3

/-- The difference of two points. -/
def diff {α : Type} (r : Arith α) (p q : List α) : List α := List.zipWith r.sub p q

/-- The squared length of a vector. -/
def norm {α : Type} (r : Arith α) (z : α) (v : List α) : α := (v.map fun x => r.mul x x).foldl r.add z

/-- The rows of the matrix of R386; `z` is zero. -/
def rows {α : Type} (r : Arith α) (z : α) (k : Kind) (ps : List (List α)) : List (List α) :=
  match k with
  | .orient2 | .orient3 => ps.tail.map fun p => diff r p (ps.headD [])
  | .circle => ps.dropLast.map fun p => let d := diff r p (ps.getLastD []); d ++ [norm r z d]
  | .sphere => ps.dropLast.map fun p => let d := diff r p (ps.getLastD []); norm r z d :: d

/-- The list without entry `i`. -/
def without {α : Type} (l : List α) (i : Nat) : List α := l.take i ++ l.drop (i + 1)

/-- Expansion along the first row, for at most `n` rows: `even` and `odd` add the products of even and odd columns. -/
def expand {α : Type} (r : Arith α) (z one : α) (even odd : α → α → α) : Nat → List (List α) → α
  | 0, _ => one
  | _ + 1, [] => one
  | n + 1, row :: rest =>
    (row.zipIdx).foldl (fun acc x =>
      let t := r.mul x.1 (expand r z one even odd n (rest.map fun q => without q x.2))
      if x.2 % 2 = 0 then even acc t else odd acc t) z

/-- The determinant Δ (R386). -/
def det (m : List (List Int)) : Int := expand ints 0 1 (fun a b => a + b) (fun a b => a - b) m.length m
/-- The determinant as a polynomial in ε (R389). -/
def detPoly (m : List (List Poly)) : Poly := expand polys [] [(0, 1)] add sub m.length m
/-- The permanent Π of the absolute values (R386). -/
def permanent (m : List (List Int)) : Int :=
  expand ints 0 1 (fun a b => a + b) (fun a b => a + b) m.length (m.map fun r => r.map fun x => (x.natAbs : Int))

/-- The sign of a number. -/
def sgn (x : Int) : Int := if x < 0 then -1 else if x = 0 then 0 else 1

/-- The rank of an index among the test's (R389). -/
def rank (ids : List Nat) (x : Nat) : Nat := (ids.filter (· < x)).length

/-- Pairwise distinct indices. -/
def distinct : List Nat → Bool
  | [] => true
  | x :: xs => !xs.contains x && distinct xs

/-- The code of the symbolic tie-break: the sign of the lowest coefficient, doubled. Coordinates are in units of 2^−`q`, so one is
2^`q` units (R389). -/
def tieCode (k : Kind) (q : Nat) (ps : List (List Int)) (ids : List Nat) : Int :=
  let one : Int := (2 ^ q : Nat)
  let ps := List.zipWith (fun (p : List Int) x => (p.zipIdx).map fun c =>
    addTerm (2 ^ (k.dim * rank ids x + c.2)) one (addTerm 0 c.1 [])) ps ids
  match detPoly (rows polys [] k ps) with
  | [] => 0
  | t :: _ => 2 * sgn t.2

/-- Thresholds of R390: t0 = 2^−k0 and t1 = 2^−k1. -/
def thresholds (p64 : Bool) : Nat × Nat := if p64 then (48, 200) else (20, 96)

/-- One test: its code and the stage that decides it (R387, R389, R390). -/
def test (p64 : Bool) (k : Kind) (q : Nat) (ps : List (List Int)) (ids : Option (List Nat)) : Int × Nat :=
  let m := rows ints 0 k ps
  let d := det m
  let pm := permanent m
  let t := thresholds p64
  if d = 0 && ids.any distinct then (tieCode k q ps (ids.getD []), 2)
  else
    let stage := if pm < d.natAbs * 2 ^ t.1 || pm = 0 then 0 else if pm < d.natAbs * 2 ^ t.2 then 1 else 2
    (sgn d, stage)

/-- The overlap of two closed ranges given by their ends. -/
def rangesTouch (a b c d : Int) : Bool := max (min a b) (min c d) ≤ min (max a b) (max c d)

/-- GSEG (R388). -/
def segment (p64 : Bool) (q : Nat) (ps : List (List Int)) (ids : Option (List Nat)) : Int × Nat :=
  let o (i j k : Nat) : Int × Nat :=
    test p64 .orient2 q [ps.getD i [], ps.getD j [], ps.getD k []] (ids.map fun x => [x.getD i 0, x.getD j 0, x.getD k 0])
  let os := [o 0 1 2, o 0 1 3, o 2 3 0, o 2 3 1]
  let g := os.map fun x => sgn x.1
  let s (i : Nat) : Int := g.getD i 0
  let c (p i : Nat) : Int := (ps.getD p []).getD i 0
  let r : Int :=
    if 0 < s 0 * s 1 || 0 < s 2 * s 3 then -1
    else if g.all (· != 0) then 1
    else if g.all (· == 0) then
      if rangesTouch (c 0 0) (c 1 0) (c 2 0) (c 3 0) && rangesTouch (c 0 1) (c 1 1) (c 2 1) (c 3 1) then 0 else -1
    else 0
  (if os.any fun x => x.1.natAbs = 2 then 2 * r else r, (os.map Prod.snd).foldl max 0)

/-- The stage latencies L0, L1, L2 (R391). -/
def latency (op : Nat) (p64 : Bool) : Nat × Nat × Nat :=
  match op, p64 with
  | 1, false => (8, 20, 56)
  | 1, true => (10, 40, 128)
  | 2, false => (8, 24, 64)
  | 2, true => (10, 48, 160)
  | 3, false => (10, 40, 128)
  | 3, true => (14, 88, 352)
  | _, false => (6, 12, 24)
  | _, true => (8, 20, 48)

end Sys2Proof.Geo

namespace Sys2Proof.Machine

/-- The exact value of test `j` in a register: binary32, or a binary64 lane pair (R385). -/
def geoValue (p64 : Bool) (v : Vec) (j : Nat) : Fp.FVal :=
  if p64 then Fp.decode Fp.f64 (Bits.elem v 64 j) else Fp.decode Fp.f32 (Bits.elem v 32 j)

/-- The tests that are active (R385). -/
def activeTests (p64 : Bool) (g : Word) : List Nat :=
  if p64 then (List.range 32).filter fun j => g.getLsbD (2 * j) else (List.range 64).filter fun i => g.getLsbD i

/-- The coordinates of the points of a test. -/
structure GeoTest where
  num : Nat
  vals : List Fp.FVal
  ids : Option (List Nat)
  deriving DecidableEq, Repr

/-- A coordinate is an infinity: 1, a NaN: 2; 0 for a finite one (R395). -/
def nonFinite : Fp.FVal → Nat
  | .inf _ => 1
  | .nan _ => 2
  | .fin _ _ _ => 0

/-- The non-finite operands of a test, as CAUSE shows them. -/
def GeoTest.cause (t : GeoTest) : Nat := (t.vals.map nonFinite).foldl (fun a b => a ||| b) 0

/-- A test's code and stage: `op` numbers GO2D to GSEG (R386 to R390, R394). -/
def GeoTest.decide (t : GeoTest) (op dim : Nat) (p64 : Bool) : Int × Nat :=
  let unit := if p64 then 1074 else 149
  match Fp.allScaled unit t.vals with
  | none => (-(2 ^ 31 : Nat), 0)
  | some is =>
    let ps := (List.range (is.length / dim)).map fun k => (is.drop (dim * k)).take dim
    match op with
    | 0 => Geo.test p64 .orient2 unit ps t.ids
    | 1 => Geo.test p64 .orient3 unit ps t.ids
    | 2 => Geo.test p64 .circle unit ps t.ids
    | 3 => Geo.test p64 .sphere unit ps t.ids
    | _ => Geo.segment p64 unit ps t.ids

/-- A test's code in its lane, or its lane pair (R387). -/
def geoLanes (p64 : Bool) (rs : List (Nat × Int × Nat)) : Vec × Vec :=
  let at' (i : Nat) : Option Int := (rs.lookup (if p64 then i / 2 else i)).map Prod.fst
  (Bits.ofLanes fun i => match at' i with
    | some c => (c % 2 ^ 32).toNat
    | none => 0,
   Bits.ofLanes fun i => if (at' i).isSome then 2 ^ 32 - 1 else 0)

/-- A geometry operation at issue: `op` numbers it, with its dimension and points (R384 to R396). (DEDUCED, log 64) -/
def State.geometry (s : State) (f : RForm) (op dim pts : Nat) : State :=
  let p64 := f.c.getLsbD 0
  let tb := f.c.getLsbD 1
  let active := activeTests p64 (s.guardVal f.pred f.pneg)
  if active = [] then s
  else if !s.landFree then s.stall
  else
    let regs := (List.range (dim * pts)).map fun i => s.rv (f.a.toNat + i)
    let idx := (List.range pts).map fun i => s.rv (f.b.toNat + i)
    let tests := active.map fun j =>
      (⟨j, regs.map fun v => geoValue p64 v j,
        if tb then some (idx.map fun v => (Bits.lane v (if p64 then 2 * j else j)).toNat) else none⟩ : GeoTest)
    let bad := tests.filter fun t => t.cause != 0
    let marked := (s.ctx.now.cap.bind Capture.marked).getD 0
    if (s.rcr 0x018).getLsbD 0 && bad.any fun t => !marked.getLsbD t.num then
      s.raise 0x08 (BitVec.ofNat 8 (bad.foldl (fun a t => a ||| t.cause) 0))
        (BitVec.ofNat 64 (bad.foldl (fun a t => a + 2 ^ t.num) 0)) (BitVec.ofNat 64 ((bad.map GeoTest.num).headD 0))
    else
      let rs := tests.map fun t => (t.num, t.decide op dim p64)
      let n2 := (rs.filter fun r => r.2.2 = 2).length
      let n1 := (rs.filter fun r => r.2.2 = 1).length
      let (v, m) := geoLanes p64 rs
      let (l0, l1, l2) := Geo.latency op p64
      let j : GeoJob :=
        { val := v, mask := m, n1 := n1, n2 := n2, l0 := l0, esc := (n1 + n2 + 15) / 16 * l1 + n2 * l2, left := 0, unit := s.k }
      let (j, busy) := j.begin s.ctx.geoBusy
      let (_, s) := s.takeLanding f.sub.toNat (some ⟨⟨.v, f.d.toNat⟩, 0, false⟩) (some j)
      s.mapCtx fun c => { c with geoBusy := busy }

/-- GO2D (R383 to R396). -/
def execGo2d (f : RForm) (s : State) : Out := .next (s.geometry f 0 2 3)
/-- GO3D. -/
def execGo3d (f : RForm) (s : State) : Out := .next (s.geometry f 1 3 4)
/-- GINC. -/
def execGinc (f : RForm) (s : State) : Out := .next (s.geometry f 2 2 4)
/-- GINS. -/
def execGins (f : RForm) (s : State) : Out := .next (s.geometry f 3 3 5)
/-- GSEG (R388). -/
def execGseg (f : RForm) (s : State) : Out := .next (s.geometry f 4 2 4)

/-- GEOMETRY_RESULT_READY (R391, R392): entry `entry` of the focused context has decided its last test. -/
def execGeometryResultReady (entry : Nat) (s : State) : Out :=
  match (s.ctx.landings ++ s.ctx.replay).find? fun e => e.id == entry with
  | some e =>
    (match e.geo, e.dst with
      | some j, some d =>
        if j.left = 0 then
          let off (l : List Landing) := l.map fun x => if x.id = entry then { x with geo := none } else x
          let s := s.mapCtx fun c => { c with landings := off c.landings, replay := off c.replay }
          .next (s.landData entry [.vec d.reg.num j.val j.mask, .esc j.n1 j.n2])
        else .next s
      | _, _ => .next s)
  | none => .next s

end Sys2Proof.Machine
end

