-- ==== Sys2Proof/Machine/Engine.lean ====
section
/-! DEFINITION. Engine commands (R83, R235 to R260): their issue and start, the transfers, lanes and tables, verified completion and
failure (R216, R240 to R243, R331). A command's bytes are moved in one step, at its completion or its failure. -/

namespace Sys2Proof.Machine

/-! ### Issue (R83, R235, R236) -/

/-- The number of a command's operation (R140). -/
def cmdOp (i : Instr) : Nat :=
  match i with
  | .cpy _ => 1
  | .tmov _ => 2
  | .gsx _ => 3
  | .fstt _ => 4
  | .fstl _ => 5
  | .xlnk _ => 6
  | .wstr _ => 7
  | .tful _ => 8
  | .temp _ => 9
  | _ => 0

/-- The next number of a counter is taken (R236, R273). -/
def Counter.next (t : Counter) : Counter := { t with issued := t.issued + 1 }

/-- A command issued: offsets step whether or not it acts (R133); one that acts takes its number and waits for its start; a fifth
waiting command stalls its slot (R83). -/
def State.command (s : State) (f : CForm) (i : Instr) : State :=
  let new := s.isNew
  let os := if new then 0 else Bits.addI s.slot.os (64 * f.steps.toInt)
  let od := if new then 0 else Bits.addI s.slot.od (64 * f.stepd.toInt)
  let s := s.mapSlot fun x => { x with os := os, od := od }
  s.guarded f.pred f.pneg fun s =>
    if s.numberWaits f.tc.toNat || 4 ≤ (s.cmds.filter fun c => c.uid == s.ctx.uid && c.slot == s.k && !c.started).length then s.stall
    else
      let tc := f.tc.toNat
      let h := s.rts f.aux.toNat
      let tray := match i with
        | .wstr _ => (handleSlot h).bind fun n => if (s.ctx.head n).state = 1 then some n else none
        | _ => none
      let c : Cmd :=
        { id := s.fresh, uid := s.ctx.uid, slot := s.k, idx := s.ctx.now.issue.idx, op := i, tc := tc, num := (s.ctx.tcval tc).issued + 1
          startAt := s.slot.time + f.delay.toNat, started := false, desc := s.ra f.desc.toNat, aux := s.rs f.aux.toNat, os := os
          od := od, tray := tray, core := s.ctx.core, priv := s.ctx.priv, asn := s.ctx.asn, ctxid := s.ctx.ctxid
          bundle := s.ctx.now.issue.addr, wins := [], words := [], retries := 0, left := 0
          mates := (s.members s.ctx.grid s.ctx.team).map fun m => (m.core, m.uid)
          rnrt := Bits.fld s.ctx.tkexp 32 20, rnr := none, synced := s.ctx.syncedWith s.k s.ctx.now.issue, known := []
          behind := [] }
      { s with fresh := s.fresh + 1, cmds := s.cmds ++ [c] }.mapTc tc Counter.next

/-- CPY (R245). -/
def execCpy (f : CForm) (s : State) : Out := .next (s.command f (.cpy f))
/-- TMOV (R247). -/
def execTmov (f : CForm) (s : State) : Out := .next (s.command f (.tmov f))
/-- GSX (R250). -/
def execGsx (f : CForm) (s : State) : Out := .next (s.command f (.gsx f))
/-- FSTT (R253). -/
def execFstt (f : CForm) (s : State) : Out := .next (s.command f (.fstt f))
/-- FSTL (R255). -/
def execFstl (f : CForm) (s : State) : Out := .next (s.command f (.fstl f))
/-- XLNK (R256). -/
def execXlnk (f : CForm) (s : State) : Out := .next (s.command f (.xlnk f))
/-- WSTR (R258). -/
def execWstr (f : CForm) (s : State) : Out := .next (s.command f (.wstr f))
/-- TFUL (R259). -/
def execTful (f : CForm) (s : State) : Out := .next (s.command f (.tful f))
/-- TEMP (R259). -/
def execTemp (f : CForm) (s : State) : Out := .next (s.command f (.temp f))

/-! ### Bytes of a command (R237, R243) -/

/-- Where a byte of a command lies. (DEDUCED, log 66) -/
inductive EngAt where
  /-- memory; for the pocket of a context, that context and the offset -/
  | mem (p : Place) (pocket : Option (Nat × Nat))
  /-- the append-log port of a flash stack -/
  | log (stack : Nat)
  deriving DecidableEq, Repr

/-- The context whose pocket a command's pointer with core `n` names: its own, a mate as its team stood at issue, wherever that is now, or
the one resident there (R199, R223). (DEDUCED, log 66) -/
def State.pocketHolder (s : State) (c : Cmd) (n : Nat) : Option Ctx :=
  match (if n = c.core then some c.uid else c.mates.lookup n) with
  | some u => s.allCtx.find? fun x => x.uid == u
  | none => s.resident n

/-- A byte of a command by checks 1, 2 and 4 of R198 with the differences of R237, or the cause of R243. (DEDUCED, log 66) -/
def State.engAt (s : State) (c : Cmd) (perm : Perm) (p : Word) : Except Byte EngAt :=
  if mbzBad p then .error 3
  else
    match spaceOf p with
    | .hole => .error 3
    | .control =>
      if logPort (Bits.fld p 0 56) && perm = .write then
        (if !c.priv then .error 6 else if cmdOp c.op = 1 then .ok (.log (Bits.fld p 48 2)) else .error 3)
      else .error 3
    | .pocket =>
      let n := pocketCore c.core p
      let o := Bits.fld p 0 21
      if pocketSize ≤ o then .error 3
      else if n / 16 != c.core / 16 then .error 5
      else
        match s.pocketHolder c n with
        | some x => .ok (.mem (.port (x.pocketAt o)) (some (x.uid, o)))
        | none => .ok (.mem (.port (pocketKey n o)) none)
    | .basket => .ok (.mem (.port (basketKey (Bits.fld p 51 5) (Bits.fld p 0 24))) none)
    | .hamper => .ok (.mem (.port (hamperKey (Bits.fld p 54 2) (Bits.fld p 0 26))) none)
    | .global =>
      (match findWindow c.wins (Bits.fld p 0 48) with
        | some w => if w.allows perm then .ok (.mem (.virt c.asn (w.map (Bits.fld p 0 48))) none) else .error 4
        | none => .error 4)
    | .remote =>
      let die := Bits.fld p 48 8
      if !s.diePresent die then .error 3
      else
        match findWindow c.wins (Bits.fld p 0 48) with
        | some w => if w.allows perm then .ok (.mem (.remote die c.asn (w.map (Bits.fld p 0 48))) none) else .error 4
        | none => .error 4

/-- What a command's access of bytes within one 4 KiB page finds. (DEDUCED, log 67) -/
inductive EngOut where
  | ok (s : State) (bs : List Byte)
  | park
  | bad (cause : Byte)
  /-- the byte at an offset is poisoned -/
  | poison (off : Nat)

/-- A place of memory served for a command, or what it finds there. (DEDUCED, log 67) -/
def State.engServe (s : State) (c : Cmd) (p : Place) (n : Nat) (write : Bool) : Except EngOut (List (Nat × Nat)) :=
  let far : Option Nat := match p with
    | .remote die _ _ => some die
    | _ => none
  let src := s.domDie (c.core / 128 % 4)
  if far.any fun die => s.draining.contains (src, die) then .error .park
  else if far.any fun die => !s.reachable src die then .error (.bad 8)
  else
    match s.answer p n write with
    | .parked => .error .park
    | .faulted => .error (.bad (if far.isSome then 8 else 7))
    | .served rs => .ok rs

/-- `n` bytes read by a command. -/
def State.engRead (s : State) (c : Cmd) (p : Word) (n : Nat) : EngOut :=
  match s.engAt c .read p with
  | .error e => .bad e
  | .ok (.log _) => .bad 3
  | .ok (.mem pl _) =>
    match s.engServe c pl n false with
    | .error e => e
    | .ok rs =>
      if s.poisonedRuns rs then
        let keys := rs.flatMap fun r => (List.range r.2).map fun i => r.1 + i
        .poison ((keys.findIdx? fun k => s.poisoned k 1).getD 0)
      else .ok s (s.seeRuns c.origin 1 rs)

/-- The keys of the bytes that a command reads. -/
def State.engKeys (s : State) (c : Cmd) (p : Word) (n : Nat) : List (Nat × Nat) :=
  match s.engAt c .read p with
  | .ok (.mem pl _) =>
    (match s.engServe c pl n false with
      | .ok rs => rs
      | .error _ => [])
  | _ => []

/-- Bytes appended to the log of a flash stack (R209): a page of it, which the log takes, gets them from the offset `off` on.
(DEDUCED, log 70) -/
def State.appendLog (s : State) (w : Origin) (stack page off : Nat) (bs : List Byte) : State :=
  let key := physKey 0 (logFrame stack page * 4096 + off)
  (s.logTake stack page).recorded w [(key, bs.length)] fun s => s.writeMem key bs

/-- Bytes written by a command; `done` bytes precede them in loop order, and the log, if it appends, stood at page `head` as it began. -/
def State.engWrite (s : State) (c : Cmd) (head : Nat) (p : Word) (done : Nat) (bs : List Byte) : EngOut :=
  match s.engAt c .write p with
  | .error e => .bad e
  | .ok (.log n) =>
    let page := head + done / 4096
    if s.logTakes n page then .ok (s.appendLog c.origin n page (done % 4096) bs) bs else .bad 7
  | .ok (.mem pl _) =>
    match s.engServe c pl bs.length true with
    | .error e => e
    | .ok rs => .ok (s.recorded c.origin rs fun s => s.writeRuns rs bs) bs

/-! ### Running a command -/

/-- How a command ended: it waits for a page, or fails at a byte (R241, R242). -/
inductive CmdStop where
  | park
  | fail (cause : Byte) (addr : Word) (coords : List Nat) (link remain : Nat)
  deriving DecidableEq, Repr

/-- A command under way: destination bytes done in loop order, the runs of bytes read, the pocket tiles written, by context, the header its
tray slot gets (R258), and its end. -/
structure Xfer where
  s : State
  done : Nat
  reads : List (Nat × Nat)
  tiles : List (Nat × Nat)
  head : Option (Nat × Nat)
  stop : Option CmdStop

/-- The command, the failure from outside, if any: a cause, and the byte in loop order at which it strikes; whether bytes that fail are
passed over, to find the ones that may be written beyond them (R241); the bytes of the whole, and the page at which the log that it appends to
stood as it began. -/
structure Eng where
  c : Cmd
  cut : Option (Byte × Nat)
  past : Bool
  total : Nat
  head : Nat

/-- Bytes read by the command. -/
def Xfer.note (x : Xfer) (e : Eng) (p : Word) (n : Nat) : Xfer :=
  let ks := x.s.engKeys e.c p n
  { x with s := x.s.noteRead e.c.origin ks, reads := ks ++ x.reads }

/-- The command fails. (DESIGN CHOICE, log 104) -/
def Xfer.fail (x : Xfer) (e : Eng) (cause : Byte) (addr : Word) (coords : List Nat) : Xfer :=
  { x with stop := some (.fail cause addr coords 0 (e.total - x.done)) }

/-- The command fails in `k` bytes, or passes over them. (DESIGN CHOICE, log 104) -/
def Xfer.failAt (x : Xfer) (e : Eng) (cause : Byte) (addr : Word) (coords : List Nat) (k : Nat) : Xfer :=
  if e.past then { x with done := x.done + k } else x.fail e cause addr coords

/-- Where a command's bytes go. -/
inductive EngDst where
  | ptr (p : Word)
  | tray (slot : Nat)
  deriving DecidableEq, Repr

/-- The item of record mode that bytes written at an offset of the destination are (R431): the context, KIND and DEST, for a pocket and a
tray of a context that records or replays. -/
def Xfer.item (x : Xfer) (e : Eng) (d : EngDst) (o : Nat) : Option (Nat × Nat × Nat) :=
  (match d with
    | .tray slot => some (e.c.uid, 2, 16384 * slot + o)
    | .ptr p => match x.s.engAt e.c .write (plus p o) with
      | .ok (.mem _ (some (u, off))) => some (u, 1, off)
      | _ => none).filter fun t => x.s.allCtx.any fun c => c.uid == t.1 && c.trMode != 0

/-- Bytes written at an offset of the destination. (DESIGN CHOICE, log 104) -/
def Xfer.write (x : Xfer) (e : Eng) (d : EngDst) (o : Nat) (bs : List Byte) (coords : List Nat) : Xfer :=
  match d with
  | .tray slot =>
    let key := match x.s.allCtx.find? fun c => c.uid == e.c.uid with
      | some c => c.trayAt slot o
      | none => trayKey e.c.core slot o
    { x with s := x.s.recorded e.c.origin [(key, bs.length)] fun s => s.writeMem key bs, done := x.done + bs.length }
  | .ptr p =>
    let a := plus p o
    match x.s.engWrite e.c e.head a x.done bs with
    | .ok s _ =>
      let t := match s.engAt e.c .write a with
        | .ok (.mem _ (some (u, off))) => [(u, off / 4096)]
        | _ => []
      { x with s := s, done := x.done + bs.length, tiles := if t.all x.tiles.contains then x.tiles else x.tiles ++ t }
    | .park => { x with stop := some .park }
    | .bad cause => x.failAt e cause a coords bs.length
    | .poison _ => x

/-- Bytes put at an offset of the destination, an item of record mode where they are one (R431, R432). -/
def Xfer.put (x : Xfer) (e : Eng) (d : EngDst) (o : Nat) (bs : List Byte) (coords : List Nat) : Xfer :=
  match x.item e d o with
  | none => x.write e d o bs coords
  | some (u, kind, dest) =>
    let (bs, s) := (x.s.refocus u).traced kind dest bs
    { x with s := s.refocus x.s.ctx.uid }.write e d o bs coords

/-- Bytes that a context's trace supplies for the destination, which are then not read outside (R432). (DEDUCED, log 134) -/
def Xfer.replayed (x : Xfer) (e : Eng) (d : EngDst) (o n : Nat) : Option (List Byte) × Xfer :=
  match x.item e d o with
  | none => (none, x)
  | some (u, kind, dest) =>
    let (bs, s) := (x.s.refocus u).replayItem kind dest n
    (bs, { x with s := s.refocus x.s.ctx.uid })

/-- The bytes up to the end of the page of an address. -/
def pageRest (a : Word) : Nat := 4096 - a.toNat % 4096

/-- The failure from outside that strikes at byte `done` in loop order, with its address: that of the remote byte, or of the destination
(R242, R243). (DEDUCED, log 65) -/
def Eng.strikes (e : Eng) (src : Word) (d : EngDst) (o done : Nat) : Option (Byte × Word) :=
  e.cut.bind fun c =>
    if c.2 != done then none
    else
      match d with
      | .ptr p =>
        if c.1 = 8 then (if spaceOf src == .remote then some (8, src) else if spaceOf (plus p o) == .remote then some (8, plus p o) else none)
        else some (c.1, plus p o)
      | .tray _ => if c.1 = 8 then none else some (c.1, src)

/-- `n` bytes moved from `src` to the destination in loop order, at most `fuel` pieces; `coords` gives the loop coordinates of an
offset. -/
def Xfer.move (e : Eng) (src : Word) (d : EngDst) (coords : Nat → List Nat) (n : Nat) : Nat → Nat → Xfer → Xfer
  | 0, _, x => x
  | fuel + 1, o, x =>
    if x.stop.isSome || n ≤ o then x
    else
      let a := plus src o
      let room := match d with
        | .ptr p => pageRest (plus p o)
        | .tray _ => 4096
      let k := min (min (n - o) (pageRest a)) (min room (4096 - x.done % 4096))
      let k := match e.cut with
        | some (_, pos) => if x.done < pos then min k (pos - x.done) else k
        | none => k
      match e.strikes a d o x.done with
      | some (cause, at') => Xfer.move e src d coords n fuel (o + 1) (x.failAt e cause at' (coords o) 1)
      | none =>
        match x.replayed e d o k with
        | (some bs, x) => Xfer.move e src d coords n fuel (o + k) (x.write e d o bs (coords o))
        | (none, x) =>
        match x.s.engRead e.c a k with
        | .park => { x with stop := some .park }
        | .bad cause => Xfer.move e src d coords n fuel (o + k) (x.failAt e cause a (coords o) k)
        | .poison 0 => Xfer.move e src d coords n fuel (o + 1) (x.failAt e 0x11 a (coords o) 1)
        | .poison i =>
          (match x.s.engRead e.c a i with
            | .ok _ bs => Xfer.move e src d coords n fuel (o + i) ((x.note e a i).put e d o bs (coords o))
            | _ => x.fail e 0x11 a (coords o))
        | .ok _ bs => Xfer.move e src d coords n fuel (o + k) ((x.note e a k).put e d o bs (coords o))

/-- `f i` for i from `lo` on, `n` times, until the command stops. -/
def Xfer.loop (f : Nat → Xfer → Xfer) : Nat → Nat → Xfer → Xfer
  | 0, _, x => x
  | n + 1, i, x => if x.stop.isSome then x else Xfer.loop f n (i + 1) (f i x)

/-! ### Descriptors -/

/-- The words of a descriptor, or the end of the command (R237). -/
def State.engWords (s : State) (c : Cmd) (p : Word) : Nat → Except CmdStop (List Word)
  | 0 => .ok []
  | n + 1 =>
    match s.engWords c p n with
    | .error e => .error e
    | .ok ws =>
      let a := plus p (8 * n)
      match s.engRead c a 8 with
      | .park => .error .park
      | .bad cause => .error (.fail (if cause = 7 || cause = 8 then cause else 1) p [] 0 0)
      | .poison _ => .error (.fail 0x11 p [] 0 0)
      | .ok _ bs => .ok (ws ++ [Bits.leWord bs])

/-- A descriptor of `n` words, aligned to 64 bytes (R237). -/
def State.descWords (s : State) (c : Cmd) (p : Word) (n : Nat) : Except CmdStop (List Word) :=
  if Bits.fld p 0 6 != 0 then .error (.fail 1 p [] 0 0) else s.engWords c p n

/-- A failure of a chain's block. -/
def CmdStop.at (e : CmdStop) (link : Nat) : CmdStop :=
  match e with
  | .park => .park
  | .fail c a k _ r => .fail c a k (link % 8) r

/-- The blocks of an XLNK chain from `p` on, at most `n` (R256). -/
def State.chainWords (s : State) (c : Cmd) : Nat → Nat → Word → Except CmdStop (List Word)
  | 0, _, _ => .ok []
  | n + 1, link, p =>
    match s.descWords c p 8 with
    | .error e => .error (e.at link)
    | .ok ws =>
      if ws.getD 4 0 == 0 then .ok ws
      else
        match s.chainWords c n (link + 1) (ws.getD 4 0) with
        | .error e => .error e
        | .ok rest => .ok (ws ++ rest)

/-- The descriptor of a command. -/
def State.readDesc (s : State) (c : Cmd) : Except CmdStop (List Word) :=
  if c.words != [] then .ok c.words
  else
    match c.op with
    | .cpy _ => s.descWords c c.desc 16
    | .tmov _ | .gsx _ | .fstl _ => s.descWords c c.desc 8
    | .xlnk _ => s.chainWords c 9 0 c.desc
    | .wstr _ => if c.tray.isNone then .error (.fail 0x0E c.desc [] 0 0) else s.descWords c c.desc 4
    | _ => .ok []

/-- DEADLINE is a class of R239. -/
def deadlineOk (w : Word) : Bool := Bits.fld w 40 8 ≤ 128

/-- A signed field. -/
def sfld (w : Word) (lo len : Nat) : Int := Bits.sInt len (Bits.fld w lo len)

/-- A descriptor refused (R243 cause 0x02). -/
def Xfer.invalid (x : Xfer) (e : Eng) : Xfer := x.fail e 2 e.c.desc []

/-! ### CPY, TMOV, GSX -/

/-- CPY (R244, R245). -/
def runCpy (e : Eng) (ws : List Word) (x : Xfer) : Xfer :=
  let w (n : Nat) : Word := ws.getD n 0
  let nd := Bits.fld (w 2) 0 3
  let dims := List.range nd
  let cnt (d : Nat) : Nat := if d < nd then Bits.fld (w (3 + 2 * d)) 0 32 else 1
  let total := cnt 0 * (cnt 1 * (cnt 2 * (cnt 3 * (cnt 4 * cnt 5))))
  let e := { e with total := total }
  let toLog := spaceOf (w 1 + e.c.od) == .control && logPort (Bits.fld (w 1 + e.c.od) 0 56)
  if nd = 0 || nd = 7 || Bits.fld (w 2) 48 16 != 0 || Bits.fld (w 2) 3 37 != 0 || !deadlineOk (w 2) || w 15 != 0 || w 4 != 0 ||
      (dims.any fun d => Bits.fld (w (3 + 2 * d)) 32 32 != 0 || cnt d = 0) || 2 ^ 40 < total then
    x.invalid { e with total := 0 }
  else if toLog && e.c.priv && total % 4096 != 0 then x.invalid { e with total := 0 }
  else
    let outer := cnt 1 * (cnt 2 * (cnt 3 * (cnt 4 * cnt 5)))
    Xfer.loop (fun q x =>
      let i1 := q % cnt 1
      let i2 := q / cnt 1 % cnt 2
      let i3 := q / (cnt 1 * cnt 2) % cnt 3
      let i4 := q / (cnt 1 * cnt 2 * cnt 3) % cnt 4
      let i5 := q / (cnt 1 * cnt 2 * cnt 3 * cnt 4)
      let is := [i1, i2, i3, i4, i5]
      let off (lo : Nat) : Int := (is.zipIdx).foldl (fun a i => if i.2 + 1 < nd then a + (i.1 : Int) * sfld (w (6 + 2 * i.2)) lo 32 else a) 0
      Xfer.move e (Bits.addI (w 0 + e.c.os) (off 32)) (.ptr (Bits.addI (w 1 + e.c.od) (off 0))) (fun b => b :: is) (cnt 0) (cnt 0) 0 x)
      outer 0 x

/-- A lane's table as bound: the pointer, the key of its first byte, and NSTATE (R253). -/
def State.lane (s : State) (n : Nat) : Option Lane := s.lanes.find? fun l => l.num == n

/-- The result of a lane: bytes produced with the input byte each came from, the state, and the failure with its input byte, at an
output byte when `atOut`. -/
structure LaneOut where
  out : List (Byte × Nat)
  state : Nat
  fail : Option (Byte × Nat)
  atOut : Bool

/-- The nibbles of input bytes with their byte, low nibble first. -/
def nibbles (bs : List Byte) : List (Nat × Nat) := (bs.zipIdx).flatMap fun b => [(b.1.toNat % 16, b.2), (b.1.toNat / 16, b.2)]

/-- The lane step of R252 over nibbles: `out` holds what has been produced, the last first, `n` its number. -/
def laneGo (s : State) (key max : Nat) : List (Nat × Nat) → Nat → Nat → List (Byte × Nat) → LaneOut
  | [], st, _, out => ⟨out.reverse, st, none, false⟩
  | (nib, k) :: rest, st, n, out =>
    let a := key + 8 * (16 * st + nib)
    if s.poisoned a 8 then ⟨out.reverse, st, some (0x11, k), false⟩
    else
      let e := Mem.readNat s.mem a 8
      let no := Bits.nfld e 49 3
      if no = 7 then ⟨out.reverse, st, some (0x0A, k), false⟩
      else
        let bytes := (List.range no).map fun j => (BitVec.ofNat 8 (e >>> (8 * j)), k)
        if max < n + no then ⟨(out.reverse ++ bytes).take max, st, some (0x0B, k), false⟩
        else laneGo s key max rest (Bits.nfld e 52 12) (n + no) (bytes.reverse ++ out)

/-- Input bytes of a lane in pieces, up to the first that cannot be read: the bytes and what stopped them. -/
def State.gather (s : State) (c : Cmd) (p : Word) (n : Nat) : Nat → Nat → List Byte × Option EngOut
  | 0, _ => ([], none)
  | fuel + 1, o =>
    if n ≤ o then ([], none)
    else
      let a := plus p o
      let k := min (n - o) (pageRest a)
      match s.engRead c a k with
      | .ok _ bs => let (r, e) := s.gather c p n fuel (o + k); (bs ++ r, e)
      | .poison 0 => ([], some (.poison 0))
      | .poison i =>
        (match s.engRead c a i with
          | .ok _ bs => (bs, some (.poison i))
          | e => ([], some e))
      | e => ([], some e)

/-- What one run of a lane yields from `n` input bytes at `p`, or a wait. (DEDUCED, log 134) -/
def State.laneRead (s : State) (c : Cmd) (key max : Nat) (p : Word) (n : Nat) : Option LaneOut :=
  let (bs, e) := s.gather c p n n 0
  let r := laneGo s key max (nibbles bs) 0 0 []
  match e, r.fail with
  | _, some _ => some r
  | none, none => some r
  | some .park, none => none
  | some (.bad cause), none => some { r with fail := some (cause, bs.length) }
  | some _, none => some { r with fail := some (0x11, bs.length) }

/-- A lane's result with the failure from outside (R241 to R243): of a remote input byte, or of a byte of the destination; bytes count from
`base` in loop order. (DEDUCED, log 65) -/
def LaneOut.struck (r : LaneOut) (e : Eng) (src : Option Word) (d : EngDst) (len base : Nat) : LaneOut :=
  match (if e.past then none else e.cut) with
  | none => r
  | some (cause, pos) =>
    let i := pos - base
    let far := cause = 8 && src.any fun p => spaceOf (plus p i) == .remote
    if pos < base then r
    else if far then
      (if len ≤ i || r.fail.any fun f => f.2 < i then r else { r with out := r.out.filter fun b => b.2 < i, fail := some (8, i) })
    else if (cause = 8 && !(match d with
        | .ptr p => spaceOf (plus p i) == .remote
        | .tray _ => false)) || r.out.length ≤ i then r
    else { r with out := r.out.take i, fail := some (cause, (r.out.getD i (0, 0)).2), atOut := true }

/-- A lane's output written to `d`; then its failure, if any, which a command that passes over failures leaves. `coords` takes the input byte
and the output byte; `src` is the address of an input byte, `remain` the input bytes of the whole. (DEDUCED, log 142) -/
def Xfer.laneWrite (e : Eng) (x : Xfer) (r : LaneOut) (src : Nat → Word) (d : EngDst) (remain : Nat) (coords : Nat → Nat → List Nat) : Xfer :=
  let outs := r.out
  let pieces := (outs.length + 4095) / 4096 * 2 + 2
  let rec go : Nat → Nat → Xfer → Xfer
    | 0, _, x => x
    | f + 1, o, x =>
      if x.stop.isSome || outs.length ≤ o then x
      else
        let room := match d with
          | .ptr p => pageRest (plus p o)
          | .tray _ => 4096
        let bs := (outs.drop o).take room
        let k := ((outs.drop o).headD (0, 0)).2
        go f (o + bs.length) (x.put { e with total := x.done + remain - k } d o (bs.map Prod.fst) (coords k o))
  let x := go pieces 0 x
  match x.stop, r.fail with
  | none, some (cause, k) =>
    let out := match d with
      | .ptr p => plus p outs.length
      | .tray _ => src k
    if e.past then x
    else { x with stop := some (.fail cause (if cause = 0x0B || r.atOut then out else src k) (coords k outs.length) 0 (remain - k)) }
  | _, _ => x

/-- Input bytes read by the command, page by page. -/
def Xfer.noteLane (e : Eng) (x : Xfer) (p : Word) (n : Nat) : Xfer :=
  let pieces := (p.toNat % 4096 + n + 4095) / 4096
  (List.range pieces).foldl (fun x i =>
    let lo := if i = 0 then 0 else 4096 * i - p.toNat % 4096
    x.note e (plus p lo) (min n (4096 * (i + 1) - p.toNat % 4096) - lo)) x

/-- TMOV (R246, R247). (DEDUCED, log 143) -/
def runTmov (e : Eng) (ws : List Word) (x : Xfer) : Xfer :=
  let w (n : Nat) : Word := ws.getD n 0
  let count := Bits.fld (w 2) 48 16
  let xf := Bits.fld (w 3) 38 2
  let pad := Bits.fld (w 3) 31 7
  let local' (p : Word) : Bool := spaceOf p == .pocket || spaceOf p == .basket || spaceOf p == .hamper
  let cluster := e.c.core / 16
  let ours (p : Word) : Bool := spaceOf p == .basket && Bits.fld p 51 5 = cluster
  let len := if xf = 2 then 64 * pad else 4096
  let e := { e with total := count * len }
  let bad := count = 0 || Bits.fld (w 3) 48 16 != 0 || Bits.fld (w 3) 0 31 != 0 || !deadlineOk (w 3) || xf = 3 ||
    ((ws.drop 5).any fun v => v != 0) || Bits.fld (w 0) 0 6 != 0 || Bits.fld (w 1) 0 6 != 0 ||
    (xf = 0 && (pad != 0 || w 4 != 0)) || (xf != 0 && (pad < 8 || 64 < pad)) ||
    (xf = 1 && !(spaceOf (w 0) == .pocket && ours (w 1))) || (xf = 2 && !(ours (w 0) && spaceOf (w 1) == .pocket))
  let src (t : Nat) : Word := Bits.addI (w 0 + e.c.os) (64 * sfld (w 2) 24 24 * t)
  let dst (t : Nat) : Word := Bits.addI (w 1 + e.c.od) (64 * sfld (w 2) 0 24 * t)
  if xf = 0 && !local' (w 0) then x.fail { e with total := 0 } 3 (w 0) []
  else if xf = 0 && !local' (w 1) then x.fail { e with total := 0 } 3 (w 1) []
  else if bad then x.invalid { e with total := 0 }
  else if xf = 0 then
    Xfer.loop (fun t x => Xfer.move e (src t) (.ptr (dst t)) (fun b => [b, t]) 4096 4096 0 x) count 0 x
  else
    match x.s.lane (128 + 2 * cluster + (if xf = 1 then 0 else 1)) with
    | none => x.fail e 0x0C (w 4) []
    | some l =>
      if l.tab != w 4 then x.fail e 0x0C (w 4) []
      else
        Xfer.loop (fun t x =>
          let d := dst t
          let ok := if xf = 1 then spaceOf (src t) == .pocket && ours d else ours (src t) && spaceOf d == .pocket
          let max := if xf = 1 then 64 * pad else 4096
          if !ok then x.invalid { e with total := x.done + (count - t) * len }
          else
            match x.s.laneRead e.c l.key max (src t) len with
            | none => { x with stop := some .park }
            | some r =>
              let x := x.noteLane e (src t) len
              let r := match r.fail with
                | some (0x0B, k) => { r with fail := some (if xf = 1 then 0x0D else 0x0B, k) }
                | _ => if r.fail.isNone && xf = 2 && r.out.length != 4096 then { r with fail := some (0x0B, len) } else r
              let r := if xf = 1 && r.fail.isNone then
                  { r with out := r.out ++ (List.replicate (max - r.out.length) ((0 : Byte), 4095)) } else r
              let base := x.done
              let r := r.struck e (some (src t)) (.ptr d) len (t * max)
              let x := Xfer.laneWrite e x r (plus (src t)) (.ptr d) ((count - t) * len) (fun k _ => [k, t])
              { x with done := base + 4096 }) count 0 x

/-- GSX (R249, R250). (DEDUCED, log 143) -/
def runGsx (e : Eng) (ws : List Word) (x : Xfer) : Xfer :=
  let w (n : Nat) : Word := ws.getD n 0
  let count := Bits.fld (w 3) 40 24
  let size := Bits.fld (w 3) 16 16
  let e := { e with total := count * size }
  if spaceOf (w 0) != .global then x.fail { e with total := 0 } 3 (w 0) []
  else if count = 0 || Bits.fld (w 3) 32 8 != 0 || size = 0 || 4096 < size || Bits.fld (w 3) 0 16 != 0 || Bits.fld (w 4) 48 16 != 0 ||
      Bits.fld (w 5) 48 16 != 0 || !deadlineOk (w 5) || Bits.fld (w 5) 1 39 != 0 || w 6 != 0 || w 7 != 0 then
    x.invalid { e with total := 0 }
  else
    Xfer.loop (fun k x =>
      let ia := plus (w 1 + e.c.os) (4 * k)
      match x.s.gather e.c ia 4 4 0 with
      | (_, some .park) => { x with stop := some .park }
      | (bs, some (.bad cause)) => x.failAt e cause (plus ia bs.length) [0, k] size
      | (bs, some _) => x.failAt e 0x11 (plus ia bs.length) [0, k] size
      | (bs, none) =>
        let t := w 0 + BitVec.ofNat 64 (Bits.leNat bs * (w 4).toNat)
        let d := plus (w 2 + e.c.od) (k * size)
        let (a, b) := if (w 5).getLsbD 0 then (d, t) else (t, d)
        Xfer.move e a (.ptr b) (fun o => [o, k]) size size 0 (x.noteLane e ia 4)) count 0 x

/-! ### Lanes and tables (R251 to R258) -/

/-- The lane number that SUB names (R251). -/
def cmdLane (c : Cmd) : Option Nat :=
  match c.op with
  | .fstt f => some (if f.sub.getLsbD 8 then 128 + 2 * (c.core / 16) + Bits.fld f.sub 0 1 else Bits.fld f.sub 0 7)
  | .fstl f | .wstr f => some (Bits.fld f.sub 0 7)
  | _ => none

/-- The lanes a started command uses, in whose arrival order it is served. (DEDUCED, log 72) -/
def cmdLanes (c : Cmd) : List Nat :=
  match c.op with
  | .tmov _ =>
    (match Bits.fld (c.words.getD 3 0) 38 2 with
      | 1 => [128 + 2 * (c.core / 16)]
      | 2 => [129 + 2 * (c.core / 16)]
      | _ => [])
  | .xlnk _ => (List.range (c.words.length / 8)).map fun i => Bits.fld (c.words.getD (8 * i + 5) 0) 0 7
  | _ => (cmdLane c).toList

/-- A table entry that a lane accepts (R253). -/
def entryOk (nstate e : Nat) : Bool :=
  Bits.nfld e 49 3 != 5 && Bits.nfld e 49 3 != 6 && Bits.nfld e 52 12 < nstate && Bits.nfld e 32 17 = 0

/-- FSTT (R251, R253). -/
def runFstt (e : Eng) (x : Xfer) : Xfer :=
  let n := Bits.fld e.c.aux 0 13
  let lane := (cmdLane e.c).getD 0
  let p := e.c.desc
  let len := 128 * n
  let bad := x.fail { e with total := 0 } 0x0C p []
  let region := if lane < 128 then spaceOf p == .hamper && Bits.fld p 54 2 = lane / 32 && Bits.fld p 0 26 + len ≤ 2 ^ 26
    else spaceOf p == .basket && Bits.fld p 51 5 = e.c.core / 16 && Bits.fld p 0 24 + len ≤ 2 ^ 24
  if n = 0 || 4096 < n || mbzBad p || !region || Bits.fld p 0 12 != 0 then bad
  else
    let key := if lane < 128 then hamperKey (Bits.fld p 54 2) (Bits.fld p 0 26) else basketKey (Bits.fld p 51 5) (Bits.fld p 0 24)
    if x.s.poisoned key len then x.fail { e with total := 0 } 0x11 p []
    else if (List.range (16 * n)).all fun i => entryOk n (Mem.readNat x.s.mem (key + 8 * i) 8) then
      { x with s := { x.s with lanes := ⟨lane, p, key, n⟩ :: x.s.lanes.filter fun l => l.num != lane } }
    else bad

/-- A lane block's fields are in range (R254). -/
def blockOk (b : List Word) : Bool :=
  let w (n : Nat) : Word := b.getD n 0
  1 ≤ Bits.fld (w 2) 32 32 && Bits.fld (w 5) 48 16 = 0 && deadlineOk (w 5) && Bits.fld (w 5) 7 33 = 0 && w 7 == 0

/-- Word 6 of a lane block written at completion (R254). -/
def Xfer.report (e : Eng) (x : Xfer) (block : Word) (len state : Nat) : Xfer :=
  if x.stop.isSome || e.past then x
  else
    let a := plus block 48
    match x.s.engWrite e.c 0 a 0 (Bits.natLe 8 (len * 2 ^ 32 + state)) with
    | .ok s _ => { x with s := s }
    | .park => { x with stop := some .park }
    | .bad cause => x.fail e cause a []
    | .poison _ => x

/-- FSTL (R254, R255). -/
def runFstl (e : Eng) (ws : List Word) (x : Xfer) : Xfer :=
  let w (n : Nat) : Word := ws.getD n 0
  let len := Bits.fld (w 2) 0 32
  let e := { e with total := len }
  if !blockOk ws || w 4 != 0 || Bits.fld (w 5) 0 7 != 0 || len = 0 then x.invalid { e with total := 0 }
  else
    match x.s.lane ((cmdLane e.c).getD 0) with
    | none => x.fail e 0x0C (w 3) [0, 0]
    | some l =>
      if l.tab != w 3 then x.fail e 0x0C (w 3) [0, 0]
      else
        match x.s.laneRead e.c l.key (Bits.fld (w 2) 32 32) (w 0 + e.c.os) len with
        | none => { x with stop := some .park }
        | some r =>
          let r := r.struck e (some (w 0 + e.c.os)) (.ptr (w 1 + e.c.od)) len 0
          (Xfer.laneWrite e (x.noteLane e (w 0 + e.c.os) len) r (plus (w 0 + e.c.os)) (.ptr (w 1 + e.c.od)) len (fun k n => [k, n])).report e e.c.desc r.out.length r.state

/-- The blocks of a chain. -/
def blocksOf : Nat → List Word → List (List Word)
  | 0, _ => []
  | n + 1, ws => if ws = [] then [] else ws.take 8 :: blocksOf n (ws.drop 8)

/-- The first block of a chain that breaks its links (R256). -/
def chainBad (bs : List (List Word)) : Option Nat :=
  let n := bs.length
  let stack (b : List Word) : Nat := Bits.fld (b.getD 5 0) 4 3
  (List.range n).find? fun i =>
    let b := bs.getD i []
    let w (j : Nat) : Word := b.getD j 0
    let last := i + 1 = n
    8 ≤ i || !blockOk b || (if i = 0 then Bits.fld (w 2) 0 32 = 0 else w 0 != 0 || Bits.fld (w 2) 0 32 != 0) ||
      (!last && (w 1 != 0 || 16384 < Bits.fld (w 2) 32 32)) || stack b != stack (bs.getD 0 [])

/-- The blocks of a chain run one after another (R256): `input` is what the block reads, none for the first; `a` its address.
(DEDUCED, log 141) (DEDUCED, log 142) -/
def Xfer.chainGo (e : Eng) : List (List Word) → Nat → Word → Option (List Byte) → Xfer → Xfer
  | [], _, _, _, x => x
  | b :: rest, i, a, input, x =>
    let w (j : Nat) : Word := b.getD j 0
    let at' (x : Xfer) : Xfer := { x with stop := x.stop.map fun q => q.at i }
    let len := match input with
      | some bs => bs.length
      | none => Bits.fld (w 2) 0 32
    match x.s.lane (Bits.fld (w 5) 0 7) with
    | none => at' (x.fail { e with total := x.done + len } 0x0C (w 3) [0, 0])
    | some l =>
      if l.tab != w 3 then at' (x.fail { e with total := x.done + len } 0x0C (w 3) [0, 0])
      else
        let max := Bits.fld (w 2) 32 32
        let src := w 0 + e.c.os
        let from' (k : Nat) : Word := if input.isNone then plus src k else a
        let r := match input with
          | some bs => some (laneGo x.s l.key max (nibbles bs) 0 0 [])
          | none => x.s.laneRead e.c l.key max src len
        match r with
        | none => { x with stop := some .park }
        | some r =>
          let r := if rest = [] then r.struck e (if input.isNone then some src else none) (.ptr (w 1 + e.c.od)) len 0
            else if input.isNone && e.cut.any fun c => c.1 = 8 then r.struck e (some src) (.tray 0) len 0 else r
          let x := if input.isNone then x.noteLane e src len else x
          if rest = [] then
            at' ((Xfer.laneWrite e x r from' (.ptr (w 1 + e.c.od)) len (fun k n => [k, n])).report e a
              r.out.length r.state)
          else
            match r.fail with
            | some (cause, k) =>
              at' { x with stop := some (.fail cause (from' k) [k, r.out.length] 0 (len - k)) }
            | none =>
              let x := x.report e a r.out.length r.state
              if x.stop.isSome then at' x else Xfer.chainGo e rest (i + 1) (w 4) (some (r.out.map Prod.fst)) x

/-- XLNK (R256). A ninth block, which LINK's 3 bits cannot number, is recorded with LINK 0. (DESIGN CHOICE, log 126) -/
def runXlnk (e : Eng) (ws : List Word) (x : Xfer) : Xfer :=
  let bs := blocksOf 9 ws
  match chainBad bs with
  | some i =>
    let a := if i = 0 then e.c.desc else (bs.getD (i - 1) []).getD 4 0
    { x with stop := some (.fail 2 a [] (i % 8) 0) }
  | none => Xfer.chainGo e bs 0 e.c.desc none x

/-- WSTR (R257, R258). (DEDUCED, log 143) -/
def runWstr (e : Eng) (ws : List Word) (x : Xfer) : Xfer :=
  let w (n : Nat) : Word := ws.getD n 0
  let out := Bits.fld (w 1) 32 16
  let len := Bits.fld (w 1) 0 32
  let swz := Bits.fld (w 3) 0 4
  let slot := e.c.tray.getD 0
  let src := w 0 + e.c.os
  let e := { e with total := len }
  if Bits.fld (w 1) 48 16 != 0 || out = 0 || 16384 < out || Bits.fld (w 3) 48 16 != 0 || !deadlineOk (w 3) ||
      Bits.fld (w 3) 4 36 != 0 || 1 < swz || (w 2 == 0 && len != out) then
    x.invalid { e with total := 0 }
  else if spaceOf (w 0) != .global then x.fail { e with total := 0 } 3 (w 0) []
  else
    let done (x : Xfer) : Xfer := { x with head := some (swz, out) }
    if w 2 == 0 then done (Xfer.move e src (.tray slot) (fun b => [b, b]) len len 0 x)
    else
      match x.s.lane ((cmdLane e.c).getD 0) with
      | none => x.fail e 0x0C (w 2) [0, 0]
      | some l =>
        if l.tab != w 2 then x.fail e 0x0C (w 2) [0, 0]
        else
          match x.s.laneRead e.c l.key out src len with
          | none => { x with stop := some .park }
          | some r =>
            let r := if r.fail.isNone && r.out.length != out then { r with fail := some (0x0B, len) } else r
            let r := r.struck e none (.tray slot) len 0
            done (Xfer.laneWrite e x r (plus src) (.tray slot) len (fun k n => [k, n]))

/-- TFUL and TEMP (R259): they act once every lower number has completed. (DEDUCED, log 68) (DEDUCED, log 69) -/
def runTiles (e : Eng) (x : Xfer) : Xfer :=
  let v := e.c.aux
  let first := Bits.fld v 0 9
  let count := Bits.fld v 16 9
  if Bits.fld v 9 7 != 0 || Bits.fld v 25 39 != 0 || count = 0 || 384 < first + count then x.fail { e with total := 0 } 0x0F 0 []
  else
    match x.s.allCtx.find? fun c => c.uid == e.c.uid with
    | none => x
    | some c =>
      let t := c.tcval e.c.tc
      if t.poison != 0 && t.poison < e.c.num then x.fail { e with total := 0 } 0x10 0 []
      else if t.done + 1 < e.c.num then { x with stop := some .park }
      else { x with tiles := (List.range count).map fun i => (e.c.uid, first + i) }

/-- The flash stack to whose log a command appends, as its words show (R209). -/
def Cmd.logDest (c : Cmd) : Option Nat :=
  let p := c.words.getD 1 0 + c.od
  if cmdOp c.op = 1 && c.priv && spaceOf p == .control && logPort (Bits.fld p 0 56) then some (Bits.fld p 48 2) else none

/-- A started command run to its end in loop order. -/
def State.runPlain (s : State) (c : Cmd) (cut : Option (Byte × Nat)) (past : Bool) : Xfer :=
  let x : Xfer := ⟨s, 0, [], [], none, none⟩
  match s.readDesc c with
  | .error e => { x with stop := some e }
  | .ok ws =>
    let head := ((({ c with words := ws } : Cmd).logDest.map s.logHead)).getD 0
    let e : Eng := ⟨{ c with words := ws }, cut, past, 0, head⟩
    match c.op with
    | .cpy _ => runCpy e ws x
    | .tmov _ => runTmov e ws x
    | .gsx _ => runGsx e ws x
    | .fstt _ => runFstt e x
    | .fstl _ => runFstl e ws x
    | .xlnk _ => runXlnk e ws x
    | .wstr _ => runWstr e ws x
    | .tful _ | .temp _ => runTiles e x
    | _ => x

/-- The keys of the bytes written in `t` since `s`. -/
def State.writtenSince (s t : State) : List Nat :=
  ((t.history.filter fun w => s.nextNum ≤ w.num).flatMap fun w => w.runs.flatMap fun r => (List.range r.2.length).map fun i => r.1 + i).eraseDups

/-- The values that a byte has had in `t` since `s`, but for the one it had there. -/
def State.valuesSince (s t : State) (key : Nat) : List Byte :=
  match t.history.filter fun w => s.nextNum ≤ w.num && (w.old key).isSome with
  | [] => []
  | ws => Mem.byte t.mem key :: ws.dropLast.filterMap fun w => w.old key

/-- A started command run to its end while its own bytes `see` stand as given. -/
def State.runSeeing (s : State) (c : Cmd) (cut : Option (Byte × Nat)) (past : Bool) (see : List (Nat × Byte)) : Xfer :=
  let vs : List (Agent × Nat × Seen) := see.map fun v => (c.origin.agent, v.1, Seen.coming v.2 false)
  let y := { s with views := vs ++ s.views }.runPlain c cut past
  { y with s := { y.s with views := s.views } }

/-- A started command run to its end (R238): each byte that it both reads and writes is read as loop order has it, as it was before the
command, or as the command leaves it where it then writes that value. (DESIGN CHOICE, log 12) -/
def State.runCmd (s : State) (c : Cmd) (cut : Option (Byte × Nat)) (past : Bool := false) : Xfer :=
  let x := s.runPlain c cut past
  let both := if x.reads = [] then [] else (s.writtenSince x.s).filter fun k => x.reads.any fun r => r.1 ≤ k && k < r.1 + r.2
  if both = [] then x
  else
    let first := (both.filter fun k => Config.commandByte c.id k = 1).map fun k => (k, Mem.byte s.mem k)
    let y := s.runSeeing c cut past first
    let last := (both.filter fun k => Config.commandByte c.id k ≠ 0 && Config.commandByte c.id k ≠ 1).map fun k => (k, Mem.byte y.s.mem k)
    let z := s.runSeeing c cut past (first ++ last)
    if last.all fun v => v.2 = Mem.byte s.mem v.1 || (s.valuesSince z.s v.1).contains v.2 then z else y

/-! ### Start, completion, failure -/

/-- The command of a context. -/
def State.cmd (s : State) (uid id : Nat) : Option Cmd := s.cmds.find? fun c => c.uid == uid && c.id == id

/-- The flash stack to whose log a command appends (R209). (DEDUCED, log 70) -/
def State.logStack (s : State) (c : Cmd) : Option Nat :=
  match c.op with
  | .cpy _ =>
    let wins := if c.started then c.wins else ((s.allCtx.find? fun x => x.uid == c.uid).map Ctx.windows).getD []
    (match s.readDesc { c with wins := wins } with
      | .ok ws => Cmd.logDest { c with words := ws }
      | .error _ => none)
  | _ => none

/-- A command reads nothing yet: a write of its context that it observes was under way as it started, and is still (R215), or its context
has not completed a barrier before it (R214). (DEDUCED, log 71) -/
def State.behindWrites (s : State) (c : Cmd) : Bool :=
  (s.reqs.any fun r => c.behind.contains r.id) || s.allCtx.any fun x => x.uid == c.uid && x.behindBarrier c.idx

/-- Messages are under way in the lane to a remote die that a command's words name (R399). (DEDUCED, log 135) -/
def State.farWaits (s : State) (c : Cmd) : Bool :=
  c.words.any fun w => spaceOf w == .remote && s.clock < s.laneTime 0 (s.domDie (c.core / 128 % 4)) (Bits.fld w 48 8) 0

/-- A started command waits: for a write that it observes (R215), for its lane, where one that reached it earlier is not done (R251), for an
append to the same log issued earlier (R209), or for messages of the lane to a remote die of its words (R399). (DEDUCED, log 72)
(DEDUCED, log 135) -/
def State.laneWaits (s : State) (c : Cmd) : Bool :=
  s.behindWrites c || s.farWaits c ||
  ((s.cmds.takeWhile fun d => d.id != c.id).any fun d => d.started && (cmdLanes d).any fun l => (cmdLanes c).contains l) ||
  ((s.logStack c).any fun n => s.cmds.any fun d => d.id < c.id && s.logStack d == some n)

/-- The cycles from start to verified completion that R248 fixes; 0 for commands whose time it does not. -/
def tmovCycles (c : Cmd) : Nat :=
  let w (n : Nat) : Word := c.words.getD n 0
  let own (p : Word) : Bool := spaceOf p == .basket && Bits.fld p 51 5 = c.core / 16
  let pair := (spaceOf (w 0) == .pocket && own (w 1)) || (own (w 0) && spaceOf (w 1) == .pocket)
  match c.op with
  | .tmov _ =>
    (match Bits.fld (w 3) 38 2 with
      | 0 => if pair then Bits.fld (w 2) 48 16 * 64 + 96 else 0
      | 2 => Bits.fld (w 2) 48 16 * Bits.fld (w 3) 31 7 * 2 + 96
      | _ => 0)
  | _ => 0

/-- The slot time of a context's slot has reached a command's start, and its engine has room (R83, R236). (DEDUCED, log 71) -/
def State.startDue (s : State) (c : Cmd) : Bool :=
  !c.started && (s.allCtx.any fun x => x.uid == c.uid && c.startAt ≤ (x.slot c.slot).time && (x.run.moving)) &&
    (s.cmds.filter fun d => d.uid == c.uid && d.slot == c.slot && d.started).length < 16

/-- A started command that works in the basket of a cluster or on its lane pair, as its words show. -/
def Cmd.inCluster (c : Cmd) (cluster : Nat) : Bool :=
  c.started && ((cmdLanes c).any (fun l => l = 128 + 2 * cluster || l = 129 + 2 * cluster) ||
    c.words.any fun w => spaceOf w == .basket && Bits.fld w 51 5 = cluster)

/-- Its descriptor read, a command takes the time that R248 fixes, to which a delay adds only where another shares its cluster's lane
pair or basket port. (DEDUCED, log 71) -/
def State.timed (s : State) (c : Cmd) (words : List Word) (d : Nat) : Cmd :=
  let c := { c with words := words }
  let n := tmovCycles c
  let shared := s.cmds.any fun x => x.id != c.id && x.inCluster (c.core / 16)
  { c with left := if n = 0 || shared then d + n else n }

/-- Started commands whose descriptors were parked and can now be read (R237, R205). -/
def State.settleDescs (s : State) : State :=
  if s.cmds.any fun c => c.started && c.words = [] && !(c.op matches .tful _ | .temp _ | .fstt _) then
    { s with cmds := s.cmds.map fun c =>
        if c.started && c.words = [] && !s.behindWrites c then
          (match s.readDesc c with
            | .ok (w :: ws) => s.timed c (w :: ws) c.left
            | _ => c)
        else c }
  else s

/-- COMMAND_START (R83, R237): the command reads its descriptor and takes the window table. (DESIGN CHOICE, log 8) (DEDUCED, log 71) -/
def execCommandStart (uid cmd : Nat) (s : State) : Out :=
  match s.cmd uid cmd with
  | none => .next s
  | some c =>
    if s.startDue c then
      let wins := ((s.allCtx.find? fun x => x.uid == uid).map Ctx.windows).getD []
      let behind := (s.reqs.filter fun r => r.uid == uid && r.isWrite && r.idx < c.synced.getD r.slot.val 0).map Req.id
      let c := { c with started := true, wins := wins, known := s.commandKnows c, behind := behind }
      let (d, s) := s.takeDelay
      let c := if !s.behindWrites c then (match s.readDesc c with
        | .ok ws => s.timed c ws d
        | .error _ => { c with left := d }) else { c with left := d }
      .next { s with cmds := (s.cmds.filter fun d => d.id != cmd) ++ [c] }
    else .next s

/-- A tile bit changed in this cycle by the command of issue and slot `by'` of its own context, or by another core's copy (R260).
(DEDUCED, log 68) -/
def Ctx.setTile (c : Ctx) (t : Nat) (full : Bool) (by' : Option (Nat × Nat)) : Ctx :=
  let before := c.tileNow.lookup t
  let keeps := match before, by' with
    | some none, some _ => true
    | some (some a), some b => b.1 < a.1 || (b.1 = a.1 && b.2 < a.2)
    | _, _ => false
  if keeps then c
  else
    { c with
      tileBits := if full then (if c.tileBits.contains t then c.tileBits else c.tileBits ++ [t]) else c.tileBits.filter fun x => x != t
      tileNow := (t, by') :: c.tileNow.filter fun x => x.1 != t }

/-- The tile bits of a command of context `uid` (R81, R259, R260). (DEDUCED, log 68) -/
def State.setTiles (s : State) (uid : Nat) (d : TileDone) : State :=
  d.tiles.foldl (fun s t =>
    s.onCtx t.1 fun s => s.mapCtx fun x => if t.1 = uid then x.setTile t.2 d.full (some (d.idx, d.slot)) else x.setTile t.2 true none) s

/-- The tile bits of the focused context's commands whose numbers its counters have come to (R81). -/
def State.settleTiles (s : State) : State :=
  let there (d : TileDone) : Bool := d.num ≤ (s.ctx.tcval d.tc).done
  let u := s.ctx.uid
  if s.ctx.tileWait = [] then s
  else (s.ctx.tileWait.filter there).foldl (fun s d => s.setTiles u d)
    (s.mapCtx fun c => { c with tileWait := c.tileWait.filter fun d => !there d })

/-- COMMAND_COMPLETION (R216, R240): the command has verified. (DESIGN CHOICE, log 12) -/
def execCommandCompletion (uid cmd : Nat) (s : State) : Out :=
  match s.cmd uid cmd with
  | none => .next s
  | some c =>
    if !c.started || c.left != 0 || s.laneWaits c then .next s
    else
      let x := s.runCmd c none
      if x.stop.isSome then .next s
      else
        let s := { x.s with cmds := x.s.cmds.filter fun d => d.id != cmd }
        let s := s.onCtx uid fun s =>
          let s := s.mapTc c.tc fun t => t.complete c.num
          let s := match x.head, c.tray with
            | some (swz, len), some n => s.mapCtx fun y => y.mapHead n fun h => { h with swz := BitVec.ofNat 4 swz, len := len }
            | _, _ => s
          s.settleTray
        let d : TileDone := { tc := c.tc, num := c.num, idx := c.idx, slot := c.slot.val, full := !(c.op matches .temp _), tiles := x.tiles }
        .next (if x.tiles = [] then s
          else if s.allCtx.any fun y => y.uid == uid then
            s.onCtx uid fun s => (s.mapCtx fun y => { y with tileWait := y.tileWait ++ [d] }).settleTiles
          else s.setTiles uid d)

/-- CHUNK_RETRY (R240): a chunk of a command is read and rewritten; `input.flag` tells that it is another chunk than before. (DEDUCED, log 65) -/
def execChunkRetry (uid cmd : Nat) (s : State) : Out :=
  match s.cmd uid cmd with
  | some c =>
    let n := if s.input.flag then 0 else c.retries
    if c.started && n < 3 then
      let (d, s) := s.takeDelay
      .next { s with cmds := s.cmds.map fun x => if x.id = cmd && x.uid = uid then { x with retries := n + 1, left := x.left + d } else x }
    else .next s
  | none => .next s

/-- A command error's record goes to its counter's slot, or to the steward error queue (R331). -/
def State.recordError (s : State) (uid : Nat) (ctxid : Word) (die : Nat) (r : ErrRec) : State :=
  if s.allCtx.any fun c => c.uid == uid && c.run.alive then
    s.onCtx uid fun s =>
      let t := s.ctx.tcval r.tc.toNat
      match t.record with
      | some old =>
        if old.number.toNat < r.number.toNat then s.pushErr die 2 ctxid r.bytes
        else (s.mapTc r.tc.toNat fun t => { t with record := some r }).pushErr die 2 ctxid old.bytes
      | none => s.mapTc r.tc.toNat fun t => { t with record := some r }
  else s.pushErr die 2 ctxid r.bytes

/-- Bytes of a failing command at or after its failing byte, each written or not (R241): those that it writes when what fails is passed
over. The log has taken the pages that it may have written (R209). (DESIGN CHOICE, log 104) (DEDUCED, log 70) -/
def State.lateBytes (s : State) (c : Cmd) (cut : Option (Byte × Nat)) (x : Xfer) : State :=
  let y := s.runCmd c cut true
  let done := s.writtenSince x.s
  let ks := ((s.writtenSince y.s).filter fun k => !done.contains k).filter fun k => Config.commandByte c.id k % 2 = 1
  let t := ks.foldl (fun t k => t.recorded c.origin [(k, 1)] fun t => t.writeMem k [Mem.byte y.s.mem k]) x.s
  { t with flashHead := y.s.flashHead, flashFree := y.s.flashFree }

/-- The end of a command that fails: the bytes before the failing one stand, later ones may, its number is poisoned, the record is left (R241,
R242). (DESIGN CHOICE, log 104) -/
def State.failCmd (s : State) (c : Cmd) (cut : Option (Byte × Nat)) (x : Xfer) : State :=
  match x.stop with
  | some (.fail cause addr coords link remain) =>
    let r : ErrRec :=
      { op := BitVec.ofNat 8 (cmdOp c.op), tc := BitVec.ofNat 4 c.tc, link := BitVec.ofNat 3 link, cause := cause
        number := BitVec.ofNat 64 c.num, coords := (List.range 6).map fun i => BitVec.ofNat 32 (coords.getD i 0)
        remain := BitVec.ofNat 64 remain, addr := addr }
    let s := s.lateBytes c cut x
    let s := { s with cmds := s.cmds.filter fun d => d.id != c.id }
    let s := s.onCtx c.uid fun s => (s.mapTc c.tc fun t => t.fail c.num).settleTray
    s.recordError c.uid c.ctxid (c.core / 128 % 4) r
  | _ => s

/-- The failure that a started command meets by itself: cause, and the bytes done before it. (DEDUCED, log 69) -/
def State.cmdFault (s : State) (c : Cmd) : Option (Byte × Nat) :=
  let x := s.runCmd c none
  match x.stop with
  | some (.fail cause _ _ _ _) => some (cause, x.done)
  | _ => none

/-- The failure that a command meets by itself is a target's answer receiver-not-ready (R405): its route stands. -/
def State.cmdNotReady (s : State) (c : Cmd) (x : Xfer) : Bool :=
  match x.stop with
  | some (.fail 8 addr _ _ _) => s.reachable (s.domDie (c.core / 128 % 4)) (Bits.fld addr 48 8)
  | _ => false

/-- A command that a target answers receiver-not-ready is tried again 1 µs later, then each time after twice the last interval up to
64 µs, and fails once TKEXP.RNRT has elapsed since the first answer (R243, R405). -/
def State.retryCmd (s : State) (c : Cmd) (x : Xfer) : State :=
  let us := s.usCycles (c.core / 128 % 4)
  let since := (c.rnr.map Prod.fst).getD s.clock
  let lim := since + c.rnrt * us
  let step := if c.rnr.isNone then 1 else min (2 * (c.rnr.map Prod.snd).getD 1) 64
  if lim ≤ s.clock then s.failCmd c none x
  else
    { s with cmds := s.cmds.map fun d =>
        if d.id = c.id then { d with rnr := some (since, step), left := min (step * us) (lim - s.clock) } else d }

/-- COMMAND_FAILURE (R241): the failure a command meets by itself, after the retries of R405; or an integrity failure after three
re-reads, or a remote access that failed, at byte `pos` in loop order. (DEDUCED, log 65) -/
def execCommandFailure (uid cmd : Nat) (cause : Byte) (pos : Nat) (s : State) : Out :=
  match s.cmd uid cmd with
  | none => .next s
  | some c =>
    if !c.started || s.laneWaits c then .next s
    else if s.cmdFault c == some (cause, pos) then
      let x := s.runCmd c none
      .next (if s.cmdNotReady c x then s.retryCmd c x else s.failCmd c none x)
    else if (cause = 9 && c.retries = 3) || cause = 8 then
      let x := s.runCmd c (some (cause, pos))
      (match x.stop with
        | some (.fail k _ _ _ _) => if k = cause then .next (s.failCmd c (some (cause, pos)) x) else .next s
        | _ => .next s)
    else .next s

end Sys2Proof.Machine
end

