-- ==== Sys2Proof/Machine/Launch.lean ====
section
/-! DEFINITION. The launch unit: launch records and LAUNCH (R418 to R421), dependences (R422), placement (R423), quanta (R424),
throttle states (R429), and the mailbox LAUNCH (R439). -/

namespace Sys2Proof.Machine

/-! ### The launch record (R418) -/

/-- The bits of word 5 that are reserved (R418). -/
def launchReserved : Word := 0x0000F00000F84800

/-- The argument registers that ARGMAP names. (DEDUCED, log 75) -/
def launchArgs (ws : List Word) : List Nat :=
  (((ws.drop 16).take 4).flatMap Bits.wordLe |>.take (Bits.fld (ws.getD 5 0) 0 8)).map BitVec.toNat

/-- An ARGMAP byte that names a register. (DEDUCED, log 75) -/
def argOk (b : Nat) : Bool := (1 ≤ b && b ≤ 0x1F) || (0x40 ≤ b && b ≤ 0x57)

/-- Cause 0x02: a field of the record is refused (R421). (DEDUCED, log 75) -/
def recordRefused (ws : List Word) : Bool :=
  let w (n : Nat) : Nat := (ws.getD n 0).toNat
  let args := launchArgs ws
  let rc := Bits.nfld (w 5) 17 2
  ws.getD 5 0 &&& launchReserved != 0 || w 7 / 2 ^ 40 != 0 || (((ws.drop 20).take 12).any fun x => x != 0) || rc = 3 ||
    Bits.nfld (w 5) 28 4 = 0 || 32 < Bits.nfld (w 5) 0 8 || !(args.all argOk) || !Geo.distinct args || w 7 % 4096 != 0 ||
    (rc != 0 && w 7 = 0) || (rc = 0 && w 6 != 0) || w 6 % 4096 != 0 || w 0 % 4 != 0 || w 3 % 4 != 0 || w 1 % 8 != 0 ||
    w 4 % 256 != 0

/-- Cause 0x07: a dependence entry is refused (R421, R422). -/
def depsRefused (ws : List Word) : Bool :=
  (List.range 4).any fun i =>
    let a := ws.getD (8 + 2 * i) 0
    let b := ws.getD (9 + 2 * i) 0
    Bits.fld a 28 35 != 0 || (!a.getLsbD 63 && (a != 0 || b != 0))

/-- The valid dependences: index, grid, counter, number (R422). -/
def depsOf (ws : List Word) : List (Nat × Nat × Nat × Nat) :=
  (List.range 4).filterMap fun i =>
    let a := ws.getD (8 + 2 * i) 0
    if a.getLsbD 63 then some (i, Bits.fld a 0 24, Bits.fld a 24 4, (ws.getD (9 + 2 * i) 0).toNat) else none

/-- Teams, and contexts per team, of a record. -/
def recordShape (ws : List Word) : Nat × Nat := (Bits.fld (ws.getD 5 0) 32 12 + 1, Bits.fld (ws.getD 5 0) 24 4 + 1)

/-- The live grids of a fabric group; 0 names none (R60). (DESIGN CHOICE, log 76) -/
def State.groupGrids (s : State) (fg : Nat) : List Grid := if fg = 0 then [] else s.grids.filter fun g => g.fgroup == fg

/-- The size of a fabric group's set as it stands (R452). (DESIGN CHOICE, log 76) -/
def State.groupSize (s : State) (fg : Nat) : Nat := ((s.groupGrids fg).map Grid.groupSize).foldl max 0

/-- The dies that receive teams of a grid accepted now (R418, R20). -/
def State.launchDies (s : State) (ws : List Word) : List Nat :=
  (List.range 4).filter fun d => (ws.getD 5 0).getLsbD (28 + d) && s.stewardUp d

/-- The lowest cause with which the launch unit refuses a record that it has read, 0 for none (R421); `up`: the accepting die of a
mailbox launch is up. -/
def State.launchCause (s : State) (ws : List Word) (img : List Byte) (up : Bool) : Nat :=
  let fg := Bits.fld (ws.getD 5 0) 48 8
  let (nt, n) := recordShape ws
  let asn := (ws.getD 5 0).extractLsb' 56 8
  if recordRefused ws then 2
  else if imageRefused img then 3
  else if 8388607 < s.groupSize fg + nt * n then 4
  else if 64 ≤ s.grids.length then 5
  else if (s.groupGrids fg).any fun g => g.asn != asn || g.image != winEntries img then 6
  else if depsRefused ws then 7
  else if s.launchDies ws = [] || !up then 9
  else 0

/-! ### Identifiers (R61, R421) -/

/-- The first number from `start` on, modulo `m`, that is not used, out of `n` tried. (DESIGN CHOICE, log 74) (DESIGN CHOICE, log 101) -/
def firstUnused (used : List Nat) (m : Nat) : Nat → Nat → Nat
  | 0, start => start % m
  | n + 1, start => if used.contains (start % m) then firstUnused used m n (start + 1) else start % m

/-- A set identifier that no live set of a level bears: a free value among those (log 2). (DESIGN CHOICE, log 101) -/
def State.setId (s : State) (used : List Nat) : Nat × State :=
  let (n, s) := s.takeFresh
  (firstUnused used 65536 used.length (Config.freeNat n), s)

/-- Grid identifiers that are live or named by a waiting dependence (R421). (DESIGN CHOICE, log 74) -/
def State.gridIdsUsed (s : State) : List Nat := s.grids.map Grid.id ++ s.grids.flatMap fun g => g.deps.map fun d => d.2.1

/-- The SETIDs of the live DIE sets, with those of one grid's dies taken one after another. (DESIGN CHOICE, log 101) -/
def State.dieSetIds (s : State) (used : List Nat) : List Nat → List (Nat × Nat) × State
  | [] => ([], s)
  | d :: ds =>
    let (x, s) := s.setId used
    let (xs, s) := s.dieSetIds (x :: used) ds
    ((d, x) :: xs, s)

/-- The record and image accepted on a die, or refused (R421): the value of s[D]. (DESIGN CHOICE, log 74) (DEDUCED, log 78) -/
def State.acceptLaunch (s : State) (die : Nat) (ws : List Word) (img : List Byte) (up : Bool) : Word × State :=
  let cause := s.launchCause ws img up
  if cause != 0 then (BitVec.ofNat 64 (2 ^ 63 + cause), s)
  else
    let fg := Bits.fld (ws.getD 5 0) 48 8
    let (nt, n) := recordShape ws
    let dies := s.launchDies ws
    let used := s.gridIdsUsed
    let id := firstUnused used (2 ^ 24) used.length (s.gridCount + 1)
    let (pkg, s) := s.setId (s.grids.map Grid.setPkg)
    let (ds, s) := s.dieSetIds (s.grids.flatMap fun g => g.setDies.map Prod.snd) dies
    let (dom, s) := match s.groupGrids fg with
      | g :: _ => (g.setDom, s)
      | [] => s.setId (s.grids.map Grid.setDom)
    let base := s.groupSize fg
    let deps := depsOf ws
    let eligible := deps.all fun d => s.depState d.2.1 d.2.2.1 d.2.2.2 == .met
    let g : Grid :=
      { id := id, fgroup := fg, asn := (ws.getD 5 0).extractLsb' 56 8, die := die, record := ws, image := winEntries img, dies := dies
        deps := deps, eligible := eligible, base := base, domSize := base + nt * n, groupSize := base + nt * n
        setPkg := pkg, setDom := dom, setDies := ds }
    let team (t : Nat) : Team :=
      { grid := id, num := t, die := dies.getD (t % dies.length) 0, resident := false, swapped := false, ended := false
        prio := Bits.fld (ws.getD 5 0) 8 3, eff := 0, since := s.clock, leaving := false, placed := s.clock }
    (BitVec.ofNat 64 id,
      { s with gridCount := id, grids := s.grids ++ [g], teams := s.teams ++ (List.range nt).map team }.settleDeps)

/-- A launch record read and accepted or refused; `none` while a page of it is parked (R420 steps 2 and 3). (DEDUCED, log 77) -/
def State.launchFrom (s : State) (phys : Bool) (die : Nat) (a : Nat) (up : Bool) : Option (Word × State) :=
  let refused : Option (Word × State) := some (BitVec.ofNat 64 (2 ^ 63 + 1), s)
  if a % 64 != 0 then refused
  else
    match s.launchBytes phys 8 a with
    | .bad => refused
    | .park => none
    | .ok bs =>
      let ws := (List.range 64).map fun i => Bits.leWord ((bs.drop (8 * i)).take 8)
      let img := (ws.getD 2 0).toNat
      if img % 1024 != 0 then refused
      else
        match s.launchBytes phys 16 img with
        | .bad => refused
        | .park => none
        | .ok i => some (s.acceptLaunch die ws i up)

/-! ### LAUNCH (R420) -/

/-- LAUNCH performs the context's writes at PKG scope, then waits for the record; those writes come before every access of the grid (R420). -/
def State.pollLaunch (s : State) (a : Word) (d : Nat) (released : Bool) : State :=
  if !released && s.writesOpen s.ctx.now.issue.start then s
  else
    let u : Agent := .ctx s.ctx.uid
    let ws := s.covered s.ctx.uid s.ctx.now.issue.start (s.knownTo u)
    let s := if released then s else s.performAtScope (some s.ctx) s.ctx.seat 3 ws
    match s.launchFrom false s.ctx.die a.toNat true with
    | none => if released then s else s.mapSlot fun x => { x with wait := some (.launch a d true) }
    | some (v, t) =>
      let t := t.when (!v.getLsbD 63) fun t => t.release (.grid v.toNat) 0 u 3 ws
      (t.endWait []).postReg 1 ⟨.s, d⟩ v

/-- LAUNCH (R420). -/
def execLaunch (f : RI) (s : State) : Out :=
  let (a, d) := match f with
    | .r f => (s.ra f.a.toNat, f.d.toNat)
    | .i f => (Bits.addI (s.ra f.a.toNat) f.imm.toInt, f.d.toNat)
  .next (if !s.ctx.priv then s.raise 0x02 1 else (s.waitIn (.launch a d false)).pollLaunch a d false)

/-! ### Placement (R423) -/

/-- Cores of a cluster on which a team could stand: free, or among `freed`, and not `taken`. -/
def State.openCores (s : State) (cluster : Nat) (freed taken : List Nat) : List Nat :=
  ((List.range 16).map fun i => 16 * cluster + i).filter fun c => (s.coreFree c || freed.contains c) && !taken.contains c

/-- The cores on which a team of `n` contexts is placed: the lowest cluster of the die that has enough, its lowest free cores
(R423, R16); withheld clusters take none (R449). -/
def State.fit (s : State) (die n : Nat) (xpocket : Bool) (freed taken : List Nat) : Option (List Nat) :=
  (List.range 8).findSome? fun i =>
    let cl := 8 * die + i
    let free := s.openCores cl freed taken
    if s.resmap.getLsbD cl || (xpocket && (cl = 31 || free.length < 16)) || free.length < n then none else some (free.take n)

/-- The grid of a number. -/
def State.grid (s : State) (id : Nat) : Option Grid := s.grids.find? fun g => g.id == id

/-- Contexts per team of a grid. -/
def Grid.teamSize (g : Grid) : Nat := (recordShape g.record).2

/-- The grid's teams use cross-pocket copies. -/
def Grid.xpocket (g : Grid) : Bool := (g.record.getD 5 0).getLsbD 16

/-- A membership register (R61). -/
def membership (size rank setid : Nat) : Word := BitVec.ofNat 64 (size * 2 ^ 40 + rank * 2 ^ 16 + setid)

/-- The argument registers of a context, written (R419). -/
def Ctx.putArgs (c : Ctx) (ws : List Word) : Ctx :=
  ((launchArgs ws).zipIdx).foldl (fun c x =>
    let v := ws.getD (32 + x.2) 0
    if x.1 < 0x40 then c.putReg 0 ⟨.s, x.1⟩ v else c.putReg 0 ⟨.a, x.1 - 0x40⟩ v) c

/-- A context as its first bundle finds it (R419, R61, R329, R333, R430); `cl` is the SETID of its team. (DESIGN CHOICE, log 3)
(DESIGN CHOICE, log 52) -/
def Grid.context (g : Grid) (t : Team) (nDie before uid core member cl : Nat) : Ctx :=
  let w (n : Nat) : Word := g.record.getD n 0
  let n := g.teamSize
  let teams := (recordShape g.record).1
  let rank := t.num * n + member
  let rc := Bits.fld (w 5) 17 2
  let cls := Bits.fld (w 5) 12 2
  { Ctx.reset.putArgs g.record with
    uid := uid, run := .running, core := core, grid := g.id, team := t.num, member := member, rank := rank
    ctxid := BitVec.ofNat 64 (g.asn.toNat * 2 ^ 56 + g.id * 2 ^ 32 + t.num * 2 ^ 8 + member)
    ctxstat := BitVec.ofNat 64 (2 * Bits.fld (w 5) 15 1 + 64 * (if rc = 0 then 0 else 1))
    domc := membership n member cl
    domd := membership (nDie * n) (before * n + member) ((g.setDies.lookup t.die).getD 0)
    domp := membership (teams * n) rank g.setPkg
    domf := membership g.domSize (g.base + rank) g.setDom
    trapvec := w 3 &&& ~~~3, faultrec := w 4 &&& ~~~0xFF, wtbase := w 2 &&& ~~~0x3FF, prmst := BitVec.ofNat 64 (cls * 2 ^ 8 + cls)
    windows := g.image, pipe := Pipe.init (w 0) (w 1)
    trBase := w 6 + BitVec.ofNat 64 (rank * (w 7).toNat), trLen := (w 7).toNat, trMode := BitVec.ofNat 2 rc }

/-- A trace segment begins with its header (R431). -/
def State.openTrace (s : State) (uid : Nat) : State :=
  s.onCtx uid fun s => if s.ctx.trMode = 1 then s.traceHeader else s

/-- A team's contexts created on cores, in member order. (DESIGN CHOICE, log 52) -/
def State.newTeam (s : State) (g : Grid) (t : Team) (cores : List Nat) : State :=
  let mates := s.teams.filter fun x => x.grid == g.id && x.die == t.die
  let before := (mates.filter fun x => decide (x.num < t.num)).length
  let (cl, s) := s.setId ((s.allCtx.filter fun c => c.run != .empty).map fun c => Bits.fld c.domc 0 16)
  let u := s.fresh + 1
  let cs := (cores.zipIdx).map fun x => g.context t mates.length before (u + x.2) x.1 x.2 cl
  let s := { s with fresh := s.fresh + 1 + cores.length, others := s.others ++ cs
                    budget := s.budget + (cs.map Ctx.heldClass).sum }
  let rs := s.released.filter fun r => r.gate == .grid g.id
  cs.foldl (fun s c => (s.learn (.ctx c.uid) 0 (s.given (some c) c.seat rs fun _ v => some v)).openTrace c.uid) s

/-- A team that was swapped out gets cores; each context's image is brought to its own (R424, R428). -/
def State.oldTeam (s : State) (t : Team) (cores : List Nat) : State :=
  let ms := s.members t.grid t.num
  ms.foldl (fun s c =>
    let s := if c.run.over then s else { s with budget := s.budget + c.heldClass }
    s.onCtx c.uid fun s => s.bringIn (cores.getD c.member 0)) s

/-- The teams of a die that wait eligible (R424). -/
def State.waitingTeams (s : State) (die : Nat) : List Team :=
  s.teams.filter fun t => t.die == die && !t.resident && !t.ended && (s.grids.any fun g => g.id == t.grid && g.eligible)

/-- The waiting team that is taken before another: higher effective priority, then the one that has waited longer (R424). (DEDUCED, log 79) -/
def State.waiterBefore (s : State) (a b : Team) : Bool :=
  if s.effective a != s.effective b then s.effective b < s.effective a else a.since < b.since

/-- The cores on which a waiting team can be placed now: those promised to it, once they are free, else free ones promised to no
other (R423, R424). (DEDUCED, log 79) -/
def State.coresFor (s : State) (t : Team) : Option (List Nat) :=
  match s.promised.find? fun p => p.1 = t.grid && p.2.1 = t.num with
  | some p => if p.2.2.all fun c => s.coreFree c && !s.resmap.getLsbD (c / 16) then some p.2.2 else none
  | none => (s.grid t.grid).bind fun g => s.fit t.die g.teamSize g.xpocket [] (s.promised.flatMap fun p => p.2.2)

/-- TEAM_PLACEMENT (R423, R424): an eligible team that waits is placed, when no team that is taken before it can be, once the governor
grants its class to every member (`input.flag`). (DEDUCED, log 79) (DEDUCED, log 90) (DESIGN CHOICE, log 107) -/
def execTeamPlacement (grid team : Nat) (s : State) : Out :=
  match s.grid grid, s.teams.find? fun t => t.grid == grid && t.num == team with
  | some g, some t =>
    if !g.eligible || t.resident || t.ended || !s.input.flag ||
        (s.waitingTeams t.die).any fun x => s.waiterBefore x t && (s.coresFor x).isSome then .next s
    else
      match s.coresFor t with
      | none => .next s
      | some cores =>
        let s := { s with promised := s.promised.filter fun p => !(p.1 = grid && p.2.1 = team) }
        let s := if t.swapped then s.oldTeam t cores else s.newTeam g t cores
        .next (s.mapTeam grid team fun t => { t with resident := true, eff := s.effective t, since := s.clock, placed := s.clock })
  | _, _ => .next s

/-- GRID_ELIGIBLE (R422): all dependences of a waiting grid are met; its teams begin to age. -/
def execGridEligible (grid : Nat) (s : State) : Out :=
  match s.grid grid with
  | some g =>
    if !g.eligible && g.deps.all fun d => s.depState d.2.1 d.2.2.1 d.2.2.2 == .met then
      .next { s with
        grids := s.grids.map fun x => if x.id = grid then { x with eligible := true } else x
        teams := s.teams.map fun t => if t.grid = grid then { t with since := s.clock } else t }
    else .next s
  | none => .next s

/-! ### Quanta (R424) -/

/-- The focused context is in an instruction in which, or at a stall at which, R65 counts a member as blocked. -/
def State.blockedMember (s : State) : Bool :=
  let c := s.ctx
  c.run == .running && (((c.slot 0).wait).any (fun w => match w with
      | .acq _ _ _ _ _ _ | .waittl _ _ | .bar _ _ _ _ | .waitb _ _ | .sstep _ _ | .tkwt _ | .wfe _ _ => true
      | _ => false) ||
    (c.pipe.slots.any fun x => x.wait.any fun w => match w with
      | .tclm _ => true
      | _ => false) || (List.finRange 7).any fun k => (s.atTile k).isSome)

/-- A member of the team is blocked (R65). -/
def State.teamBlocked (s : State) (t : Team) : Bool := (s.members t.grid t.num).any fun c => (s.refocus c.uid).blockedMember

/-- The team that is swapped out before another: lower effective priority, then blocked, then longer resident (R424). (DEDUCED, log 79) -/
def State.victimBefore (s : State) (a b : Team) : Bool :=
  if a.eff != b.eff then a.eff < b.eff
  else if s.teamBlocked a != s.teamBlocked b then s.teamBlocked a
  else a.placed < b.placed

/-- A team put into an ordered list. -/
def insertTeam (lt : Team → Team → Bool) (t : Team) : List Team → List Team
  | [] => [t]
  | x :: xs => if lt t x then t :: x :: xs else x :: insertTeam lt t xs

/-- Teams in order. -/
def sortTeams (lt : Team → Team → Bool) (ts : List Team) : List Team := ts.foldl (fun acc t => insertTeam lt t acc) []

/-- The cores a team stands on. -/
def State.teamCores (s : State) (t : Team) : List Nat := (s.members t.grid t.num).map Ctx.core

/-- Victims taken one after another until `n` cores are found; `none` when they do not suffice. (DEDUCED, log 79) -/
def State.makeRoom (s : State) (t : Team) (g : Grid) (taken : List Nat) : List Team → List Nat → List Team →
    Option (List Nat × List Team)
  | vs, freed, out =>
    match s.fit t.die g.teamSize g.xpocket freed taken with
    | some cores => some (cores, out)
    | none =>
      match vs with
      | [] => none
      | v :: vs => s.makeRoom t g taken vs (freed ++ s.teamCores v) (v :: out)

/-- The waiting teams considered in order: `freed` are the cores of teams that leave, `taken` those promised. (DEDUCED, log 79) -/
def State.quantumGo (s : State) (die : Nat) : List Team → List Nat → List Nat → State
  | [], _, _ => s
  | t :: ts, freed, taken =>
    let eff := s.effective t
    let vs := s.teams.filter fun v => v.die == die && v.resident && !v.ended && !v.leaving && decide (v.eff ≤ eff)
    match s.grid t.grid with
    | none => s.quantumGo die ts freed taken
    | some g =>
      match s.makeRoom t g taken (sortTeams s.victimBefore vs) freed [] with
      | none => s.quantumGo die ts freed taken
      | some (cores, out) =>
        let t := { out.foldl (fun s v => s.swapOut v.grid v.num) s with promised := s.promised ++ [(t.grid, t.num, cores)] }
        t.quantumGo die ts (freed ++ out.flatMap s.teamCores) (taken ++ cores)

/-- QUANTUM_EXPIRY (R424): at a 2 ms boundary of a die, resident teams are asked to leave for waiting ones. (DEDUCED, log 79) -/
def execQuantumExpiry (die : BitVec 2) (s : State) : Out :=
  let d := die.toNat
  let q := (s.quantum[d]?).getD 0 + 2000 * s.usCycles d
  if s.clock < q then .next s
  else
    let ours (p : Nat × Nat × List Nat) : Bool := s.teams.any fun t => t.grid == p.1 && t.num == p.2.1 && t.die == d
    let s := { s with quantum := s.quantum.setIfInBounds d s.clock, promised := s.promised.filter fun p => !ours p }
    let freed := (s.teams.filter fun t => t.die == d && t.leaving).flatMap s.teamCores
    .next (s.quantumGo d (sortTeams s.waiterBefore (s.waitingTeams d)) freed [])

/-! ### Throttle states and the mailbox LAUNCH -/

/-- THROTTLE_CHANGE (R429): the die `input.die` goes to state T`input.n`. -/
def execThrottleChange (s : State) : Out :=
  .next { s with throttle := s.throttle.setIfInBounds s.input.die (BitVec.ofNat 2 s.input.n) }

end Sys2Proof.Machine
end

