-- ==== Sys2Proof/Machine/Fabric.lean ====
section
/-! DEFINITION. The links of the fabric: flits, replay and credits (R400 to R402), frames and keys (R403, R404), link states and the
routes that follow them (R28, R398). Each event's `input.link` names an end of this package; `input.messages` are the messages that its router gives
it, and `wire` then holds what the end has put on the link. -/

namespace Sys2Proof.Machine

/-! ### CRC-32C (R400) -/

/-- Eight steps of the reflected division by the Castagnoli polynomial. (PRESUMED, log 42) -/
def crcBits : Nat → Nat → Nat
  | 0, c => c
  | n + 1, c => crcBits n (if c % 2 = 1 then (c / 2) ^^^ 0x82F63B78 else c / 2)

/-- The CRC-32C of a byte string (R400). (PRESUMED, log 42) -/
def crc32c (bs : List Byte) : Nat := (bs.foldl (fun c b => crcBits 8 (c ^^^ b.toNat)) 0xFFFFFFFF) ^^^ 0xFFFFFFFF

/-- A flit's CRC holds (R400). (PRESUMED, log 42) -/
def flitOk (f : List Byte) : Bool := f.length = 256 && Bits.leNat (f.drop 252) = crc32c (f.take 252)

/-- The bits of a header that hold the fields, in the order of `headFields`: `n` of those that are left, each by a free choice (R400).
(DESIGN CHOICE, log 92) -/
def headPlaces : Nat → List Nat → List Nat
  | 0, _ => []
  | n + 1, left =>
    let p := left.getD (Config.headerPick n % left.length) 0
    p :: headPlaces n (left.erase p)

/-- Bits of a word set at places, from the least significant of a number on. -/
def putBits : List Nat → Nat → Word → Word
  | [], _, w => w
  | p :: ps, v, w => putBits ps (v / 2) (Bits.setFld w p 1 (v % 2))

/-- The number that the bits at places hold. -/
def takeBits : List Nat → Word → Nat
  | [], _ => 0
  | p :: ps, w => Bits.fld w p 1 + 2 * takeBits ps w

/-- The places of the 16 bits of sequence number, lane, key slot, and the mark of a key change, in a header (R400, R404): the manual gives
the fields and no layout. (DESIGN CHOICE, log 92) -/
def headFields : List Nat := headPlaces 16 (List.range 64)

/-- The header, bytes 0 to 7, of a flit with a sequence number, a lane, a key slot, and whether it is the marker of a key change (R400,
R404). (DESIGN CHOICE, log 92) -/
def flitHeader (seq : BitVec 12) (lane : BitVec 2) (slot marker : Bool) : Word :=
  putBits headFields (seq.toNat + 2 ^ 12 * lane.toNat + 2 ^ 14 * slot.toNat + 2 ^ 15 * marker.toNat) Config.headerRest

/-- The sequence number in a header (R400). -/
def flitSeq (h : Word) : BitVec 12 := BitVec.ofNat 12 (takeBits headFields h)

/-- The lane that a header names (R400). -/
def flitLane (h : Word) : BitVec 2 := BitVec.ofNat 2 (takeBits headFields h / 2 ^ 12)

/-- The key slot that a header names (R400). -/
def flitSlot (h : Word) : Bool := takeBits headFields h / 2 ^ 14 % 2 = 1

/-- A header is that of a marker (R404). -/
def flitMarker (h : Word) : Bool := takeBits headFields h / 2 ^ 15 % 2 = 1

/-- The header of a flit. -/
def flitHead (f : List Byte) : Word := Bits.leWord (f.take 8)

/-- The lane of a flit. -/
def flitLaneOf (f : List Byte) : Nat := (flitLane (flitHead f)).toNat

/-- The bytes of a flit: header, payload filled with zeros, CRC (R400). (PRESUMED, log 42) (DESIGN CHOICE, log 92) -/
def flitBytes (head : Word) (payload : List Byte) : List Byte :=
  let b := Bits.wordLe head ++ payload ++ List.replicate (244 - payload.length) 0
  b ++ Bits.natLe 4 (crc32c b)

/-! ### Link ends -/

/-- A key slot without a key. -/
def KeySlot.empty : KeySlot := ⟨none, 0, 0, false, false⟩

/-- A link end as training leaves it: every buffer slot counts as freed (R402). (DESIGN CHOICE, log 92) -/
def Link.trained (ref : LinkRef) (ports : Nat) (key : Option (BitVec 256)) : Link :=
  { ref := ref, ports := ports, up := ports != 0, encrypted := key.isSome, txSeq := 0, acked := 0, rxSeq := 0, replay := [], again := []
    wire := [], asked := none, failSeq := none, fails := 0, credits := List.replicate 4 (0, 0), freed := (List.range 4).map Config.linkSlots
    outbox := [], turns := 0, slot0 := { KeySlot.empty with key := key }, slot1 := KeySlot.empty, useSlot := false, rxSlot := false
    sinceMark := none, frameFails := 0, warned := false, inbox := [], delivered := [] }

/-- The link end of a name. -/
def State.link (s : State) (r : LinkRef) : Option Link := s.links.find? fun l => l.ref == r

/-- A link end changed. -/
def State.mapLink (s : State) (r : LinkRef) (f : Link → Link) : State :=
  { s with links := s.links.map fun l => if l.ref == r then f l else l }

/-- The buffer slots a sender may still use on a lane (R402). -/
def Link.available (l : Link) (lane : Nat) : Nat :=
  let c := l.credits.getD lane (0, 0)
  (c.1 + 2 ^ 32 - c.2) % 2 ^ 32

/-- A flit on a lane uses a buffer slot (R402). -/
def Link.useSlotOf (l : Link) (lane : Nat) : Link :=
  { l with credits := l.credits.modify lane fun c => (c.1, (c.2 + 1) % 2 ^ 32) }

/-! ### Messages into flits (R399, R400) -/

/-- The next `n` bytes at most of a lane's messages, in order, and what is left (R400). -/
def takeLane (lane : Nat) : Nat → List (Nat × List Byte) → List Byte × List (Nat × List Byte)
  | _, [] => ([], [])
  | n, (k, m) :: rest =>
    if n = 0 then ([], (k, m) :: rest)
    else if k != lane then
      let (b, r) := takeLane lane n rest
      (b, (k, m) :: r)
    else if m.length ≤ n then
      let (b, r) := takeLane lane (n - m.length) rest
      (m ++ b, r)
    else (m.take n, (k, m.drop n) :: rest)

/-- The lane that the link serves next (R399): VL3, then VL1; VL0 and VL2 take turns, VL2 once in four flits at most while VL0 has flits.
(DEDUCED, log 135) -/
def Link.nextLane (l : Link) : Option Nat :=
  let ready (k : Nat) : Bool := l.outbox.any (fun m => m.1 = k) && l.available k != 0
  if ready 3 then some 3
  else if ready 1 then some 1
  else if ready 0 then some (if ready 2 && 3 ≤ l.turns then 2 else 0)
  else if ready 2 then some 2
  else none

/-- The next flit of the link on a lane, with the key slot in use in its header (R400). -/
def Link.flit (l : Link) (lane : Nat) (marker : Bool) (payload : List Byte) : List Byte × Link :=
  (flitBytes (flitHeader (BitVec.ofNat 12 l.txSeq) (BitVec.ofNat 2 lane) l.useSlot marker) payload,
    { l.useSlotOf lane with
      txSeq := (l.txSeq + 1) % 4096, turns := if lane = 0 then l.turns + 1 else if lane = 2 then 0 else l.turns })

/-- At most `n` flits that the link is ready to send, in order. -/
def Link.flits : Nat → Link → List (List Byte) × Link
  | 0, l => ([], l)
  | n + 1, l =>
    match l.nextLane with
    | none => ([], l)
    | some k =>
      let (b, rest) := takeLane k 244 l.outbox
      let (f, l) := { l with outbox := rest }.flit k false b
      let (fs, l) := Link.flits n l
      (f :: fs, l)

/-! ### Frames (R403) -/

/-- The external link code of a direction (R27). -/
def linkCode (dir : Nat) : Nat :=
  match dir with
  | 0 | 1 => 0
  | 2 | 3 => 1
  | 4 => 2
  | _ => 3

/-- The direction of the other end of a link, as a code: +Z meets −Z (R403). -/
def otherCode (dir : Nat) : Nat :=
  match linkCode dir with
  | 2 => 3
  | 3 => 2
  | n => n

/-- The die at the other end. -/
def State.farDie (s : State) (r : LinkRef) : Nat := s.neighbour r.die.toNat (r.dir.toNat / 2) (r.dir.toNat % 2 = 0)

/-- The 96-bit nonce (R403). -/
def nonce (counter sender receiver code : Nat) : BitVec 96 :=
  BitVec.ofNat 96 (counter * 2 ^ 48 + sender * 2 ^ 40 + receiver * 2 ^ 32 + code * 2 ^ 24)

/-- A key slot of an end. -/
def Link.keySlot (l : Link) (which : Bool) : KeySlot := if which then l.slot1 else l.slot0

/-- A key slot of an end changed. -/
def Link.mapKey (l : Link) (which : Bool) (f : KeySlot → KeySlot) : Link :=
  if which then { l with slot1 := f l.slot1 } else { l with slot0 := f l.slot0 }

/-- The bytes of flits that a frame enciphers, those after the headers; and the flits with these replaced. (DESIGN CHOICE, log 92) -/
def frameBody (fs : List (List Byte)) : List Byte := fs.flatMap fun f => f.drop 8

/-- Flits with their bodies taken from a string. -/
def withBody : List (List Byte) → List Byte → List (List Byte)
  | [], _ => []
  | f :: fs, bs => (f.take 8 ++ bs.take (f.length - 8)) :: withBody fs (bs.drop (f.length - 8))

/-- Flits under a key and a nonce: the headers stand in clear and are authenticated, the rest is enciphered (R403). (DESIGN CHOICE, log 92) -/
def frameCrypt (key : BitVec 256) (n : BitVec 96) (fs : List (List Byte)) : List (List Byte) := withBody fs (Gcm.crypt key n (frameBody fs))

/-- The tag of a frame as it crosses the link. (DESIGN CHOICE, log 92) -/
def frameTag (key : BitVec 256) (n : BitVec 96) (fs : List (List Byte)) : BitVec 128 :=
  Gcm.tagOf key n (fs.flatMap fun f => f.take 8) (frameBody fs)

/-- A frame sealed with the slot in use, whose counter goes on (R403). -/
def Link.seal (s : State) (l : Link) (seq : Nat) (fs : List (List Byte)) : Sent × Link :=
  let k := l.keySlot l.useSlot
  let n := nonce k.counter l.ref.die.toNat (s.farDie l.ref) (linkCode l.ref.dir.toNat)
  let cs := frameCrypt (k.key.getD 0) n fs
  (⟨seq, cs, some (frameTag (k.key.getD 0) n cs)⟩, l.mapKey l.useSlot fun k => { k with counter := k.counter + 1 })

/-! ### Sending (R401 to R404) -/

/-- The flits kept for replay: what lies wholly beyond the last 512 is dropped (R401). -/
def lastFlits (xs : List Sent) : List Sent :=
  let total (l : List Sent) : Nat := (l.map fun x => x.flits.length).sum
  (xs.foldl (fun (acc : List Sent × Nat) x => if 512 ≤ acc.2 - x.flits.length then (acc.1.drop 1, acc.2 - x.flits.length) else acc)
    (xs, total xs)).1

/-- Something new put on the link. -/
def Link.put (l : Link) (x : Sent) : Link := { l with replay := lastFlits (l.replay ++ [x]), wire := l.wire ++ [x] }

/-- The other slot holds a key that has not been used (R404). -/
def Link.keyReady (l : Link) : Bool :=
  let k := l.keySlot (!l.useSlot)
  k.key.isSome && !k.spent

/-- The counter of the slot in use has reached 2^47 and a key is ready (R404 step 2). -/
def Link.switchDue (l : Link) : Bool := 2 ^ 47 ≤ (l.keySlot l.useSlot).counter && l.keyReady

/-- The other slot seals from now on (R404 step 2). -/
def Link.switchKey (l : Link) : Link :=
  { l.mapKey l.useSlot fun k => { k with spent := true } with useSlot := !l.useSlot, warned := false }

/-- The marker flit, in a frame of its own with the slot in use, and the switch (R404 step 2): once VL3 has a buffer slot for it (R402).
(DESIGN CHOICE, log 92) -/
def Link.mark (s : State) (l : Link) : Option Link :=
  if l.available 3 = 0 then none
  else
    let seq := l.txSeq
    let (f, l) := l.flit 3 true []
    let (x, l) := Link.seal s l seq [f]
    some (l.put x).switchKey

/-- The buffer slots that flits use, one after another; none where one has none (R402). -/
def Link.useSlots : List (List Byte) → Link → Option Link
  | [], l => some l
  | f :: fs, l => if l.available (flitLaneOf f) = 0 then none else Link.useSlots fs (l.useSlotOf (flitLaneOf f))

/-- One flit or frame more, if the link is ready for one: what is to be sent again comes first; then a marker that is due; no frame is
sealed with the counter value 2^48 − 1 (R401 to R404). -/
def Link.sendOne (s : State) (l : Link) : Option Link :=
  match l.again with
  | x :: xs =>
    (Link.useSlots x.flits l).map fun l => { l with again := xs, wire := l.wire ++ [x] }
  | [] =>
    if !l.up then none
    else if !l.encrypted then
      (match Link.flits 1 l with
        | ([], _) => none
        | (fs, l') => some (l'.put ⟨l.txSeq, fs, none⟩))
    else if l.switchDue then Link.mark s l
    else if 2 ^ 48 - 1 ≤ (l.keySlot l.useSlot).counter then none
    else
      match Link.flits 16 l with
      | ([], _) => none
      | (fs, l') =>
        let (x, l') := Link.seal s l' l.txSeq fs
        some (l'.put x)

/-- At most `n` flits or frames sent. -/
def Link.pump (s : State) : Nat → Link → Link
  | 0, l => l
  | n + 1, l =>
    match Link.sendOne s l with
    | none => l
    | some l => Link.pump s n l

/-- Everything that a link end is ready to send. -/
def Link.pumpAll (s : State) (l : Link) : Link :=
  if l.up then Link.pump s (l.again.length + (l.outbox.map fun m => m.2.length / 244 + 1).sum + 1) l else l

/-- An event of the end of `input.link`, given the messages that its router has for it; then it sends what it can. -/
def State.withLink (s : State) (f : Link → State → State) : State :=
  match s.link s.input.link with
  | none => s
  | some l =>
    let l := { l with outbox := l.outbox ++ s.input.messages, wire := [] }
    let s := f l (s.mapLink l.ref fun _ => l)
    s.mapLink l.ref (Link.pumpAll s)

/-- Flits of `x` from number `q` on. -/
def Sent.holds (x : Sent) (q : Nat) : Bool := (q + 4096 - x.seq) % 4096 < x.flits.length

/-- What has been sent from number `q` on (R401). -/
def Link.from' (l : Link) (q : Nat) : List Sent := l.replay.dropWhile fun x => !x.holds q

/-- A link trains again: slots are counted anew, and the sender resends from the first flit not acknowledged (R401, R402).
(DESIGN CHOICE, log 92) -/
def Link.retrain (l : Link) : Link :=
  { l with
    credits := l.credits.map fun _ => (0, 0), freed := (List.range 4).map Config.linkSlots, failSeq := none, fails := 0, wire := [], again := l.from' l.acked }

/-! ### Routes that change (R398) -/

/-- The directions a message takes in the three dimensions. -/
def State.routeDirs (s : State) (src dst : Nat) : List (Option (Option Bool)) :=
  let n1 := withCoord src 0 (coordOf dst 0)
  let n2 := withCoord n1 1 (coordOf dst 1)
  [s.dimDir src dst 0, s.dimDir n1 dst 1, s.dimDir n2 dst 2]

/-- A message that a router has accepted from one die to another has not been delivered: a request, an answer, or one of the ticket
service. -/
def State.underWay (s : State) (src dst : Nat) : Bool :=
  (s.reqs.any fun r => r.src = src && r.target == some dst && (match r.state with
    | .sent _ | .merging _ => true
    | _ => false)) ||
  (s.resps.any fun q => src != dst && q.die = src && q.dest = dst && q.time.isSome) ||
  s.ticketMsgs.any fun m => m.src = src && m.die = dst && m.time.isSome

/-- After a change of the links, the sources of this package whose routes change stop taking messages for those targets (R398).
(DEDUCED, log 93) -/
def State.rerouted (s before : State) : State :=
  let pairs := (List.range 4).flatMap fun d => ((List.range 256).filter s.diePresent).map fun t => (s.domDie d, t)
  let new := pairs.filter fun p => s.routeDirs p.1 p.2 != before.routeDirs p.1 p.2 && s.underWay p.1 p.2
  { s with draining := s.draining ++ new.filter fun p => !s.draining.contains p }

/-- A link end changed, and the routes after it. (DEDUCED, log 93) -/
def State.relink (s : State) (r : LinkRef) (f : Link → Link) : State := (s.mapLink r f).rerouted s

/-- A link end goes down and the security event is raised (R403, R404). -/
def State.linkLost (s : State) (r : LinkRef) : State := (s.relink r fun l => { l with up := false }).setEvent 8

/-! ### Flits (R401, R402) -/

/-- Messages read from the bytes of a lane, at most `n` of them: those complete, and the bytes of one begun; bytes that begin none fill
the flit (R400). (DESIGN CHOICE, log 92) -/
def readMessages : Nat → List Byte → List (List Byte) × List Byte
  | 0, bs => ([], bs)
  | n + 1, bs =>
    let k := Config.messageSize bs
    if bs = [] || k = 0 then ([], [])
    else if k ≤ bs.length then
      let (ms, r) := readMessages n (bs.drop k)
      (bs.take k :: ms, r)
    else ([], bs)

/-- The messages that a flit delivers, which may complete one of the flits before it on its lane (R400). -/
def Link.accept (l : Link) (f : List Byte) : Link :=
  let k := flitLaneOf f
  let bs := (l.inbox.lookup k).getD [] ++ (f.drop 8).take 244
  let (ms, r) := readMessages bs.length bs
  { l with
    inbox := (k, r) :: l.inbox.filter fun x => x.1 != k, delivered := l.delivered ++ ms.map fun m => (k, m)
    freed := l.freed.modify k fun n => (n + 1) % 2 ^ 32 }

/-- A flit arrives at a receiver: delivered in sequence, else a replay is asked for from the first one missing (R401). (DESIGN CHOICE, log 92) -/
def Link.take (l : Link) (f : List Byte) : Link :=
  if flitOk f && (flitSeq (flitHead f)).toNat = l.rxSeq then
    let l := { l.accept f with rxSeq := (l.rxSeq + 1) % 4096, asked := none }
    if flitMarker (flitHead f) then { l with rxSlot := !l.rxSlot, sinceMark := some 0 }
    else { l with sinceMark := l.sinceMark.map (· + 1) }
  else { l with asked := some l.rxSeq }

/-- FLIT_RECEIVE (R401): the flit `input.bytes` reaches an end that takes no frames. -/
def execFlitReceive (s : State) : Out :=
  .next (s.withLink fun l s => if l.encrypted || !l.up then s else s.mapLink l.ref fun l => l.take s.input.bytes)

/-- REPLAY_REQUEST (R401): the other end asks for the flits from number `input.n` on, and so acknowledges those before it; after 8 failed
replays of one flit the link trains again. Replays are counted (R448). -/
def execReplayRequest (s : State) : Out :=
  .next (s.withLink fun l s =>
    let q := s.input.n % 4096
    let n := if l.failSeq = some q && l.acked = q then l.fails + 1 else 0
    let l := { l with failSeq := some q, fails := n, acked := q, wire := l.from' q }
    let l := if 8 ≤ n then l.retrain else l
    (s.mapLink l.ref fun _ => l).countCorr (localDie l.ref.die.toNat) 7)

/-- CREDIT_RETURN (R402): the count `input.n` of slots freed on lane `input.m` since the link trained; with `input.flag` the flits before
number `input.uid` are acknowledged. (DESIGN CHOICE, log 92) -/
def execCreditReturn (s : State) : Out :=
  .next (s.withLink fun l s => s.mapLink l.ref fun l =>
    { l with
      credits := l.credits.modify s.input.m fun c => (s.input.n % 2 ^ 32, c.2)
      acked := if s.input.flag then s.input.uid % 4096 else l.acked })

/-- The ports a link trains on (R28). -/
def trainedPorts (working : Nat) : Nat :=
  if 8 ≤ working then 8 else if 4 ≤ working then 4 else if 2 ≤ working then 2 else working

/-- LINK_STATE_CHANGE (R28): a link trains on the largest count that its `input.n` working ports allow, or goes down; with `input.flag` its
other end expects number `input.uid` next. A link end of another package comes into or goes out of the routes (R398). (DESIGN CHOICE, log 92) -/
def execLinkStateChange (s : State) : Out :=
  let p := trainedPorts s.input.n
  let r := s.input.link
  .next (if (s.link r).isNone then
      { s with farDown := if p = 0 then r :: s.farDown else s.farDown.filter fun x => x != r }.rerouted s
    else s.withLink fun l s =>
      s.relink l.ref fun l =>
        { { l with acked := if s.input.flag then s.input.uid % 4096 else l.acked }.retrain with ports := p, up := p != 0 })

/-- ROUTE_SWITCH (R398): die `input.die` uses its new route to die `input.n` once every message it sent there has been delivered. -/
def execRouteSwitch (s : State) : Out :=
  let p := (s.input.die, s.input.n)
  if s.draining.contains p && !s.underWay p.1 p.2 then .next { s with draining := s.draining.filter fun q => q != p }.settleSources
  else .next s

/-! ### Frames received, and keys (R403, R404) -/

/-- An end accepts frames of a key slot: the sender's, and, for the 4,096 flits after the marker, the one before it (R404). -/
def Link.accepts (l : Link) (which : Bool) : Bool :=
  !(l.keySlot which).retired && (which == l.rxSlot || l.sinceMark.any fun n => n < 4096)

/-- The flits of a frame of slot `which`, once its tag verifies (R403): under the slot's key and the nonce that both ends form.
(DEDUCED, log 89) -/
def State.openFrame (s : State) (l : Link) (which : Bool) (fs : List (List Byte)) (tag : BitVec 128) : Option (List (List Byte)) :=
  let k := l.keySlot which
  let n := nonce k.rx (s.farDie l.ref) l.ref.die.toNat (otherCode l.ref.dir.toNat)
  k.key.bind fun key =>
    if l.accepts which && 1 ≤ fs.length && fs.length ≤ 16 && tag == frameTag key n fs then some (frameCrypt key n fs) else none

/-- FRAME_RECEIVE (R403): the flits `input.flits` with the tag `input.word2`:`input.word` reach an encrypted end; a failure counts against
the frame that is next, and a frame behind it is out of sequence (R401). (DEDUCED, log 89) -/
def execFrameReceive (s : State) : Out :=
  let fs := s.input.flits
  .next (s.withLink fun l s =>
    if !l.encrypted || !l.up then s
    else
      let which := flitSlot (flitHead (fs.headD []))
      match s.openFrame l which fs (s.input.word2 ++ s.input.word) with
      | some fs =>
        s.mapLink l.ref fun l => fs.foldl Link.take { l.mapKey which fun k => { k with rx := k.rx + 1 } with frameFails := 0 }
      | none =>
        if (flitSeq (flitHead (fs.headD []))).toNat != l.rxSeq then s.mapLink l.ref fun l => { l with asked := some l.rxSeq }
        else if 3 ≤ l.frameFails + 1 then (s.mapLink l.ref fun l => { l with frameFails := 0 }).linkLost l.ref
        else s.mapLink l.ref fun l => { l with frameFails := l.frameFails + 1, asked := some l.rxSeq })

/-- The end still receives with the slot that it does not seal with: frames of its key are accepted (R404). (DEDUCED, log 89) -/
def Link.otherInUse (l : Link) : Bool := l.accepts (!l.useSlot) && (l.keySlot (!l.useSlot)).key.isSome

/-- A key put into the slot that the end does not use; a key that was there is retired with it. -/
def Link.loadKey (l : Link) (key : BitVec 256) : Link :=
  { l.mapKey (!l.useSlot) fun _ => { KeySlot.empty with key := some key } with sinceMark := if l.useSlot = l.rxSlot then none else l.sinceMark }

/-- KEY_LOAD (R404): the key `input.key` goes into the slot not in use, its counter 0; while neither slot is free, none is loaded.
(DEDUCED, log 89) -/
def execKeyLoad (s : State) : Out :=
  .next (s.withLink fun l s => if !l.encrypted || l.otherInUse then s else s.mapLink l.ref fun l => l.loadKey s.input.key)

/-- `n` frames sealed that the model does not show: with a key ready at 2^47 the marker goes out and the other slot seals the rest; else
the counter stops short of the value that no frame may have (R404). -/
def Link.sealed (s : State) (l : Link) (n : Nat) : Link :=
  let count (l : Link) (n : Nat) : Link := l.mapKey l.useSlot fun k => { k with counter := min (k.counter + n) (2 ^ 48 - 1) }
  let room := 2 ^ 47 - (l.keySlot l.useSlot).counter
  if l.keyReady && room ≤ n then
    match Link.mark s (count l room) with
    | some l => count l (n - room)
    | none => count l room
  else count l n

/-- KEY_SWITCH (R404): after `input.n` more frames; with no key ready at 2^47 the security event is raised once. -/
def execKeySwitch (s : State) : Out :=
  .next (s.withLink fun l s =>
    if !l.encrypted then s
    else
      let l := Link.sealed s l s.input.n
      let due := 2 ^ 47 ≤ (l.keySlot l.useSlot).counter
      if due && !l.keyReady && !l.warned then (s.mapLink l.ref fun _ => { l with warned := true }).setEvent 8
      else s.mapLink l.ref fun _ => l)

/-- KEY_RETIRE (R404): the receiver retires the old slot 4,096 flits after the marker. -/
def execKeyRetire (s : State) : Out :=
  .next (s.withLink fun l s =>
    if l.sinceMark.any fun n => 4096 ≤ n then
      s.mapLink l.ref fun l => { l.mapKey (!l.rxSlot) fun k => { k with retired := true } with sinceMark := none }
    else s)

/-- KEY_EXHAUSTION (R404): after `input.n` more frames the counter stands at 2^48 − 1 with no new key: the link goes down. -/
def execKeyExhaustion (s : State) : Out :=
  .next (s.withLink fun l s =>
    if !l.encrypted then s
    else
      let l := Link.sealed s l s.input.n
      if 2 ^ 48 - 1 ≤ (l.keySlot l.useSlot).counter && !l.keyReady then (s.mapLink l.ref fun _ => l).linkLost l.ref
      else s.mapLink l.ref fun _ => l)

end Sys2Proof.Machine
end

