-- ==== Sys2Proof/Machine/Host.lean ====
section
/-! DEFINITION. The host and the package's services: stewards (R20), the mailbox and its commands (R435 to R439), queue pairs (R441,
R442), boot (R443, R444), SPDM (R445), soft errors and withheld clusters (R446 to R449). -/

namespace Sys2Proof.Machine

/-! ### Stewards (R20) -/

/-- A steward's record changed. -/
def State.mapSteward (s : State) (die : Nat) (f : Steward → Steward) : State :=
  { s with stewards := s.stewards.setIfInBounds die (f ((s.stewards[die]?).getD ⟨0, false, false, false⟩)) }

/-- The steward of a die. -/
def State.steward (s : State) (die : Nat) : Steward := (s.stewards[die]?).getD ⟨0, false, false, false⟩

/-- The launch unit of a die sends its steward a liveness request: 10 ms after the last request (R20). -/
def State.livenessDue (s : State) (d : Nat) : Bool :=
  s.stewardUp d && !(s.steward d).asked && (s.steward d).since + 10000 * 18000 ≤ s.age

/-- A request to the steward of a die has been open for 100 ms (R20). -/
def State.stewardLate (s : State) (d : Nat) : Bool :=
  s.stewardUp d && (s.steward d).asked && (s.steward d).since + 100000 * 18000 ≤ s.age

/-- STEWARD_LIVENESS_REQUEST (R20): the steward of die `input.die` answers from now on (`input.flag`) or does not; 10 ms after the last
request its launch unit sends one, which it answers or leaves open. (DEDUCED, log 80) -/
def execStewardLivenessRequest (s : State) : Out :=
  let d := s.input.die
  let s := s.mapSteward d fun w => { w with silent := !s.input.flag }
  .next (if s.livenessDue d then s.mapSteward d fun w => { w with since := s.age, asked := w.silent } else s)

/-- STEWARD_FAILURE (R20): a request of die `input.die` has been open for 100 ms. (DEDUCED, log 80) -/
def execStewardFailure (s : State) : Out :=
  let d := s.input.die
  if s.stewardLate d then
    let s := s.mapSteward d fun w => { w with failed := true }
    .next ((s.pushErr 0 0x06 0 (Bits.natLe 8 (d % 4) ++ Bits.natLe 8 (s.age / 18000))).setEvent 1)
  else .next s

/-- STEWARD_ANSWERS_AGAIN (R20): the steward of die `input.die` answers. (DEDUCED, log 80) -/
def execStewardAnswersAgain (s : State) : Out :=
  .next (s.mapSteward s.input.die fun _ => { since := s.age, asked := false, failed := false, silent := false })

/-! ### The mailbox (R436) -/

/-- Word `i` of a page's copy. -/
def pageWord (copy : List Byte) (i : Nat) : Word := Bits.leWord ((copy.drop (8 * i)).take 8)

/-- The key of an offset of a mailbox page. -/
def mailPage (n off : Nat) : Nat := mailKey (0x1000 * (n + 1) + off)

/-- Bytes written by an agent that issues no bundles. -/
def State.writeAs (s : State) (a : Agent) (key : Nat) (bs : List Byte) : State :=
  if bs = [] then s else s.recorded a.origin [(key, bs.length)] fun s => s.writeMem key bs

/-- The releases by HEVT writes that name a page. -/
def Released.mails (r : Released) (n : Nat) : Bool := r.gate == .mail n

/-- A page is completed: results and bulk data, then word 0 with OWN = 0, then EVSTAT.MB (R436 step 5). (DEDUCED, log 73) -/
def State.finishMail (s : State) (n seq status : Nat) (results : List (Nat × Word)) (bulk : List Byte) : State :=
  let put (s : State) (off : Nat) (bs : List Byte) : State := s.writeAs (.steward 0) (mailPage n off) bs
  let s := results.foldl (fun s r => put s (8 * r.1) (Bits.wordLe r.2)) s
  let s := put (put s 0x100 bulk) 0 (Bits.natLe 8 (seq * 2 ^ 32 + status * 2 ^ 8))
  ({ s with mailbox := none, released := s.released.filter fun r => !r.mails n }).setEvent (BitVec.ofNat 64 (2 ^ (8 + n)))

/-- The host events are served: steward 0 answers, or the package is in recovery, where only FWSTAGE is (R20, R444). -/
def State.mailServed (s : State) (cmd : Nat) : Bool := s.stewardUp 0 || (s.bootst.getLsbD 2 && cmd = 7)

/-- The first host event that is served, by the command of its page (R436, R444). -/
def State.nextMail (s : State) : Option Nat :=
  s.hevts.find? fun n => s.mailServed (Mem.readNat s.mem (mailPage n 8) 2)

/-- The page of the first host event copied and checked (R436 step 4); `change` is what the host makes of word 0 between the two
reads. (DEDUCED, log 81) -/
def State.takeMail (s : State) (change : Option Word) : State :=
  match s.nextMail with
  | none => s
  | some n =>
    let copy := Mem.read s.mem (mailPage n 0) 4096
    let cmd := Bits.fld (pageWord copy 1) 0 16
    if s.mailbox.isSome then s
    else
      let s := { s with hevts := s.hevts.erase n }
      let s := match change with
        | some w => s.writeAs .host (mailPage n 0) (Bits.wordLe w)
        | none => s
      let w0 := pageWord copy 0
      let again := BitVec.ofNat 64 (Mem.readNat s.mem (mailPage n 0) 8)
      if !w0.getLsbD 0 then s
      else if Bits.fld again 32 32 != Bits.fld w0 32 32 then s.finishMail n (Bits.fld again 32 32) 3 [] []
      else if !again.getLsbD 0 then s
      else if 1 ≤ cmd && cmd ≤ 7 then { s with mailbox := some (n, copy) }
      else s.finishMail n (Bits.fld w0 32 32) 4 [] []

/-- What the host has written by its HEVT write that names a page is ordered before every access of a grid that the page's command launches
(R439). -/
def State.hostReleases (s : State) (n : Nat) : State :=
  s.release (.mail n) 0 .host 4 ((s.history.filter fun w => w.agent == .host && w.runs != []).map Past.whole)

/-- HOST_EVENT (R436, R437): the host writes `input.bytes` into page `input.n`, if there are any, and HEVT with that number; with
`input.m` 1, an event that waits is served; with 2, the host has written `input.bytes` into its memory at `input.word`. `input.flag` tells
that the host changes word 0 to `input.word2` meanwhile. (DEDUCED, log 81) -/
def execHostEvent (s : State) : Out :=
  let i := s.input
  let s := if i.m = 2 then s.writeAs .host (hostKey i.word.toNat) i.bytes
    else if i.m != 0 || 8 ≤ i.n then s
    else
      let s := s.writeAs .host (mailPage i.n 0) (i.bytes.take 4096)
      let owned := s.hevts.contains i.n || s.mailbox.any fun m => m.1 = i.n
      if owned then s else { s with hevts := s.hevts ++ [i.n] }.hostReleases i.n
  .next (s.takeMail (if i.flag then some i.word2 else none))

/-- The command being served, when it is `cmd`: page and copy. -/
def State.mail (s : State) (cmd : Nat) : Option (Nat × List Byte) :=
  match s.mailbox with
  | some (n, copy) => if Bits.fld (pageWord copy 1) 0 16 = cmd && s.mailServed cmd then some (n, copy) else none
  | none => none

/-- A command that answers: STATUS, results and bulk data. (DEDUCED, log 73) -/
def State.serveMail (s : State) (cmd : Nat) (f : List Byte → State → Option (State × Nat × List (Nat × Word) × List Byte)) : State :=
  match s.mail cmd with
  | none => s
  | some (n, copy) =>
    match f copy s with
    | none => s
    | some (s, status, results, bulk) => s.finishMail n (Bits.fld (pageWord copy 0) 32 32) status results bulk

/-- A launch through the mailbox is answered with `v`: where that names a grid, what the host released comes before its accesses (R439). -/
def State.mailLaunched (s : State) (v : Word) : State :=
  match s.mailbox with
  | some (n, _) =>
    if v.getLsbD 63 then s
    else { s with released := s.released.map fun r => if r.mails n then { r with gate := .grid v.toNat } else r }
  | none => s

/-- MAILBOX_LAUNCH (R437, R439). -/
def execMailboxLaunch (s : State) : Out :=
  .next (s.serveMail 1 fun copy s =>
    let w3 := pageWord copy 3
    if Bits.fld w3 2 62 != 0 then some (s, 1, [], [])
    else
      let die := Bits.fld w3 0 2
      (s.launchFrom true die (pageWord copy 2).toNat (s.stewardUp die)).map fun r => (r.2.mailLaunched r.1, 0, [(8, r.1)], []))

/-! ### MAPHOST and UNMAP (R434, R437) -/

/-- First frame of the range for host memory (R434), and the frame after it. (DEDUCED, log 82) -/
def hostFrames : Nat × Nat := (0x850000000, 0x1000000000)

/-- A frame that no host page has: one queued for reuse (R207), else one never given. (DEDUCED, log 82) -/
def State.hostFrame (s : State) : Nat :=
  match s.reuse.find? fun f => hostFrames.1 ≤ f with
  | some f => f
  | none => hostFrames.1 + s.hostmaps.length

/-- The arguments of MAPHOST and UNMAP name a range of whole pages of an address space. (DEDUCED, log 82) -/
def rangeOk (asn base bytes : Nat) : Bool :=
  decide (asn < 256) && base % 4096 == 0 && bytes % 4096 == 0 && bytes != 0 && decide (base + bytes ≤ 2 ^ 48)

/-- Host pages mapped one after another from a device-virtual page on. (DEDUCED, log 82) -/
def State.mapHost (s : State) (asn : Byte) : Nat → Nat → Nat → State
  | 0, _, _ => s
  | n + 1, page, host =>
    let (f, s) := match s.hostmaps.lookup host with
      | some f => (f, s)
      | none =>
        let f := s.hostFrame
        (f, { s with hostmaps := (host, f) :: s.hostmaps, reuse := s.reuse.erase f })
    ((s.frameUp f).setPage
      { ref := ⟨0, asn, page⟩, big := false, state := .resident, frame := f, writable := true, cow := false, probed := none }).mapHost asn n (page + 1)
        (host + 1)

/-- A page-table entry of this package lies in part in a range of pages of an address space. -/
def Page.within (p : Page) (asn : Byte) (a n : Nat) : Bool :=
  p.ref.pkg == 0 && p.ref.asn == asn && a < p.ref.page + p.frames && p.ref.page < a + n

/-- MAPHOST (R437): a page that is mapped already is refused. (DEDUCED, log 82) -/
def execMaphost (s : State) : Out :=
  .next (s.serveMail 2 fun copy s =>
    let w (n : Nat) : Nat := (pageWord copy n).toNat
    let asn := BitVec.ofNat 8 (w 2)
    let (a, n) := (w 3 / 4096, w 5 / 4096)
    if !rangeOk (w 2) (w 3) (w 5) || w 4 % 4096 != 0 || 2 ^ 64 < w 4 + w 5 ||
        (s.pages.any fun p => p.within asn a n) then some (s, 1, [], [])
    else if hostFrames.2 < hostFrames.1 + s.hostmaps.length + n then some (s, 2, [], [])
    else some (s.mapHost asn n a (w 4 / 4096), 0, [], []))

/-- A mapping taken away: the frame of a page that is there loses a reference, and at zero is queued for reuse (R207). (DEDUCED, log 83) -/
def State.unmapPage (s : State) (p : Page) : State :=
  let s := { s with pages := s.pages.filter fun q => q.ref != p.ref }
  if p.state = .absent then s
  else
    let s := s.frameFree p.frame
    if s.reuse.contains p.frame then { s with hostmaps := s.hostmaps.filter fun h => h.2 != p.frame } else s

/-- An entry of 2 MiB of which only a part is unmapped, as 512 entries of 4 KiB. (DEDUCED, log 83) -/
def State.splitPage (s : State) (p : Page) : State :=
  let small := (List.range 512).map fun i =>
    { p with ref := { p.ref with page := p.ref.page + i }, big := false, frame := p.frame + i }
  let s := { s with pages := small ++ s.pages.filter fun q => q.ref != p.ref }
  if p.state = .absent then s
  else
    { s with frames := (small.map fun q => (q.frame, (s.frames.lookup p.frame).getD 1)) ++ s.frames.filter fun x => x.1 != p.frame }

/-- UNMAP (R437): it waits until the accesses in flight have completed with the old mapping. (DEDUCED, log 83) -/
def execUnmap (s : State) : Out :=
  .next (s.serveMail 3 fun copy s =>
    let w (n : Nat) : Nat := (pageWord copy n).toNat
    let asn := BitVec.ofNat 8 (w 2)
    let (a, n) := (w 3 / 4096, w 4 / 4096)
    if !rangeOk (w 2) (w 3) (w 4) then some (s, 1, [], [])
    else
      let cut (p : Page) : Bool := p.big && p.within asn a n && !(a ≤ p.ref.page && p.ref.page + 512 ≤ a + n)
      let s := (s.pages.filter cut).foldl State.splitPage s
      let ps := s.pages.filter fun p => p.within asn a n
      if (s.reqs.any fun r => ps.any fun p => s.onEntry r p) || (s.cmds.any fun c => c.started && c.asn == asn && ps != []) then none
      else some (ps.foldl State.unmapPage s, 0, [], []))

/-! ### ERRQ and KILL (R437, R438) -/

/-- An entry of a steward error queue as its 256 bytes (R438). -/
def ErrEntry.bytes (e : ErrEntry) : List Byte :=
  (e.body ++ List.replicate (240 - e.body.length) 0).take 240 ++
    Bits.natLe 8 (e.kind.toNat + e.die % 4 * 2 ^ 8 + e.seq % 2 ^ 32 * 2 ^ 32) ++ Bits.wordLe e.ctxid

/-- ERRQ (R437). -/
def execErrq (s : State) : Out :=
  .next (s.serveMail 4 fun copy s =>
    let mask := Bits.fld (pageWord copy 2) 0 4
    let named := (List.range 4).filter fun d => mask.testBit d
    let skipped := named.filter fun d => !s.stewardUp d
    let out := ((named.filter s.stewardUp).flatMap fun d => s.errq.filter fun e => e.die == d).take 15
    let s := { s with errq := s.errq.filter fun e => !out.contains e }
    let skip := skipped.foldl (fun a d => a + 2 ^ d) 0
    some (s, 0, [(8, BitVec.ofNat 64 out.length), (9, BitVec.ofNat 64 skip)], out.flatMap ErrEntry.bytes))

/-- A context stops as if halted (R63): one on its core sees its work through, one that is frozen or out has none. (DEDUCED, log 84) -/
def Ctx.kill (c : Ctx) : Ctx :=
  match c.run with
  | .running | .draining | .freezing => { c with run := .halting, raised := [] }
  | .frozen | .swapped => { c with run := .halted }
  | _ => c

/-- KILL (R437): a grid that is not live is refused. (DEDUCED, log 84) -/
def execKill (s : State) : Out :=
  .next (s.serveMail 5 fun copy s =>
    let g := (pageWord copy 2).toNat
    if !(s.grids.any fun x => x.id == g) then some (s, 1, [], [])
    else
      let frozen := (s.gridCtxs g).filter fun c => c.run == .frozen
      let s := frozen.foldl (fun s c => s.releasePermit c) s
      let s := s.mapAll fun c => if c.grid = g then c.kill else c
      let placed := s.teams.filter fun (t : Team) => t.grid == g && (s.gridCtxs g).any fun c => t.holds c
      let s := { s with teams := s.teams.map fun (t : Team) =>
                  if t.grid = g && !placed.contains t then { t with ended := true, resident := false } else t }
      let s := (placed.foldl (fun (s : State) (t : Team) => s.endTeam g t.num) s.settleDeps).endGrid g
      some (s, 0, [], []))

/-! ### Firmware (R437, R443, R444) -/

/-- An image is accepted (R443): signatures and header hold, and its version is not below the fused minimum. (DEDUCED, log 85)
(DEDUCED, log 86) -/
def State.imageOk (s : State) (im : List Byte) : Bool :=
  im != [] && Config.imageVerifies im && decide (s.boot.fused.toNat ≤ (Config.imageVersion im).toNat)

/-- FWSTAGE (R437): the image is what the host's memory holds at the address of word 2. (DEDUCED, log 85) (DEDUCED, log 86) -/
def execFwstage (s : State) : Out :=
  .next (s.serveMail 7 fun copy s =>
    let n := (pageWord copy 3).toNat
    let w4 := pageWord copy 4
    let im := Mem.read s.mem (hostKey (pageWord copy 2).toNat) n
    if Bits.fld w4 1 63 != 0 || 2 ^ 64 < (pageWord copy 2).toNat + n || !s.imageOk im then some (s, 1, [], [])
    else if Config.bootBytes < n then some (s, 2, [], [])
    else
      let other := !s.bootst.getLsbD 1
      let b := s.boot
      let b := if other then { b with stagedB := some im } else { b with stagedA := some im }
      let b := { b with active := other, raise := if w4.getLsbD 0 then some other else if b.raise = some other then none else b.raise }
      some ({ s with boot := b }, 0, [], []))

/-- The link ends of this package that are connected, each with whether it is external (R27, R29). (DEDUCED, log 88) -/
def State.linkEnds (s : State) : List (LinkRef × Bool) :=
  (List.range 4).flatMap fun d =>
    let n := BitVec.ofNat 8 (s.domDie d)
    let xy (dim k pkgs : Nat) : List (LinkRef × Bool) :=
      let inner := if k = 0 then 0 else 1
      (⟨n, BitVec.ofNat 3 (2 * dim + inner)⟩, false) ::
        if pkgs = 1 then [] else [(⟨n, BitVec.ofNat 3 (2 * dim + (1 - inner))⟩, true)]
    xy 0 (d % 2) s.dims.1 ++ xy 1 (d / 2 % 2) s.dims.2.1 ++
      (if s.dims.2.2 = 1 then [] else [(⟨n, 4⟩, true), (⟨n, 5⟩, true)])

/-- A package count that a domain may have (R29). (DEDUCED, log 88) -/
def dimOk (n : Nat) : Bool := n = 1 || n = 2 || n = 4

/-- Steward 0 trains the fabric: a shape that R29 does not support is refused with the fabric-shape error, and the package stands alone.
(DEDUCED, log 88) -/
def State.trainFabric (s : State) (b : BootInput) : State :=
  let ok := dimOk b.dims.1 && dimOk b.dims.2.1 && dimOk b.dims.2.2 && decide (b.coords.1 < b.dims.1) &&
    decide (b.coords.2.1 < b.dims.2.1) && decide (b.coords.2.2 < b.dims.2.2)
  let s := if ok then { s with dims := b.dims, coords := b.coords } else { s with shapeError := true }
  { s with links := s.linkEnds.map fun e =>
      Link.trained e.1 (trainedPorts ((b.ports.lookup e.1).getD 8)) (if e.2 then b.encrypted.lookup e.1 else none) }

/-- Memory that reset leaves: flash, what stands behind ports 2 and 3 and in the host, and the memory of other packages.
(DESIGN CHOICE, log 87) -/
def keepsReset (key : Nat) : Bool := (2 ^ 40 ≤ key && key < 2 ^ 48) || (2 ^ 51 ≤ key && key < 256 * 2 ^ 51) || 2 ^ 128 ≤ key

/-- RESET_BOOT (R444): the device is reset, with what `input.boot` finds; the active copy is tried first, then the other.
(DEDUCED, log 86) (DESIGN CHOICE, log 87) (DEDUCED, log 90) -/
def execResetBoot (s : State) : Out :=
  let i := s.input.boot
  let b := s.boot
  let image (copy : Bool) : List Byte := if copy then b.stagedB.getD i.imageB else b.stagedA.getD i.imageA
  let r := State.reset
  let s1 : State :=
    { r with
      agenda := s.agenda, input := s.input, fresh := s.fresh, delays := s.delays, boot := b, flashHead := s.flashHead
      flashFree := s.flashFree, poolDown := s.poolDown, mem := s.mem.filter fun c => keepsReset c.1
      poison := s.poison.filter keepsReset, pages := s.pages.filter fun p => p.ref.pkg != 0 }
  let pick : Option Bool :=
    if s.imageOk (image b.active) then some b.active else if s.imageOk (image !b.active) then some (!b.active) else none
  .next (match pick with
    | none => { s1 with bootst := 4, boot := { b with booted := [] } }
    | some c =>
      let v := Config.imageVersion (image c)
      let b := { b with active := c, booted := image c }
      let b := if b.raise = some c then { b with fused := v, raise := none } else b
      { s1 with boot := b, bootst := BitVec.ofNat 64 (v.toNat * 2 ^ 32 + c.toNat * 2 + 1) }.trainFabric i)

/-! ### Queue pairs (R441, R442) -/

/-- A queue pair changed. -/
def State.mapQp (s : State) (n : Nat) (f : QueuePair → QueuePair) : State :=
  { s with qps := s.qps.map fun q => if q.num = n then f q else q }

/-- QPNEW (R437): at most 16,384 per package (R441); the number is a free value among those not in use. (DESIGN CHOICE, log 101) -/
def execQpnew (s : State) : Out :=
  .next (s.serveMail 6 fun copy s =>
    let w (n : Nat) : Word := pageWord copy n
    if 256 ≤ (w 2).toNat || 8 ≤ (w 3).toNat then some (s, 1, [], [])
    else if 16384 ≤ s.qps.length then some (s, 2, [], [])
    else
      let (k, s) := s.takeFresh
      let used := s.qps.map QueuePair.num
      let n := firstUnused used 16384 used.length (Config.freeNat k)
      let q : QueuePair :=
        { num := n, asn := (w 2).setWidth 8, mac := w 3, peer := w 4, post := w 5, comp := w 6, served := 0, stopped := false }
      some ({ s with qps := s.qps ++ [q] }, 0, [(8, BitVec.ofNat 64 n)], []))

/-- Where an object or buffer of a queue pair lies: a basket or hamper, or a device-virtual address of its space (R441). -/
def QueuePair.place (q : QueuePair) (p : Word) : Option Place :=
  if mbzBad p then none
  else
    match spaceOf p with
    | .global => some (.virt q.asn (Bits.fld p 0 48))
    | .basket => some (.port (basketKey (Bits.fld p 51 5) (Bits.fld p 0 24)))
    | .hamper => some (.port (hamperKey (Bits.fld p 54 2) (Bits.fld p 0 26)))
    | _ => none

/-- A queue pair stops at an entry, with its record (R438 TYPE 0x05, R442). (DEDUCED, log 95) -/
def State.failQp (s : State) (q : QueuePair) (cause : Nat) : State :=
  (s.mapQp q.num fun q => { q with stopped := true }).pushErr 0 0x05 0
    (Bits.natLe 8 q.num ++ Bits.natLe 8 (q.served + 1) ++ Bits.natLe 8 cause)

/-- Where a local or a remote address of a queue pair lies: both are device-virtual in its space (R441). -/
def QueuePair.virtual (q : QueuePair) (p : Word) : Option Place :=
  if 2 ^ 48 ≤ p.toNat then none else some (.virt q.asn p.toNat)

/-- An action of a MAC at a place in memory, atomic at DOMAIN scope where `sync` tells that it is one on a sync object: the state and the
bytes, or what stops it. -/
def State.macAccess (s : State) (q : QueuePair) (p : Option Place) (a : Action) (sync : Bool := false) : Except Answer (State × List Byte) :=
  match p with
  | none => .error .faulted
  | some pl =>
    match s.answer pl a.size (match a with
      | .read _ => false
      | _ => true) with
    | .served rs =>
      let (s, bs, bad) := s.performAt { (Agent.mac q.num).origin with atomic := if sync then some 4 else none } a rs
      if bad then .error .faulted else .ok (s, bs)
    | e => .error e

/-- An entry's own work: SEND and WRITE read the local buffer, READ writes into it what the peer sent. -/
def State.qpWork (s : State) (q : QueuePair) (e : List Byte) (peer : List Byte) : Except Answer (State × List Byte) :=
  let w0 := pageWord e 0
  let n := Bits.fld w0 32 32
  if n = 0 then .ok (s, [])
  else if Bits.fld w0 0 8 = 2 then s.macAccess q (q.virtual (pageWord e 1)) (.write ((peer ++ List.replicate (n - peer.length) 0).take n))
  else s.macAccess q (q.virtual (pageWord e 1)) (.read n)

/-- The MAC has read `v` in its post object, and acquires the releases up to it as ACQ does (R219, R442). -/
def State.macAcquire (s : State) (q : QueuePair) (v : List Byte) : State :=
  match (q.place q.post).map fun p => s.answer p 8 false with
  | some (.served (r :: _)) =>
    let rs := s.released.filter fun x => x.gate == .object r.1 && x.number ≤ Bits.leNat v
    s.learn (.mac q.num) 0 (s.given none ⟨none, none⟩ rs fun _ v => some v)
  | _ => s

/-- The MAC's increment of a completion object from the value `old` on is a REL at DOMAIN scope, which orders its local writes and what it
has acquired (R211, R442). -/
def State.macRelease (s : State) (q : QueuePair) (old : List Byte) : State :=
  match (q.place q.comp).map fun p => s.answer p 8 true with
  | some (.served (r :: _)) =>
    let a : Agent := .mac q.num
    s.release (.object r.1) (Bits.leNat old + 1) a 4 (((s.history.filter fun w => w.agent == a).map Past.whole) ++ s.knownTo a)
  | _ => s

/-- QP_ENTRY_SERVICE (R442): queue pair `input.uid` serves its next entry, the 64 bytes at the hamper address `input.word`, once the
post object's number covers it; `input.bytes` is what the peer returns, `input.flag` that it reports a remote access error. (DEDUCED, log 94) -/
def execQpEntryService (s : State) : Out :=
  let i := s.input
  .next (match s.qps.find? fun q => q.num == i.uid with
    | none => s
    | some q =>
      if q.stopped then s
      else
        match s.macAccess q (q.place q.post) (.read 8) true with
        | .error .parked => s
        | .error _ => s.failQp q 1
        | .ok (s0, v) =>
          let s := s0.macAcquire q v
          if Bits.leNat v ≤ q.served then s
          else if spaceOf i.word != .hamper then s.failQp q 4
          else
            match s.macAccess q (q.place i.word) (.read 64) with
            | .error _ => s.failQp q 1
            | .ok (_, e) =>
              let w0 := pageWord e 0
              if 2 < Bits.fld w0 0 8 || Bits.fld w0 8 24 != 0 || (e.drop 32).any (· != 0) then s.failQp q 4
              else if i.flag then s.failQp q 2
              else
                match s.qpWork q e i.bytes with
                | .error .parked => s
                | .error _ => s.failQp q 1
                | .ok (s1, _) =>
                  match s1.macAccess q (q.place q.comp) (.atom .add 8 8 1 0) true with
                  | .error .parked => s
                  | .error _ => s.failQp q 1
                  | .ok (s2, v) => (s2.macRelease q v).mapQp q.num fun q => { q with served := q.served + 1 })

/-- ROCE_PACKET_ARRIVAL (R441): a peer's SEND or RDMA WRITE of at most an MTU is performed; a READ takes bytes away only.
(DESIGN CHOICE, log 148) -/
def execRocePacketArrival (s : State) : Out :=
  .next (match s.qps.find? fun q => q.num == s.input.uid with
    | none => s
    | some q =>
      match s.input.packet with
      | .read _ _ => s
      | .write a bs =>
        if q.stopped || bs = [] || 4096 < bs.length then s
        else
          match s.macAccess q (q.virtual a) (.write bs) with
          | .ok (s, _) => s
          | .error _ => s)

/-- QP_TRANSPORT_RETRIES_EXHAUSTED (R438): queue pair `input.uid` stops with CAUSE 3. -/
def execQpTransportRetriesExhausted (s : State) : Out :=
  .next (match s.qps.find? fun q => q.num == s.input.uid with
    | none => s
    | some q => if q.stopped then s else s.failQp q 3)

/-- POOL_DEVICE_FAILURE (R434): `input.m` bytes of pool memory from the device-physical address `input.n` on are gone.
(DESIGN CHOICE, log 108) -/
def execPoolDeviceFailure (s : State) : Out :=
  if 0x50000000000 ≤ s.input.n then .next { s with poolDown := (s.input.n, s.input.m) :: s.poolDown } else .next s

/-! ### SPDM (R445): the request is `input.bytes`; `spdm` holds the response -/

/-- A response given. -/
def State.spdmAnswer (s : State) (bs : List Byte) : State := { s with spdm := bs }

/-- A signed response: the message, its ECDSA signature, and the LMS signature over the same hash as OpaqueData. -/
def State.spdmSigned (s : State) (body : List Byte) : State :=
  let m := s.input.bytes ++ body
  s.spdmAnswer (body ++ Config.ecdsaSign m ++ Config.lmsSign m)

/-- GET_VERSION (R445): SPDM 1.3, as the version number 1.3 in the high byte of a 16-bit entry. (PRESUMED, log 96) -/
def execGetVersion (s : State) : Out := .next (s.spdmAnswer [0x00, 0x13])

/-- GET_CAPABILITIES (R445). -/
def execGetCapabilities (s : State) : Out := .next (s.spdmAnswer Config.capabilities)

/-- NEGOTIATE_ALGORITHMS (R445): ECDSA P-384 with SHA-384, as SPDM numbers them: base asymmetric bit 7, base hash bit 1. (PRESUMED, log 96) -/
def execNegotiateAlgorithms (s : State) : Out := .next (s.spdmAnswer (Bits.natLe 4 0x80 ++ Bits.natLe 4 0x02))

/-- GET_DIGESTS (R445). -/
def execGetDigests (s : State) : Out := .next (s.spdmAnswer Config.certDigests)

/-- GET_CERTIFICATE (R445). -/
def execGetCertificate (s : State) : Out := .next (s.spdmAnswer Config.certChain)

/-- CHALLENGE (R445). -/
def execChallenge (s : State) : Out := .next (s.spdmSigned Config.certDigests)

/-- The measurement of an index (R445): the ROM, the two parts of the image that was booted, the fuses, RESMAP. (DESIGN CHOICE, log 148) -/
def State.measurementOf (s : State) (n : Nat) : List Byte :=
  match n with
  | 1 => Config.measure Config.rom
  | 2 => Config.measure (Config.securityPart s.boot.booted)
  | 3 => Config.measure (Config.stewardPart s.boot.booted)
  | 4 => Config.measure (Bits.natLe 4 s.boot.fused.toNat)
  | 5 => Bits.wordLe s.resmap
  | _ => []

/-- GET_MEASUREMENTS (R445): the index `input.n`, all of them for 255, their number for 0. (PRESUMED, log 96) (DESIGN CHOICE, log 148) -/
def execGetMeasurements (s : State) : Out :=
  .next (s.spdmSigned (match s.input.n with
    | 0 => [5]
    | 255 => (List.range 5).flatMap fun i => s.measurementOf (i + 1)
    | n => s.measurementOf n))

/-! ### Soft errors (R446 to R449) -/

/-- Errors counted against a core (R449). -/
def State.countCore (s : State) (core : Nat) : State :=
  if 512 ≤ core then s
  else { s with coreErrors := (core, (s.coreErrors.lookup core).getD 0 + 1) :: s.coreErrors.filter fun x => x.1 != core }

/-- The word that a soft error strikes is poisoned (R446): a granule of memory, of a register, of the replay buffer. (DEDUCED, log 98) -/
def State.spoil (s : State) (x : Upset) : State :=
  match x with
  | .mem key => s.poisonAt key
  | .reg uid r w => s.mapAll fun c => if c.uid = uid then c.soilReg r w else c
  | .replay uid id w => s.mapAll fun c =>
      if c.uid = uid then
        { c with replay := c.replay.map fun e => if e.id = id && !e.poison.contains w then { e with poison := w :: e.poison } else e }
      else c

/-- An error at a site found: corrected, or its granule poisoned. (DEDUCED, log 98) -/
def State.softError (s : State) (x : ErrorSite) (lost : Bool) : State :=
  let s := s.countCore x.core
  if 6 ≤ x.kind.toNat then s
  else if lost then (s.spoil x.upset).countUncorr x.die.toNat x.kind.toNat else s.countCorr x.die.toNat x.kind.toNat

/-- SOFT_ERROR (R446): an error at `input.site`, uncorrectable with `input.flag`. (DEDUCED, log 98) -/
def execSoftError (s : State) : Out := .next (s.softError s.input.site s.input.flag)

/-- SCRUB (R446): a scrub finds `input.n` correctable errors at `input.site`, and with `input.flag` one that is not. (DEDUCED, log 98) -/
def execScrub (s : State) : Out :=
  let s1 := (List.range s.input.n).foldl (fun s _ => s.softError s.input.site false) s
  .next (if s.input.flag then s1.softError s.input.site true else s1)

/-- RESOURCE_WITHHOLD (R449): the cluster of core `input.n`, whose errors exceed the threshold, takes no team; those resident there
are swapped out. (DESIGN CHOICE, log 100) -/
def execResourceWithhold (s : State) : Out :=
  let cl := s.input.n / 16
  if s.stewardUp (cl / 8) && cl < 32 && !s.resmap.getLsbD cl && Config.errorThreshold < (s.coreErrors.lookup s.input.n).getD 0 then
    let s := { s with
      resmap := s.resmap ||| BitVec.ofNat 64 (2 ^ cl)
      promised := s.promised.filter fun p => !(p.2.2.any fun c => c / 16 == cl) }.setEvent 16
    let there := s.teams.filter fun t => t.resident && (s.members t.grid t.num).any fun c => c.core / 16 == cl
    .next (there.foldl (fun s t => s.swapOut t.grid t.num) s)
  else .next s

end Sys2Proof.Machine
end

