-- ==== Sys2Proof/Machine/Scalar.lean ====
section
/-! DEFINITION. The S slot's NOP, integer, floating-point, address and predicate operations (R131, R145 to R163). -/

namespace Sys2Proof.Machine

/-- NOP (R131): the slot is idle until a bundle names it again; nothing is written. -/
def execNop (_cls : Class) (s : State) : Out := .next s

/-! ### Integer operations (R146, R147) -/

/-- ADD. -/
def execAdd (f : RI) (s : State) : Out := .next (intBinary f 1 (fun _ x y => x + y) s)
/-- SUB. -/
def execSub (f : RI) (s : State) : Out := .next (intBinary f 1 (fun _ x y => x - y) s)
/-- MUL. -/
def execMul (f : RI) (s : State) : Out := .next (intBinary f 3 (fun _ x y => x * y) s)
/-- MULH. -/
def execMulh (f : RI) (s : State) : Out :=
  .next (intBinary f 3 (fun t x y => (x * y).fdiv (2 ^ intWidth t : Nat)) s)
/-- MULHB. -/
def execMulhb (f : RI) (s : State) : Out :=
  .next (intBinary f 3 (fun t x y => (x * y).fdiv (2 ^ intWidth t : Nat)) s)

/-- Quotient and remainder of R148. -/
def divRem (t : Nat) (x y : Int) : Int × Int :=
  if y = 0 then (-1, x)
  else if intSigned t && x = -(2 ^ (intWidth t - 1) : Nat) && y = -1 then (x, 0)
  else (x.tdiv y, x - x.tdiv y * y)

/-- DIV (R148). -/
def execDiv (f : RI) (s : State) : Out := .next (intBinary f 20 (fun t x y => (divRem t x y).1) s)
/-- DIVB (R148). -/
def execDivb (f : RI) (s : State) : Out := .next (intBinary f 20 (fun t x y => (divRem t x y).1) s)
/-- REM (R148). -/
def execRem (f : RI) (s : State) : Out := .next (intBinary f 20 (fun t x y => (divRem t x y).2) s)
/-- REMB (R148). -/
def execRemb (f : RI) (s : State) : Out := .next (intBinary f 20 (fun t x y => (divRem t x y).2) s)
/-- NEG. -/
def execNeg (f : RI) (s : State) : Out := .next (intUnary f 1 (fun _ x => -x) s)
/-- ABS. -/
def execAbs (f : RI) (s : State) : Out := .next (intUnary f 1 (fun _ x => (x.natAbs : Int)) s)
/-- MIN. -/
def execMin (f : RI) (s : State) : Out := .next (intBinary f 1 (fun _ x y => if x < y then x else y) s)
/-- MAX. -/
def execMax (f : RI) (s : State) : Out := .next (intBinary f 1 (fun _ x y => if x < y then y else x) s)
/-- MINB. -/
def execMinb (f : RI) (s : State) : Out := .next (intBinary f 1 (fun _ x y => if x < y then x else y) s)
/-- MAXB. -/
def execMaxb (f : RI) (s : State) : Out := .next (intBinary f 1 (fun _ x y => if x < y then y else x) s)
/-- AND. -/
def execAnd (f : RI) (s : State) : Out := .next (intBinary f 1 (fun t x y => ((pat t x &&& pat t y : Nat) : Int)) s)
/-- OR. -/
def execOr (f : RI) (s : State) : Out := .next (intBinary f 1 (fun t x y => ((pat t x ||| pat t y : Nat) : Int)) s)
/-- XOR. -/
def execXor (f : RI) (s : State) : Out := .next (intBinary f 1 (fun t x y => ((pat t x ^^^ pat t y : Nat) : Int)) s)
/-- ANDN. -/
def execAndn (f : RI) (s : State) : Out :=
  .next (intBinary f 1 (fun t x y => ((pat t x &&& (2 ^ intWidth t - 1 - pat t y) : Nat) : Int)) s)

/-- SHL of R149; a count of 64 or more shifts every bit out, or exceeds every range. -/
def shlInt (x : Int) (c : Nat) : Int := x * (2 ^ (min c 64) : Nat)
/-- SHR of R149. -/
def shrInt (t : Nat) (x : Int) (c : Nat) : Int := ((pat t x >>> (min c 64) : Nat) : Int)
/-- SRA of R149. -/
def sraInt (t : Nat) (x : Int) (c : Nat) : Int := (Bits.sInt (intWidth t) (pat t x)).fdiv (2 ^ (min c 64) : Nat)
/-- ROT of R149. -/
def rotInt (t : Nat) (x : Int) (c : Nat) : Int :=
  let n := intWidth t
  let p := pat t x
  ((p <<< (c % n) ||| p >>> (n - c % n) : Nat) : Int)

/-- SHL (R149). -/
def execShl (f : RI) (s : State) : Out := .next (intShift f (fun _ x c => shlInt x c) s)
/-- SHR (R149). -/
def execShr (f : RI) (s : State) : Out := .next (intShift f shrInt s)
/-- SRA (R149). -/
def execSra (f : RI) (s : State) : Out := .next (intShift f sraInt s)
/-- ROT (R149). -/
def execRot (f : RI) (s : State) : Out := .next (intShift f rotInt s)
/-- CLZ. -/
def execClz (f : RI) (s : State) : Out :=
  .next (intUnary f 1 (fun t x => ((Bits.leadZeros (intWidth t) (pat t x) : Nat) : Int)) s)
/-- CTZ. -/
def execCtz (f : RI) (s : State) : Out :=
  .next (intUnary f 1 (fun t x => ((Bits.lowBit (intWidth t) (pat t x) : Nat) : Int)) s)
/-- POPC. -/
def execPopc (f : RI) (s : State) : Out :=
  .next (intUnary f 1 (fun t x => ((Bits.popCount (intWidth t) (pat t x) : Nat) : Int)) s)
/-- BSWAP. -/
def execBswap (f : RI) (s : State) : Out :=
  .next (intUnary f 1 (fun t x => ((Bits.leNat (Bits.natLe (intWidth t / 8) (pat t x)).reverse : Nat) : Int)) s)

/-- BFX of R150: `len` bits of `x` from `pos`; bits above 63 are the sign for .i64 and zero for .b64. -/
def bfx (t : Nat) (x : Word) (pos len : Nat) : Word :=
  let n := min len 64
  if n = 0 then 0
  else
    let f := ((srcInt t x.toNat).fdiv (2 ^ pos : Nat) % (2 ^ n : Nat)).toNat
    if intSigned t then BitVec.ofInt 64 (Bits.sInt n f) else BitVec.ofNat 64 f

/-- BFI of R150. -/
def bfi (old x : Word) (pos len : Nat) : Word :=
  let n := min (min len 64) (64 - pos)
  Bits.setFld old pos n x.toNat

/-- EXT of R150. -/
def ext (t : Nat) (x : Word) (n : Nat) : Word :=
  if intSigned t then BitVec.ofInt 64 (Bits.sInt (n + 1) x.toNat) else BitVec.ofNat 64 (x.toNat % 2 ^ (n + 1))

/-- A field operation: `r` of the type, the old destination, the source, pos and len (R150). -/
def fieldOp (f : RI) (r : Nat → Word → Word → Nat → Nat → Word) (s : State) : State :=
  match f with
  | .r f =>
    s.guarded f.pred f.pneg fun s =>
      s.postReg 1 ⟨.s, f.d.toNat⟩ (r f.dt.toNat (s.rs f.d.toNat) (s.rs f.a.toNat) (Bits.fld (s.rs f.b.toNat) 0 6)
        (Bits.fld (s.rs f.c.toNat) 0 7))
  | .i f =>
    s.guarded f.pred f.pneg fun s =>
      s.postReg 1 ⟨.s, f.d.toNat⟩ (r f.dt.toNat (s.rs f.d.toNat) (s.rs f.a.toNat) (Bits.fld f.imm 0 6) (Bits.fld f.imm 8 7))

/-- BFX (R150). -/
def execBfx (f : RI) (s : State) : Out := .next (fieldOp f (fun t _ x pos len => bfx t x pos len) s)
/-- BFI (R150). -/
def execBfi (f : RI) (s : State) : Out := .next (fieldOp f (fun _ old x pos len => bfi old x pos len) s)
/-- EXT (R150). -/
def execExt (f : RI) (s : State) : Out := .next (fieldOp f (fun t _ x pos _ => ext t x pos) s)

/-- SEL (R151). -/
def execSel (f : RI) (s : State) : Out :=
  .next <| match f with
  | .r f =>
    let t := f.dt.toNat
    s.guarded f.pred f.pneg fun s =>
      let x := if (s.rp f.c.toNat).getLsbD 0 then s.rs f.a.toNat else s.rs f.b.toNat
      s.postReg 1 ⟨.s, f.d.toNat⟩ (fitInt false t (srcInt t x.toNat))
  | .i f =>
    let t := f.dt.toNat
    s.guarded f.pred f.pneg fun s =>
      let r := if (s.rp (Bits.fld f.imm 27 5)).getLsbD 0 then srcInt t (s.rs f.a.toNat).toNat
        else immInt t 27 (Bits.fld f.imm 0 27)
      s.postReg 1 ⟨.s, f.d.toNat⟩ (fitInt false t r)

/-- MOV. -/
def execMov (f : RI) (s : State) : Out := .next (intUnary f 1 (fun _ x => x) s)

/-- MOVI, immediate form (R152). -/
def execMovi (f : IForm) (s : State) : Out :=
  let t := f.dt.toNat
  .next (s.guarded f.pred f.pneg fun s => s.postReg 1 ⟨.s, f.d.toNat⟩ (fitInt false t (immInt t 32 f.imm.toNat)))

/-- MOVI, long form (R152). -/
def execMoviLong (f : LForm) (s : State) : Out :=
  .next (s.guarded f.pred f.pneg fun s => s.postReg 1 ⟨.s, f.d.toNat⟩ (f.imm.signExtend 64))

/-- MOVH (R152). -/
def execMovh (f : IForm) (s : State) : Out :=
  .next (s.guarded f.pred f.pneg fun s =>
    s.postReg 1 ⟨.s, f.d.toNat⟩ (BitVec.ofNat 64 (f.imm.toNat * 2 ^ 32 + Bits.fld (s.rs f.d.toNat) 0 32)))

/-- CMP (R153). -/
def execCmp (f : RI) (s : State) : Out :=
  .next <| match f with
  | .r f =>
    let t := f.dt.toNat
    s.guarded f.pred f.pneg fun s =>
      s.postPred 1 f.d.toNat (intCond (Bits.fld f.sub 0 3) (srcInt t (s.rs f.a.toNat).toNat) (srcInt t (s.rs f.b.toNat).toNat))
  | .i f =>
    let t := f.dt.toNat
    s.guarded f.pred f.pneg fun s =>
      s.postPred 1 f.d.toNat (intCond (Bits.fld f.imm 29 3) (srcInt t (s.rs f.a.toNat).toNat) (immInt t 29 (Bits.fld f.imm 0 29)))

/-- TST (R153). -/
def execTst (f : RI) (s : State) : Out :=
  .next <| match f with
  | .r f =>
    let t := f.dt.toNat
    s.guarded f.pred f.pneg fun s =>
      let x := pat t (srcInt t (s.rs f.a.toNat).toNat) &&& pat t (srcInt t (s.rs f.b.toNat).toNat)
      s.postPred 1 f.d.toNat ((x != 0) != f.sub.getLsbD 0)
  | .i f =>
    let t := f.dt.toNat
    s.guarded f.pred f.pneg fun s =>
      let x := pat t (srcInt t (s.rs f.a.toNat).toNat) &&& pat t (immInt t 32 f.imm.toNat)
      s.postPred 1 f.d.toNat (x != 0)

/-! ### Scalar floating point (R154 to R158) -/

/-- FADD. -/
def execFadd (f : RI) (s : State) : Out :=
  .next (floatBinary f (fun t md x y => rounded t md (Fp.add md (Fp.decode t x) (Fp.decode t y))) s)
/-- FSUB. -/
def execFsub (f : RI) (s : State) : Out :=
  .next (floatBinary f (fun t md x y => rounded t md (Fp.add md (Fp.decode t x) (Fp.decode t y).neg)) s)
/-- FMUL. -/
def execFmul (f : RI) (s : State) : Out :=
  .next (floatBinary f (fun t md x y => rounded t md (Fp.mul (Fp.decode t x) (Fp.decode t y))) s)
/-- FDIV. -/
def execFdiv (f : RI) (s : State) : Out :=
  .next (floatBinary f (fun t md x y => rounded t md (Fp.div (Fp.decode t x) (Fp.decode t y))) s)
/-- FSQRT. -/
def execFsqrt (f : RI) (s : State) : Out := .next (floatUnary f (fun t md x => rounded t md (Fp.sqrt (Fp.decode t x))) s)
/-- FMIN. -/
def execFmin (f : RI) (s : State) : Out := .next (floatBinary f (fun t _ x y => fpMinMax false t x y) s)
/-- FMAX. -/
def execFmax (f : RI) (s : State) : Out := .next (floatBinary f (fun t _ x y => fpMinMax true t x y) s)

/-- FFMA: a × b + c; in the immediate form a × IMM + d (R155). -/
def execFfma (f : RI) (s : State) : Out :=
  .next <| match f with
  | .r f =>
    let t := Fp.ofCode f.dt.toNat
    s.guarded f.pred f.pneg fun s =>
      let md := Fp.Mode.ofCode f.rm
      let (v, fl) := rounded t md (Fp.fma md (floatOf f.dt.toNat (s.rs f.a.toNat)) (floatOf f.dt.toNat (s.rs f.b.toNat))
        (floatOf f.dt.toNat (s.rs f.c.toNat)))
      s.postFp 4 ⟨.s, f.d.toNat⟩ (BitVec.ofNat 64 v) fl
  | .i f =>
    let t := Fp.ofCode f.dt.toNat
    s.guarded f.pred f.pneg fun s =>
      let (v, fl) := rounded t .rne (Fp.fma .rne (floatOf f.dt.toNat (s.rs f.a.toNat)) (floatOf f.dt.toNat (f.imm.setWidth 64))
        (floatOf f.dt.toNat (s.rs f.d.toNat)))
      s.postFp 4 ⟨.s, f.d.toNat⟩ (BitVec.ofNat 64 v) fl

/-- FCMP; the immediate form tests a < IMM (R156). -/
def execFcmp (f : RI) (s : State) : Out :=
  .next <| match f with
  | .r f =>
    s.guarded f.pred f.pneg fun s =>
      let a := floatOf f.dt.toNat (s.rs f.a.toNat)
      let b := floatOf f.dt.toNat (s.rs f.b.toNat)
      s.postFp 4 ⟨.p, f.d.toNat⟩ (Bits.allOnes (fpCond (Bits.fld f.sub 0 3) a b)) (Fp.flagIf (a.isSig || b.isSig) Fp.iv)
  | .i f =>
    s.guarded f.pred f.pneg fun s =>
      let a := floatOf f.dt.toNat (s.rs f.a.toNat)
      let b := floatOf f.dt.toNat (f.imm.setWidth 64)
      s.postFp 4 ⟨.p, f.d.toNat⟩ (Bits.allOnes (fpCond 2 a b)) (Fp.flagIf (a.isSig || b.isSig) Fp.iv)

/-- FCVT (R157); .rsto draws from RSEEDS, element 0 (R43). -/
def execFcvt (f : RI) (s : State) : Out :=
  .next <| match f with
  | .r f =>
    s.guarded f.pred f.pneg fun s =>
      let st := f.st.toNat
      let x := s.rs f.a.toNat
      let v := if 9 ≤ st then floatOf st x else Fp.ofInt (srcInt st x.toNat)
      let md := Fp.Mode.ofCode f.rm
      let seed := Fp.advance (s.rcr 0x00D)
      let s := if md = .rsto then s.mapCtx fun c => { c with rseeds := c.deviceSets 0x00D (BitVec.allOnes 64) c.rseeds seed } else s
      let (w, fl) := convertTo f.dt.toNat md f.sat (Fp.rnd seed 0) v
      s.postFp 4 ⟨.s, f.d.toNat⟩ w fl
  | .i f =>
    s.guarded f.pred f.pneg fun s =>
      let (w, fl) := convertTo f.dt.toNat .rne false 0 (Fp.decode Fp.f32 f.imm.toNat)
      s.postFp 4 ⟨.s, f.d.toNat⟩ w fl

/-- The class bit of a pattern (R158). -/
def classBit (t : Fp.Fmt) (x : Nat) : Nat :=
  match Fp.decode t x with
  | .nan sig => if sig then 8 else 9
  | .inf n => if n then 0 else 7
  | .fin n m _ =>
    if m = 0 then (if n then 3 else 4)
    else if m < 2 ^ t.frac then (if n then 2 else 5) else (if n then 1 else 6)

/-- FCLASS (R158). -/
def execFclass (f : RI) (s : State) : Out := .next (floatUnary f (fun t _ x => (2 ^ classBit t x, 0)) s)

/-! ### Addresses and spaces (R159 to R162) -/

/-- LEA (R159). -/
def execLea (f : MForm) (s : State) : Out :=
  let ea := s.eaStd f 1
  .next (s.memForm f ea fun s => s.postReg 1 ⟨.a, f.d.toNat⟩ ea)

/-- The second operand of an address operation: s[B], or the immediate sign-extended (R159). -/
def addrOp (f : RI) (r : Word → Word → Word) (s : State) : State :=
  match f with
  | .r f => s.guarded f.pred f.pneg fun s => s.postReg 1 ⟨.a, f.d.toNat⟩ (r (s.ra f.a.toNat) (s.rs f.b.toNat))
  | .i f => s.guarded f.pred f.pneg fun s => s.postReg 1 ⟨.a, f.d.toNat⟩ (r (s.ra f.a.toNat) (f.imm.signExtend 64))

/-- ADDA (R159). -/
def execAdda (f : RI) (s : State) : Out := .next (addrOp f (fun x y => x + y) s)
/-- SUBA (R159). -/
def execSuba (f : RI) (s : State) : Out := .next (addrOp f (fun x y => x - y) s)

/-- The classes of a pointer as a mask (R160). -/
def classesOf (core : Nat) (p : Word) : Nat :=
  match spaceOf p with
  | .global => 1
  | .pocket => 2 + (if pocketCore core p = core then 0x80 else 0)
  | .basket => 4
  | .hamper => 8
  | .remote => 0x10
  | .control => 0x20
  | .hole => 0x40

/-- SPTST (R160). -/
def execSptst (f : RI) (s : State) : Out :=
  .next <| match f with
  | .r f => s.guarded f.pred f.pneg fun s =>
    s.postPred 1 f.d.toNat (classesOf s.ctx.core (s.ra f.a.toNat) &&& Bits.fld f.sub 0 8 != 0)
  | .i f => s.guarded f.pred f.pneg fun s =>
    s.postPred 1 f.d.toNat (classesOf s.ctx.core (s.ra f.a.toNat) &&& Bits.fld f.imm 0 8 != 0)

/-- The hole pointer of a failed cast (R161). -/
def holePtr : Word := 0xFF00000000000000

/-- SPCST's result (R161). -/
def castPtr (core ddie code : Nat) (p : Word) : Word :=
  match code with
  | 0 =>
    if spaceOf p != .pocket then holePtr
    else if Bits.fld p 47 9 = 0x1FF then Bits.setFld p 47 9 core else p
  | 1 =>
    if spaceOf p = .pocket && (Bits.fld p 47 9 = 0x1FF || Bits.fld p 47 9 = core) then Bits.setFld p 47 9 0x1FF else holePtr
  | 2 =>
    if Bits.fld p 48 16 = 0 then BitVec.ofNat 64 (0x84 * 2 ^ 56 + ddie * 2 ^ 48 + Bits.fld p 0 48) else holePtr
  | _ =>
    if spaceOf p = .remote && Bits.fld p 48 8 = ddie then BitVec.ofNat 64 (Bits.fld p 0 48) else holePtr

/-- SPCST (R161). -/
def execSpcst (f : RI) (s : State) : Out :=
  .next <| match f with
  | .r f => s.guarded f.pred f.pneg fun s =>
    s.postReg 1 ⟨.a, f.d.toNat⟩ (castPtr s.ctx.core s.ddie (Bits.fld f.sub 0 2) (s.ra f.a.toNat))
  | .i f => s.guarded f.pred f.pneg fun s =>
    s.postReg 1 ⟨.a, f.d.toNat⟩ (castPtr s.ctx.core s.ddie (Bits.fld f.imm 0 2) (s.ra f.a.toNat))

/-- AWIN's result (R162). -/
def awin (ws : List WinEntry) (p : Word) : Word :=
  if Bits.fld p 48 16 != 0 then 0
  else
    match (ws.zipIdx).find? fun w => (findWindow [w.1] p.toNat).isSome with
    | none => 0
    | some (w, i) =>
      let rest := (w.vbase.toNat + w.npage.toNat) * 4096 - p.toNat
      BitVec.ofNat 64 (2 ^ 63 + (i % 64) * 2 ^ 48 + w.perm.toNat * 2 ^ 40 + w.scope.toNat * 2 ^ 36 + w.tier.toNat * 2 ^ 32 +
        min rest 0xFFFFFFFF)

/-- AWIN (R162). -/
def execAwin (f : RI) (s : State) : Out :=
  .next <| match f with
  | .r f => s.guarded f.pred f.pneg fun s =>
    s.postReg 1 ⟨.s, f.d.toNat⟩ (awin s.ctx.windows (s.ra f.a.toNat + s.rs f.b.toNat))
  | .i f => s.guarded f.pred f.pneg fun s =>
    s.postReg 1 ⟨.s, f.d.toNat⟩ (awin s.ctx.windows (s.ra f.a.toNat + f.imm.signExtend 64))

/-! ### Predicates (R163) -/

/-- A predicate operation of two sources. -/
def predBinary (f : RForm) (r : Word → Word → Word) (s : State) : State :=
  s.guarded f.pred f.pneg fun s => s.postReg 1 ⟨.p, f.d.toNat⟩ (r (s.rp f.a.toNat) (s.rp f.b.toNat))

/-- A predicate operation of one source. -/
def predUnary (f : RForm) (r : Word → Word) (s : State) : State :=
  s.guarded f.pred f.pneg fun s => s.postReg 1 ⟨.p, f.d.toNat⟩ (r (s.rp f.a.toNat))

/-- PAND. -/
def execPand (f : RForm) (s : State) : Out := .next (predBinary f (fun a b => a &&& b) s)
/-- POR. -/
def execPor (f : RForm) (s : State) : Out := .next (predBinary f (fun a b => a ||| b) s)
/-- PXOR. -/
def execPxor (f : RForm) (s : State) : Out := .next (predBinary f (fun a b => a ^^^ b) s)
/-- PNOT. -/
def execPnot (f : RForm) (s : State) : Out := .next (predUnary f (fun a => ~~~a) s)
/-- PMOV. -/
def execPmov (f : RForm) (s : State) : Out := .next (predUnary f (fun a => a) s)
/-- PSET of n low bits. -/
def execPset (f : RForm) (s : State) : Out :=
  .next (s.guarded f.pred f.pneg fun s => s.postReg 1 ⟨.p, f.d.toNat⟩ (BitVec.ofNat 64 (2 ^ Bits.fld f.sub 0 7 - 1)))
/-- PSET from an s register. -/
def execPsetReg (f : RForm) (s : State) : Out :=
  .next (s.guarded f.pred f.pneg fun s => s.postReg 1 ⟨.p, f.d.toNat⟩ (s.rs f.a.toNat))
/-- PCNT. -/
def execPcnt (f : RForm) (s : State) : Out :=
  .next (s.guarded f.pred f.pneg fun s =>
    s.postReg 1 ⟨.s, f.d.toNat⟩ (BitVec.ofNat 64 (Bits.popCount 64 (s.rp f.a.toNat).toNat)))
/-- PFIRST. -/
def execPfirst (f : RForm) (s : State) : Out :=
  .next (s.guarded f.pred f.pneg fun s =>
    s.postReg 1 ⟨.s, f.d.toNat⟩ (BitVec.ofNat 64 (Bits.lowBit 64 (s.rp f.a.toNat).toNat)))
/-- PANY. -/
def execPany (f : RForm) (s : State) : Out := .next (predUnary f (fun a => Bits.allOnes (a != 0)) s)

end Sys2Proof.Machine
end

