-- ==== Sys2Proof/Machine/Dispatch.lean ====
section
/-! DEFINITION. The meaning of every instruction: one arm per constructor, each one call. -/

namespace Sys2Proof.Machine

/-- The effect of an instruction: an operation at its issue in the executing slot, or an event of the machine. -/
def exec (i : Instr) (s : State) : Host.Outcome State Fault Refusal :=
  match i with
  | .nop cls => Sys2Proof.Machine.execNop cls s
  | .add f => Sys2Proof.Machine.execAdd f s
  | .sub f => Sys2Proof.Machine.execSub f s
  | .mul f => Sys2Proof.Machine.execMul f s
  | .mulh f => Sys2Proof.Machine.execMulh f s
  | .mulhb f => Sys2Proof.Machine.execMulhb f s
  | .div f => Sys2Proof.Machine.execDiv f s
  | .divb f => Sys2Proof.Machine.execDivb f s
  | .rem f => Sys2Proof.Machine.execRem f s
  | .remb f => Sys2Proof.Machine.execRemb f s
  | .neg f => Sys2Proof.Machine.execNeg f s
  | .abs f => Sys2Proof.Machine.execAbs f s
  | .min f => Sys2Proof.Machine.execMin f s
  | .max f => Sys2Proof.Machine.execMax f s
  | .minb f => Sys2Proof.Machine.execMinb f s
  | .maxb f => Sys2Proof.Machine.execMaxb f s
  | .and f => Sys2Proof.Machine.execAnd f s
  | .or f => Sys2Proof.Machine.execOr f s
  | .xor f => Sys2Proof.Machine.execXor f s
  | .andn f => Sys2Proof.Machine.execAndn f s
  | .shl f => Sys2Proof.Machine.execShl f s
  | .shr f => Sys2Proof.Machine.execShr f s
  | .sra f => Sys2Proof.Machine.execSra f s
  | .rot f => Sys2Proof.Machine.execRot f s
  | .clz f => Sys2Proof.Machine.execClz f s
  | .ctz f => Sys2Proof.Machine.execCtz f s
  | .popc f => Sys2Proof.Machine.execPopc f s
  | .bswap f => Sys2Proof.Machine.execBswap f s
  | .bfx f => Sys2Proof.Machine.execBfx f s
  | .bfi f => Sys2Proof.Machine.execBfi f s
  | .ext f => Sys2Proof.Machine.execExt f s
  | .sel f => Sys2Proof.Machine.execSel f s
  | .mov f => Sys2Proof.Machine.execMov f s
  | .movi f => Sys2Proof.Machine.execMovi f s
  | .moviLong f => Sys2Proof.Machine.execMoviLong f s
  | .movh f => Sys2Proof.Machine.execMovh f s
  | .cmp f => Sys2Proof.Machine.execCmp f s
  | .tst f => Sys2Proof.Machine.execTst f s
  | .lea f => Sys2Proof.Machine.execLea f s
  | .adda f => Sys2Proof.Machine.execAdda f s
  | .suba f => Sys2Proof.Machine.execSuba f s
  | .sptst f => Sys2Proof.Machine.execSptst f s
  | .spcst f => Sys2Proof.Machine.execSpcst f s
  | .awin f => Sys2Proof.Machine.execAwin f s
  | .pand f => Sys2Proof.Machine.execPand f s
  | .por f => Sys2Proof.Machine.execPor f s
  | .pxor f => Sys2Proof.Machine.execPxor f s
  | .pnot f => Sys2Proof.Machine.execPnot f s
  | .pmov f => Sys2Proof.Machine.execPmov f s
  | .pset f => Sys2Proof.Machine.execPset f s
  | .psetReg f => Sys2Proof.Machine.execPsetReg f s
  | .pcnt f => Sys2Proof.Machine.execPcnt f s
  | .pfirst f => Sys2Proof.Machine.execPfirst f s
  | .pany f => Sys2Proof.Machine.execPany f s
  | .br f => Sys2Proof.Machine.execBr f s
  | .brc f => Sys2Proof.Machine.execBrc f s
  | .bri f => Sys2Proof.Machine.execBri f s
  | .call f => Sys2Proof.Machine.execCall f s
  | .calli f => Sys2Proof.Machine.execCalli f s
  | .ret f => Sys2Proof.Machine.execRet f s
  | .loop f => Sys2Proof.Machine.execLoop f s
  | .lbrk f => Sys2Proof.Machine.execLbrk f s
  | .lcnt f => Sys2Proof.Machine.execLcnt f s
  | .halt f => Sys2Proof.Machine.execHalt f s
  | .fadd f => Sys2Proof.Machine.execFadd f s
  | .fsub f => Sys2Proof.Machine.execFsub f s
  | .fmul f => Sys2Proof.Machine.execFmul f s
  | .ffma f => Sys2Proof.Machine.execFfma f s
  | .fdiv f => Sys2Proof.Machine.execFdiv f s
  | .fsqrt f => Sys2Proof.Machine.execFsqrt f s
  | .fmin f => Sys2Proof.Machine.execFmin f s
  | .fmax f => Sys2Proof.Machine.execFmax f s
  | .fcmp f => Sys2Proof.Machine.execFcmp f s
  | .fcvt f => Sys2Proof.Machine.execFcvt f s
  | .fclass f => Sys2Proof.Machine.execFclass f s
  | .ld f => Sys2Proof.Machine.execLd f s
  | .st f => Sys2Proof.Machine.execSt f s
  | .ldl f => Sys2Proof.Machine.execLdl f s
  | .vldl f => Sys2Proof.Machine.execVldl f s
  | .prb f => Sys2Proof.Machine.execPrb f s
  | .atom f => Sys2Proof.Machine.execAtom f s
  | .atomf f => Sys2Proof.Machine.execAtomf f s
  | .cas f => Sys2Proof.Machine.execCas f s
  | .amaxr f => Sys2Proof.Machine.execAmaxr f s
  | .bind f => Sys2Proof.Machine.execBind f s
  | .unbnd f => Sys2Proof.Machine.execUnbnd f s
  | .acq f => Sys2Proof.Machine.execAcq f s
  | .rel f => Sys2Proof.Machine.execRel f s
  | .fence f => Sys2Proof.Machine.execFence f s
  | .waittl f => Sys2Proof.Machine.execWaittl f s
  | .waittlArm f => Sys2Proof.Machine.execWaittlArm f s
  | .tlrd f => Sys2Proof.Machine.execTlrd f s
  | .tlrdClear f => Sys2Proof.Machine.execTlrdClear f s
  | .bar f => Sys2Proof.Machine.execBar f s
  | .arv f => Sys2Proof.Machine.execArv f s
  | .arvGated f => Sys2Proof.Machine.execArvGated f s
  | .waitb f => Sys2Proof.Machine.execWaitb f s
  | .waitbArm f => Sys2Proof.Machine.execWaitbArm f s
  | .sstep f => Sys2Proof.Machine.execSstep f s
  | .rstk f => Sys2Proof.Machine.execRstk f s
  | .rstd f => Sys2Proof.Machine.execRstd f s
  | .ratom f => Sys2Proof.Machine.execRatom f s
  | .tkwt f => Sys2Proof.Machine.execTkwt f s
  | .tkrd f => Sys2Proof.Machine.execTkrd f s
  | .tkclr f => Sys2Proof.Machine.execTkclr f s
  | .trap f => Sys2Proof.Machine.execTrap f s
  | .eretResume f => Sys2Proof.Machine.execEretResume f s
  | .eretSkip f => Sys2Proof.Machine.execEretSkip f s
  | .eretRedirect f => Sys2Proof.Machine.execEretRedirect f s
  | .uiret f => Sys2Proof.Machine.execUiret f s
  | .crd f => Sys2Proof.Machine.execCrd f s
  | .cwr f => Sys2Proof.Machine.execCwr f s
  | .yield f => Sys2Proof.Machine.execYield f s
  | .wfe f => Sys2Proof.Machine.execWfe f s
  | .dbrk f => Sys2Proof.Machine.execDbrk f s
  | .launch f => Sys2Proof.Machine.execLaunch f s
  | .prmt f => Sys2Proof.Machine.execPrmt f s
  | .save f => Sys2Proof.Machine.execSave f s
  | .ccmt f => Sys2Proof.Machine.execCcmt f s
  | .cckp f => Sys2Proof.Machine.execCckp f s
  | .crpl f => Sys2Proof.Machine.execCrpl f s
  | .cfrec f => Sys2Proof.Machine.execCfrec f s
  | .cres f => Sys2Proof.Machine.execCres f s
  | .cmap f => Sys2Proof.Machine.execCmap f s
  | .cref f => Sys2Proof.Machine.execCref f s
  | .cpin f => Sys2Proof.Machine.execCpin f s
  | .cseq f => Sys2Proof.Machine.execCseq f s
  | .ctrn f => Sys2Proof.Machine.execCtrn f s
  | .vadd f => Sys2Proof.Machine.execVadd f s
  | .vsub f => Sys2Proof.Machine.execVsub f s
  | .vmul f => Sys2Proof.Machine.execVmul f s
  | .vfma f => Sys2Proof.Machine.execVfma f s
  | .vfms f => Sys2Proof.Machine.execVfms f s
  | .vfnma f => Sys2Proof.Machine.execVfnma f s
  | .vmin f => Sys2Proof.Machine.execVmin f s
  | .vmax f => Sys2Proof.Machine.execVmax f s
  | .vabs f => Sys2Proof.Machine.execVabs f s
  | .vneg f => Sys2Proof.Machine.execVneg f s
  | .vcps f => Sys2Proof.Machine.execVcps f s
  | .vrcps f => Sys2Proof.Machine.execVrcps f s
  | .vrsqs f => Sys2Proof.Machine.execVrsqs f s
  | .vexp2s f => Sys2Proof.Machine.execVexp2s f s
  | .vlog2s f => Sys2Proof.Machine.execVlog2s f s
  | .vcvt f => Sys2Proof.Machine.execVcvt f s
  | .vpack f => Sys2Proof.Machine.execVpack f s
  | .vunpk f => Sys2Proof.Machine.execVunpk f s
  | .vcmp f => Sys2Proof.Machine.execVcmp f s
  | .vsel f => Sys2Proof.Machine.execVsel f s
  | .vmov f => Sys2Proof.Machine.execVmov f s
  | .vbcst f => Sys2Proof.Machine.execVbcst f s
  | .viota f => Sys2Proof.Machine.execViota f s
  | .vshf f => Sys2Proof.Machine.execVshf f s
  | .vperm f => Sys2Proof.Machine.execVperm f s
  | .vrot f => Sys2Proof.Machine.execVrot f s
  | .vred f => Sys2Proof.Machine.execVred f s
  | .vscan f => Sys2Proof.Machine.execVscan f s
  | .viadd f => Sys2Proof.Machine.execViadd f s
  | .visub f => Sys2Proof.Machine.execVisub f s
  | .vimul f => Sys2Proof.Machine.execVimul f s
  | .vand f => Sys2Proof.Machine.execVand f s
  | .vor f => Sys2Proof.Machine.execVor f s
  | .vxor f => Sys2Proof.Machine.execVxor f s
  | .vshl f => Sys2Proof.Machine.execVshl f s
  | .vshr f => Sys2Proof.Machine.execVshr f s
  | .vsra f => Sys2Proof.Machine.execVsra f s
  | .vclz f => Sys2Proof.Machine.execVclz f s
  | .vpopc f => Sys2Proof.Machine.execVpopc f s
  | .vord f => Sys2Proof.Machine.execVord f s
  | .vdig f => Sys2Proof.Machine.execVdig f s
  | .vamax f => Sys2Proof.Machine.execVamax f s
  | .vqnt f => Sys2Proof.Machine.execVqnt f s
  | .vdqnt f => Sys2Proof.Machine.execVdqnt f s
  | .vld f => Sys2Proof.Machine.execVld f s
  | .vst f => Sys2Proof.Machine.execVst f s
  | .vldg f => Sys2Proof.Machine.execVldg f s
  | .vsts f => Sys2Proof.Machine.execVsts f s
  | .vhadd f => Sys2Proof.Machine.execVhadd f s
  | .go2d f => Sys2Proof.Machine.execGo2d f s
  | .go3d f => Sys2Proof.Machine.execGo3d f s
  | .ginc f => Sys2Proof.Machine.execGinc f s
  | .gins f => Sys2Proof.Machine.execGins f s
  | .gseg f => Sys2Proof.Machine.execGseg f s
  | .tclm f => Sys2Proof.Machine.execTclm f s
  | .trls f => Sys2Proof.Machine.execTrls f s
  | .tld f => Sys2Proof.Machine.execTld f s
  | .mma f => Sys2Proof.Machine.execMma f s
  | .mmas f => Sys2Proof.Machine.execMmas f s
  | .mzro f => Sys2Proof.Machine.execMzro f s
  | .mst f => Sys2Proof.Machine.execMst f s
  | .macc f => Sys2Proof.Machine.execMacc f s
  | .mtrn f => Sys2Proof.Machine.execMtrn f s
  | .bdset f => Sys2Proof.Machine.execBdset f s
  | .cord f => Sys2Proof.Machine.execCord f s
  | .tcon f => Sys2Proof.Machine.execTcon f s
  | .tchn f => Sys2Proof.Machine.execTchn f s
  | .tbnd f => Sys2Proof.Machine.execTbnd f s
  | .catt f => Sys2Proof.Machine.execCatt f s
  | .capp f => Sys2Proof.Machine.execCapp f s
  | .cstb f => Sys2Proof.Machine.execCstb f s
  | .qld f => Sys2Proof.Machine.execQld f s
  | .qset f => Sys2Proof.Machine.execQset f s
  | .cpy f => Sys2Proof.Machine.execCpy f s
  | .tmov f => Sys2Proof.Machine.execTmov f s
  | .gsx f => Sys2Proof.Machine.execGsx f s
  | .fstt f => Sys2Proof.Machine.execFstt f s
  | .fstl f => Sys2Proof.Machine.execFstl f s
  | .xlnk f => Sys2Proof.Machine.execXlnk f s
  | .wstr f => Sys2Proof.Machine.execWstr f s
  | .tful f => Sys2Proof.Machine.execTful f s
  | .temp f => Sys2Proof.Machine.execTemp f s
  | .resultWriteback k => Sys2Proof.Machine.execResultWriteback k s
  | .landingDataArrival resp => Sys2Proof.Machine.execLandingDataArrival resp s
  | .commandStart uid cmd => Sys2Proof.Machine.execCommandStart uid cmd s
  | .commandCompletion uid cmd => Sys2Proof.Machine.execCommandCompletion uid cmd s
  | .chunkRetry uid cmd => Sys2Proof.Machine.execChunkRetry uid cmd s
  | .commandFailure uid cmd cause pos => Sys2Proof.Machine.execCommandFailure uid cmd cause pos s
  | .geometryResultReady entry => Sys2Proof.Machine.execGeometryResultReady entry s
  | .sstepCompletion level => Sys2Proof.Machine.execSstepCompletion level s
  | .preemptionRequest uid frz => Sys2Proof.Machine.execPreemptionRequest uid frz s
  | .resume uid intact => Sys2Proof.Machine.execResume uid intact s
  | .quantumExpiry die => Sys2Proof.Machine.execQuantumExpiry die s
  | .teamPlacement grid team => Sys2Proof.Machine.execTeamPlacement grid team s
  | .gridEligible grid => Sys2Proof.Machine.execGridEligible grid s
  | .memorySideAccess req => Sys2Proof.Machine.execMemorySideAccess req s
  | .remoteRequestArrival req => Sys2Proof.Machine.execRemoteRequestArrival req s
  | .ratomHoldExpiry req => Sys2Proof.Machine.execRatomHoldExpiry req s
  | .remoteResponseArrival resp => Sys2Proof.Machine.execRemoteResponseArrival resp s
  | .rnrRetry req => Sys2Proof.Machine.execRnrRetry req s
  | .rnrRetryExhausted req => Sys2Proof.Machine.execRnrRetryExhausted req s
  | .ticketLanding die ticket => Sys2Proof.Machine.execTicketLanding die ticket s
  | .ticketReleaseArrival die origin ticket => Sys2Proof.Machine.execTicketReleaseArrival die origin ticket s
  | .ticketCancel die origin ticket => Sys2Proof.Machine.execTicketCancel die origin ticket s
  | .turnstileExpiry req => Sys2Proof.Machine.execTurnstileExpiry req s
  | .controlRegisterWrite num v => Sys2Proof.Machine.execControlRegisterWrite num v s
  | .fpstWrite v => Sys2Proof.Machine.execFpstWrite v s
  | .rseedWrite which v => Sys2Proof.Machine.execRseedWrite which v s
  | .preqWrite v => Sys2Proof.Machine.execPreqWrite v s
  | .wtbaseWrite v => Sys2Proof.Machine.execWtbaseWrite v s
  | .uistatWrite v => Sys2Proof.Machine.execUistatWrite v s
  | .memoryPortAccess req => Sys2Proof.Machine.execMemoryPortAccess req s
  | .bundleIssue => Sys2Proof.Machine.execBundleIssue s
  | .completionInterruptDelivery => Sys2Proof.Machine.execCompletionInterruptDelivery s
  | .arrayOperationComplete => Sys2Proof.Machine.execArrayOperationComplete s
  | .tchnComplete => Sys2Proof.Machine.execTchnComplete s
  | .trapEntry => Sys2Proof.Machine.execTrapEntry s
  | .contextErrorStop => Sys2Proof.Machine.execContextErrorStop s
  | .contextHaltComplete => Sys2Proof.Machine.execContextHaltComplete s
  | .drainTimeout => Sys2Proof.Machine.execDrainTimeout s
  | .freeze => Sys2Proof.Machine.execFreeze s
  | .stewardLivenessRequest => Sys2Proof.Machine.execStewardLivenessRequest s
  | .stewardFailure => Sys2Proof.Machine.execStewardFailure s
  | .windowTableAck => Sys2Proof.Machine.execWindowTableAck s
  | .parkedAccessReplay => Sys2Proof.Machine.execParkedAccessReplay s
  | .pageMigration => Sys2Proof.Machine.execPageMigration s
  | .copyOnWriteBreak => Sys2Proof.Machine.execCopyOnWriteBreak s
  | .deadlineMiss => Sys2Proof.Machine.execDeadlineMiss s
  | .scrub => Sys2Proof.Machine.execScrub s
  | .resourceWithhold => Sys2Proof.Machine.execResourceWithhold s
  | .flitReceive => Sys2Proof.Machine.execFlitReceive s
  | .replayRequest => Sys2Proof.Machine.execReplayRequest s
  | .creditReturn => Sys2Proof.Machine.execCreditReturn s
  | .linkStateChange => Sys2Proof.Machine.execLinkStateChange s
  | .routeSwitch => Sys2Proof.Machine.execRouteSwitch s
  | .frameReceive => Sys2Proof.Machine.execFrameReceive s
  | .keyLoad => Sys2Proof.Machine.execKeyLoad s
  | .keySwitch => Sys2Proof.Machine.execKeySwitch s
  | .keyRetire => Sys2Proof.Machine.execKeyRetire s
  | .keyExhaustion => Sys2Proof.Machine.execKeyExhaustion s
  | .governorAnswer => Sys2Proof.Machine.execGovernorAnswer s
  | .throttleChange => Sys2Proof.Machine.execThrottleChange s
  | .wfeTimeout => Sys2Proof.Machine.execWfeTimeout s
  | .qpEntryService => Sys2Proof.Machine.execQpEntryService s
  | .poolDeviceFailure => Sys2Proof.Machine.execPoolDeviceFailure s
  | .resetBoot => Sys2Proof.Machine.execResetBoot s
  | .hostEvent => Sys2Proof.Machine.execHostEvent s
  | .mailboxLaunch => Sys2Proof.Machine.execMailboxLaunch s
  | .maphost => Sys2Proof.Machine.execMaphost s
  | .unmap => Sys2Proof.Machine.execUnmap s
  | .errq => Sys2Proof.Machine.execErrq s
  | .kill => Sys2Proof.Machine.execKill s
  | .qpnew => Sys2Proof.Machine.execQpnew s
  | .fwstage => Sys2Proof.Machine.execFwstage s
  | .evstatWrite => Sys2Proof.Machine.execEvstatWrite s
  | .errorCounterRead => Sys2Proof.Machine.execErrorCounterRead s
  | .wakeWordStore => Sys2Proof.Machine.execWakeWordStore s
  | .controlRegisterAccess => Sys2Proof.Machine.execControlRegisterAccess s
  | .getVersion => Sys2Proof.Machine.execGetVersion s
  | .getCapabilities => Sys2Proof.Machine.execGetCapabilities s
  | .negotiateAlgorithms => Sys2Proof.Machine.execNegotiateAlgorithms s
  | .getDigests => Sys2Proof.Machine.execGetDigests s
  | .getCertificate => Sys2Proof.Machine.execGetCertificate s
  | .challenge => Sys2Proof.Machine.execChallenge s
  | .getMeasurements => Sys2Proof.Machine.execGetMeasurements s
  | .stewardAnswersAgain => Sys2Proof.Machine.execStewardAnswersAgain s
  | .softError => Sys2Proof.Machine.execSoftError s
  | .corePowerGate => Sys2Proof.Machine.execCorePowerGate s
  | .coreWake => Sys2Proof.Machine.execCoreWake s
  | .debuggerAttach => Sys2Proof.Machine.execDebuggerAttach s
  | .evenWrite => Sys2Proof.Machine.execEvenWrite s
  | .rocePacketArrival => Sys2Proof.Machine.execRocePacketArrival s
  | .qpTransportRetriesExhausted => Sys2Proof.Machine.execQpTransportRetriesExhausted s
  | .flashEraseBlockReclaim => Sys2Proof.Machine.execFlashEraseBlockReclaim s

end Sys2Proof.Machine
end

