-- ==== Sys2Proof/Machine/Cycle.lean ====
section
/-! DEFINITION. The machine in time: what falls due in a cycle (R74 to R83), the events that are due, and the slots' issues with
SYNC, slip and the acquire barriers (R70 to R73, R214, R450). `exec` says what each operation and each event does. -/

namespace Sys2Proof.Machine

/-- Each of a list of contexts in turn brought into the focus for a change. (DESIGN CHOICE, log 5) -/
def State.onEach (s : State) (uids : List Nat) (f : State → State) : State := uids.foldl (fun s u => s.onCtx u f) s

/-! ### Time (R74) -/

/-- Results of array operations and of an MST fall due with the clock while their slot's time stands (R316). -/
def State.arrayFlights (s : State) : State :=
  let s := s.mapCtx fun c => c.mapSlot 3 fun x =>
    { x with flights := x.flights.map fun f => if f.array then { f with due := f.due - 1 } else f }
  ((s.ctx.slot 3).flights.filter fun f => f.array && f.due ≤ (s.ctx.slot 3).time).foldl (fun s f => s.writeFlight 3 f) s

/-- Flags of the present cycle join FPST (R46). -/
def Ctx.joinFlags (c : Ctx) : Ctx := { c with fpst := c.fpst ||| c.fpnow.setWidth 64, fpnow := 0 }

/-- A geometry unit one cycle on. -/
def Landing.geoTick (e : Landing) : Landing := { e with geo := e.geo.map fun j => { j with left := j.left - 1 } }

/-- The array, the drain and TLD ports one cycle on. -/
def Ctx.unitsTick (c : Ctx) : Ctx :=
  { c with array := c.array.map fun (j : ArrayJob) => { j with age := j.age + 1 }, drain := c.drain - 1, tldPort := c.tldPort - 1 }

/-- The geometry units one cycle on, but for a context that is stopped. -/
def Ctx.geoTick (c : Ctx) : Ctx :=
  if c.run.moving then
    { c with
      geoBusy := (c.geoBusy.1 - 1, c.geoBusy.2 - 1), landings := c.landings.map Landing.geoTick
      replay := c.replay.map Landing.geoTick }
  else c

/-- Landing entries whose geometry result has been decided. -/
def Ctx.geoReady (c : Ctx) : List Landing := (c.landings ++ c.replay).filter fun e => e.dst.isSome && e.geo.any fun j => j.left = 0

/-- The geometry units of the focused context go on, and their results that are decided now are there when results due now are written (R392). -/
def State.tickGeo (s : State) : State :=
  let s := s.mapCtx Ctx.geoTick
  if s.ctx.run.moving then s.ctx.geoReady.foldl (fun s e => (execGeometryResultReady e.id s).state s) s else s

/-- A cycle of the focused context begins: what its slots' times have reached is written, its units go on, and a pending request to
stop is taken up. -/
def State.beginCycle (s : State) : State :=
  let s := s.tickGeo
  let s := if s.ctx.run.writes then (List.finRange 7).foldl (fun s k => (execResultWriteback k s).state s) s else s.arrayFlights
  let s := (s.mapCtx Ctx.unitsTick).enterDue.tickChain
  s.mapCtx Ctx.takePreq

/-! ### Releases that wait (R270, R278, R279) -/

/-- The phase that an arrival was made in, given to its landing entry. -/
def State.answerArrival (s : State) (land : Option Nat) (phase : Nat) : State :=
  match land with
  | some id => s.deliver id (Bits.natLe 8 phase)
  | none => s

/-- One release of the focused context: sent, or made, once its writes are performed and the RELs before it (R270); gone once its increment
is. (DEDUCED, log 115) -/
def State.settleRelease (s : State) (r : Release) : State :=
  let rest (s : State) : State := s.mapCtx fun c => { c with releases := c.releases.erase r }
  match r with
  | .rel idx q p =>
    if q.id = 0 then
      if s.writesOpen idx || ((s.ctx.releases.takeWhile fun x => x != r).any fun x => match x with
          | .rel _ _ _ => true
          | .arv _ _ _ _ _ => false) then s
      else
        let s := { s with fresh := s.fresh + 1 }
        let id := s.fresh
        (s.mapCtx fun c => { c with releases := c.releases.map fun x => if x = r then .rel idx { q with id := id } p else x }).send q
    else if s.reqs.any fun x => x.id == q.id then s
    else rest s
  | .arv idx b count land p =>
    if s.writesOpen idx then s
    else
      let (ph, s) := (rest s).arrive b count idx p.known none
      s.answerArrival land ph

/-- Gated arrivals, tile bits, releases, arms and tray slots of the focused context; the first two whether it runs or not (R81, R279). -/
def State.settleOwn (s : State) : State :=
  let s := s.settleTiles.when (s.ctx.run != .empty) State.settleGated
  let s := s.when s.ctx.run.writes fun s => s.ctx.releases.foldl (fun s r => s.settleRelease r) s
  if s.ctx.run.moving then s.settleArms.settleTray else s

/-- Held stores that no ticket holds any longer are performed (R414). -/
def State.settleHeld (s : State) : State :=
  s.reqs.foldl (fun s r =>
    match s.req r.id with
    | some q =>
      (match q.state with
        | .held _ => if q.carried = [] && !s.heldByTarget q then s.atMemory q else s
        | _ => s)
    | none => s) s

/-- What needs no event of its own. -/
def State.housekeep (s : State) (uids : List Nat) : State :=
  ((s.onEach uids State.settleOwn).settleDescs.settleSources.settleHeld).acceptMsgs.settleDeps

/-! ### Events that are due -/

/-- An event that is due: the context in whose focus it happens, the event, and what it takes. -/
structure Due where
  uid : Nat
  what : Instr
  inp : Input
  deriving DecidableEq, Repr

/-- An event without further input. -/
def Due.plain (uid : Nat) (i : Instr) : Due := ⟨uid, i, Input.zero⟩

/-- An event when a condition holds. -/
def dueIf (b : Bool) (d : Due) : Option Due := if b then some d else none

/-- An answer on its way back. -/
def Resp.due (r : Resp) : Due :=
  .plain r.uid (if r.err.isSome || r.ratom then .remoteResponseArrival r.id else .landingDataArrival r.id)

/-- The event by which control space serves a request (R440). -/
def controlEvent (r : Req) (off : Nat) : Due :=
  let at' (i : Instr) : Due := ⟨r.uid, i, { Input.zero with flag := true, n := r.id }⟩
  let o := off % 2 ^ 48
  let meets (lo hi : Nat) : Bool := o < hi && lo < o + r.size
  match off / 2 ^ 48, r.isWrite with
  | 0x00, true => if meets 0 8 then at' .evstatWrite else if meets 8 16 then at' .evenWrite else at' (.memoryPortAccess r.id)
  | 0x00, false => if meets 0x100 0x200 then at' .errorCounterRead else at' (.memoryPortAccess r.id)
  | 0x20, true => at' .wakeWordStore
  | 0x30, _ => at' .controlRegisterAccess
  | _, _ => at' (.memoryPortAccess r.id)

/-- A request at its place, at its source again, or too long in a turnstile. -/
def State.reqDue (s : State) (r : Req) : Option Due :=
  match r.state with
  | .sent _ =>
    if !s.arrived r then none
    else
      (match r.place with
        | .port _ => some (.plain r.uid (.memoryPortAccess r.id))
        | .virt _ _ => some (.plain r.uid (.memorySideAccess r.id))
        | .remote _ _ _ => dueIf (!s.heldByTarget r) (.plain r.uid (.remoteRequestArrival r.id))
        | .control off => some (controlEvent r off))
  | .retry t _ =>
    if s.rnrOver r then some (.plain r.uid (.rnrRetryExhausted r.id))
    else dueIf (t ≤ s.clock && !s.draining.contains (r.src, (r.target).getD r.src)) (.plain r.uid (.rnrRetry r.id))
  | .held _ => dueIf (s.heldTooLong r) (.plain r.uid (.turnstileExpiry r.id))
  | .merging t => dueIf (t ≤ s.clock) (.plain r.uid (.ratomHoldExpiry r.id))
  | .source | .parked _ _ | .merged _ => none

/-- A message between dies that has come. -/
def State.msgDue (s : State) (m : TicketMsg) : Option Due :=
  dueIf (s.msgThere m) (.plain 0 (match m.kind with
    | 0 => .ticketLanding (BitVec.ofNat 8 m.die) m.ticket
    | 1 => .ticketReleaseArrival (BitVec.ofNat 8 m.die) (BitVec.ofNat 8 m.origin) m.ticket
    | _ => .ticketCancel (BitVec.ofNat 8 m.die) (BitVec.ofNat 8 m.origin) m.ticket))

/-- A command that starts, completes or fails. -/
def State.cmdDue (s : State) (c : Cmd) : Option Due :=
  if !c.started then dueIf (s.startDue c) (.plain c.uid (.commandStart c.uid c.id))
  else if c.left != 0 || s.laneWaits c then none
  else if (s.runCmd c none).stop.isNone then some (.plain c.uid (.commandCompletion c.uid c.id))
  else (s.cmdFault c).map fun f => .plain c.uid (.commandFailure c.uid c.id f.1 f.2)

/-- The event raised by the focused context that is taken now. -/
def Ctx.raisedDue (c : Ctx) : Option Due :=
  match c.taken with
  | none => none
  | some r =>
    if c.handles r then dueIf (c.run.moving && c.trapReady r) (.plain c.uid .trapEntry)
    else dueIf ((c.run.moving || c.run == .freezing) && (r.late || c.trapReady r)) (.plain c.uid .contextErrorStop)

/-- A completion interrupt of the focused context is delivered now (R282, R283). -/
def State.deliveryNow (s : State) : Bool :=
  let c := s.ctx
  c.deliveryDue && c.run == .running && c.raised.isEmpty && (if c.atBoundary then s.endBundle.isSome else s.waitsAt.isSome)

/-- What the wait of the focused context's S slot comes to. -/
def State.waitDue (s : State) : Option Due :=
  let c := s.ctx
  if !c.run.moving then none
  else
    match (c.slot 0).wait with
    | some (.sstep l (some k)) => dueIf (s.sstepDone l.toNat k) (.plain c.uid (.sstepCompletion l))
    | some (.wfe _ (some 0)) => some (.plain c.uid .wfeTimeout)
    | some (.wtbase v false) => dueIf (s.wtReady v) (.plain c.uid (.wtbaseWrite v))
    | _ => none

/-- The next event of the focused context. (DEDUCED, log 7) -/
def State.ctxDue (s : State) : Option Due :=
  let c := s.ctx
  let ev (b : Bool) (i : Instr) : Option Due := dueIf b (.plain c.uid i)
  [c.raisedDue,
    ev (c.array.any fun j => j.total ≤ j.age) .arrayOperationComplete,
    ev (c.chain.any fun x => x.left = 0 && (x.steps[x.next]?).isSome) .tchnComplete,
    c.geoReady.head?.bind fun e => ev c.run.moving (.geometryResultReady e.id),
    s.waitDue,
    ev s.deliveryNow .completionInterruptDelivery,
    ev (c.run == .draining && 20 * s.usCycles c.die ≤ c.drainFor) .drainTimeout,
    ev s.freezable .freeze,
    ev (c.ending && s.drained) .contextHaltComplete].findSome? id

/-- What the launch units do of themselves (R20, R329, R330, R422, R424). (DEDUCED, log 7) -/
def State.launchDue (s : State) : Option Due :=
  let ack : Option Due := s.wtUpdate.bind fun w => (w.2.2.head?).map fun u => ⟨u, .windowTableAck, { Input.zero with uid := u }⟩
  let grid : Option Due :=
    (s.grids.find? fun g => !g.eligible && g.deps.all fun d => s.depState d.2.1 d.2.2.1 d.2.2.2 == .met).map fun g =>
      .plain 0 (.gridEligible g.id)
  let quantum : Option Due :=
    ((List.range 4).find? fun d => (s.quantum[d]?).getD 0 + 2000 * s.usCycles d ≤ s.clock).map fun d =>
      .plain 0 (.quantumExpiry (BitVec.ofNat 2 d))
  let table : Option Due :=
    (s.wtQueue.head?).bind fun q => dueIf ((s.refocus q.1).wtReady q.2) (.plain q.1 (.wtbaseWrite q.2))
  let wake : Option Due := s.wakeDue.map fun n => ⟨0, .coreWake, { Input.zero with n := n }⟩
  let steward : Option Due := (List.range 4).findSome? fun d =>
    if s.livenessDue d then some ⟨0, .stewardLivenessRequest, { Input.zero with die := d, flag := !(s.steward d).silent }⟩
    else dueIf (s.stewardLate d) ⟨0, .stewardFailure, { Input.zero with die := d }⟩
  [ack, wake, table, grid, quantum, steward].findSome? id

/-- The next event that is due. (DEDUCED, log 7) -/
def State.nextDue (s : State) (uids : List Nat) : Option Due :=
  [(s.resps.find? s.answered).map Resp.due, s.reqs.findSome? s.reqDue, s.ticketMsgs.findSome? s.msgDue, s.cmds.findSome? s.cmdDue,
    uids.findSome? fun u => (s.refocus u).ctxDue, s.launchDue].findSome? id

/-- An event happens. (DEDUCED, log 7) -/
def State.happen (s : State) (d : Due) : State :=
  let here := s.ctx.uid
  let t := { s.refocus d.uid with input := d.inp }
  let t := (Out.state (exec d.what t) t).refocus here
  { t with input := s.input }

/-- Events happen until none is due, at most `n` of them in one cycle. (DESIGN CHOICE, log 6) -/
def State.settle (uids : List Nat) : Nat → State → State
  | 0, s => s
  | n + 1, s =>
    let s := s.housekeep uids
    match s.nextDue uids with
    | none => s
    | some d => (s.happen d).settle uids n

/-! ### Slots (R70 to R73, R214) -/

/-- Issue numbers at and beyond which no slot consumes an issue, while an event is raised (R315, R142). -/
def Ctx.bound (c : Ctx) : Option Nat :=
  (chosen (c.raised.filter fun r => !r.late)).map fun r => if r.cls == 0x01 || c.pipe.count ≤ r.idx then r.idx else r.idx + 1

/-- A slot may consume an issue: it is not held, stopped or stalled after a transfer, and no event raised keeps it back. -/
def Ctx.mayGo (c : Ctx) (k : Slot) : Bool :=
  let x := c.slot k
  !x.held && !x.stopped && x.cool = 0 && (c.run == .running || c.run == .draining) && (c.bound).all fun b => x.pos < b

/-- An operation that accesses memory (R214). (DEDUCED, log 23) -/
def accesses (i : Instr) : Bool :=
  match i with
  | .lea _ => false
  | .catt _ | .capp _ | .cstb _ | .ccmt _ | .cckp _ | .crpl _ | .cfrec _ | .cres _ | .cmap _ | .cref _ | .cpin _ | .cseq _ | .ctrn _
  | .tcon _ | .tchn _ => true
  | _ => memoryForm i || cmdOp i != 0

/-- The barrier keeps slot `k` from issue `i`: from the first issue after its bundle, and from accesses in what follows (R214).
(DEDUCED, log 23) -/
def Ctx.barred (c : Ctx) (k : Slot) (i : Issue) : Bool :=
  k != 0 && c.barrierIssue.any fun b => b.start < i.start &&
    ((c.pipe.queue.all fun j => j.start ≤ b.start || i.idx ≤ j.idx) || (i.ops.getD k.val none).any accesses)

/-- The slots in the order in which a cycle runs them, S last. (DESIGN CHOICE, log 5) (DEDUCED, log 25) -/
def slotOrder : List Slot := [1, 2, 3, 4, 5, 6, 0]

/-- The slots in the order in which they act when they consume an issue together: S first when it accesses memory, so that what the
others read at issue comes after it (R213); else last, as it may leave the sequencer. (DEDUCED, log 25) -/
def Issue.order (i : Issue) : List Slot :=
  if (i.ops.getD 0 none).any fun o => memoryForm o && (reach o).isSome then [0, 1, 2, 3, 4, 5, 6] else slotOrder

/-- The slots that consume issue `i` together with slot `k`: those that SYNC names with it, unless one of them is beyond, as after
a trap (R71, R315). (DEDUCED, log 24) -/
def Ctx.together (c : Ctx) (i : Issue) (k : Slot) : List Slot :=
  let ms := i.order.filter fun m => i.sync.getLsbD m.val
  if ms.contains k && !(ms.any fun m => i.idx < (c.slot m).pos) then ms else [k]

/-- A wait of the executing slot looked at again. -/
def State.poll (s : State) (op : Instr) : Wait → State
  | .acq id p ea n d scope => s.pollAcq id p ea n d scope
  | .waittl tc n => s.pollWaittl tc n
  | .bar b count d phase => s.pollBar b count d phase
  | .waitb b p => s.pollWaitb b p
  | .sstep level k => s.pollSstep level k
  | .fence scope => s.pollFence scope
  | .tkwt hs => s.pollTkwt hs
  | .wfe d left => s.pollWfe d left
  | .launch a d released => s.pollLaunch a d released
  | .prmt d cls _ => s.pollPrmt d cls
  | .save _ _ _ => s.pollSave
  | .prb ea => s.pollPrb ea
  | .wtbase _ _ => s
  | .tclm d => s.pollTclm d
  | .context ready catt rnr => s.pollContext op ready catt rnr

/-- An operation reads or writes a pending register (R80). -/
def Ctx.meetsPending (c : Ctx) (op : Instr) : Bool :=
  let rs := c.pendingRegs
  rs != [] && ((Legality.reads op ++ Legality.writes op).any fun r => rs.contains r)

/-- Slot `k` issues its operation of issue `i`, or goes on in it: `now.stalled` tells that it did neither. (DEDUCED, log 9) -/
def State.attempt (s : State) (k : Slot) (i : Issue) : State :=
  let s := s.enterIssue k i
  let x := s.slot
  if x.wait.isNone && s.ctx.mustStand k then s.stall
  else if x.skip then s
  else
    match i.ops.getD k.val none with
    | none => s
    | some op =>
      match x.wait with
      | some w => s.poll op w
      | none => if s.ctx.meetsPending op then s.stall else Out.state (exec op s) s

/-- Slot `k` waits in the operation it attempted. -/
def State.waitsIn (s : State) (k : Slot) : Bool := !s.ctx.now.moved && (s.ctx.slot k).wait.isSome

/-- Slot `k` has consumed issue `i` (R70), which may hold a SYNC (R215). -/
def Ctx.consume (c : Ctx) (k : Slot) (i : Issue) : Ctx :=
  let c := c.mapSlot k fun x => { x with pos := x.pos + 1, time := x.time + 1, cap := none, skip := false }
  let c := if i.sync = 0 || c.syncs.any fun y => y.2 = i.idx then c else { c with syncs := (i.sync, i.idx) :: c.syncs }
  if k = 0 && i.idx + 1 = c.pipe.count then { c with pipe := { c.pipe with blocked := false } } else c

/-- An illegal encoding found in issue `i`, the last dispatched: the issue is not made, and no slot waits in it (R142). (DEDUCED, log 27) -/
def State.undispatch (s : State) (i : Issue) (r : Raised) : State :=
  s.mapCtx fun c =>
    { c with
      raised := c.raised ++ [r]
      pipe := { c.pipe with
        slots := c.pipe.slots.map fun x => if x.pos = i.idx then { x with wait := none } else x
        pc := i.addr, mpc := i.mpc, rep := i.rep, mpc0 := i.mpc0, count := i.idx, start := i.start, ended := none, blocked := false
        redirect := none, opening := none, queue := c.pipe.queue.filter fun j => j.idx < i.idx, sticky := i.stickyBefore
        lp := i.lp } }

/-- The illegal encoding that slot `k` raised as it executed (R144). (DEDUCED, log 27) -/
def State.illegalAt (s : State) (k : Slot) : Option Raised :=
  if (s.ctx.slot k).stopped && !s.ctx.now.moved then (s.ctx.raised.getLast?).filter fun r => r.cls == 0x01 else none

/-- The issue's S operation is found illegal, if at all, only when its wait is over: a CRPL (R142, R375). (DEDUCED, log 27) -/
def Issue.lateCheck (i : Issue) : Bool :=
  match i.ops.getD 0 none with
  | some (.crpl _) => true
  | _ => false

/-- Slots that are to consume issue `i` together, each tried alone (R71): they may when none of them stalls. An illegal encoding that
one finds undoes the dispatch before any has acted; a CRPL is waited for first (R142). (DEDUCED, log 27) -/
def State.tryGroup (i : Issue) : List Slot → State → State × Bool
  | [], s => (s, true)
  | m :: ms, s =>
    let t := s.attempt m i
    match t.illegalAt m with
    | some r => (s.undispatch i r, false)
    | none =>
      if t.ctx.now.stalled then (s, false)
      else if i.lateCheck && m = 0 && t.waitsIn m then (t, false)
      else State.tryGroup i ms s

/-- The slots of a group, S first. -/
def sFirst (ms : List Slot) : List Slot := (ms.filter fun m => m = 0) ++ ms.filter fun m => m != 0

/-- The slots of a context in a cycle: the machine, the slots that have consumed an issue, and whether S has returned to another
sequencer state. -/
structure Phase where
  s : State
  took : List Slot
  moved : Bool

/-- Slot `k`'s operation done, as `t` has it. -/
def Phase.after (p : Phase) (t : State) (k : Slot) (i : Issue) : Phase :=
  if t.ctx.now.moved then ⟨t, k :: p.took, true⟩
  else if (t.ctx.slot k).stopped || t.waitsIn k then { p with s := t }
  else { p with s := t.mapCtx fun c => c.consume k i, took := k :: p.took }

/-- Slots consume issue `i` together; `none` when one of them stalls after all. One that begins a wait goes on in it alone. -/
def Phase.runGroup (i : Issue) : List Slot → Phase → Option Phase
  | [], p => some p
  | m :: ms, p =>
    let t := p.s.attempt m i
    if t.ctx.now.stalled then none else Phase.runGroup i ms (p.after t m i)

/-- Slots `ms` act on issue `i`. (DEDUCED, log 25) -/
def Phase.run (p : Phase) (ms : List Slot) (i : Issue) : Phase :=
  match ms with
  | [k] =>
    let t := p.s.attempt k i
    if t.ctx.now.stalled then p else p.after t k i
  | _ =>
    match State.tryGroup i (sFirst ms) (p.s.mapCtx fun c => c.syncOlds i.sync) with
    | (s, false) => { p with s := s }
    | (s, true) => (Phase.runGroup i ms { p with s := s }).getD p

/-- The hold line: every slot above the lowest position is held (R72). (DEDUCED, log 19) -/
def Ctx.holdLine (c : Ctx) (low : Nat) : Ctx :=
  { c with pipe := { c.pipe with slots := c.pipe.slots.map fun x => if low < x.pos then { x with held := true } else x } }

/-- Slot `k`'s turn, with those that act together with it. A context instruction under way goes on whatever else stops the context
(R365). (DEDUCED, log 24) -/
def Phase.slot (low : Nat) (pause : BitVec 7) (p : Phase) (k : Slot) : Phase :=
  let c := p.s.ctx
  if p.moved || p.took.contains k then p
  else
    match c.pipe.issueAt (c.slot k).pos with
    | none => p
    | some i =>
      let ms := c.together i k
      let forced := ms.any fun m => (c.slot m).holdsContext
      let may := ms.all fun m => (c.slot m).pos = i.idx && !p.took.contains m && !pause.getLsbD m.val && (if forced then !(c.slot m).stopped else c.mayGo m)
      if !may || ms.head? != some k || (ms.any fun m => c.barred m i) then p
      else if low + 16 ≤ i.idx && !forced then { p with s := p.s.mapCtx fun c => c.holdLine low }
      else p.run ms i

/-! ### The end of a cycle -/

/-- A wait in an operation that performs the context's writes, or that they must precede (R450). (DEDUCED, log 17) -/
def Wait.performs : Wait → Bool
  | .bar _ _ _ _ | .sstep _ _ | .fence _ | .tkwt _ | .launch _ _ _ | .save _ _ _ | .context _ _ _ => true
  | .acq _ _ _ _ _ _ | .wtbase _ _ | .waittl _ _ | .waitb _ _ | .wfe _ _ | .prmt _ _ _ | .prb _ | .tclm _ => false

/-- An operation whose realignment waits for it (R450). (DEDUCED, log 17) (DEDUCED, log 33) -/
def performsWrites (i : Instr) : Bool :=
  writesWtbase i || match i with
  | .sstep _ | .launch _ | .save _ | .halt _ => true
  | _ => false

/-- The slot stands at a tile-checked read. -/
def Ctx.atTileCheck (c : Ctx) (k : Slot) : Bool :=
  (c.slot k).wait.isNone && (c.pipe.issueAt (c.slot k).pos).any fun i => (i.ops.getD k.val none).any tileChecked

/-- S, waiting in such an operation or at its realignment, keeps slot `k` standing. (DEDUCED, log 17) -/
def Ctx.keptByS (c : Ctx) (k : Slot) : Bool :=
  let x := c.slot k
  let mine := c.pipe.issueAt x.pos
  (((c.slot 0).wait).any Wait.performs && k != 0 &&
    (x.held || mine.isNone || mine.any fun i => c.barred k i || (i.idx = (c.slot 0).pos && i.sync.getLsbD k.val && i.sync.getLsbD 0))) ||
  mine.any fun i => i.sync.getLsbD k.val && (c.slot 0).pos ≤ i.idx && (i.ops.getD 0 none).any performsWrites

/-- S waits in a FENCE, which orders reads as well (R220). -/
def Ctx.fencing (c : Ctx) : Bool :=
  match (c.slot 0).wait with
  | some (.fence _) => true
  | _ => false

/-- A slot that has consumed nothing lets its time run on until its writes are due (R450), and for a FENCE its reads (R220). (DEDUCED, log 17) -/
def Ctx.runsOn (c : Ctx) (k : Slot) : Bool :=
  let x := c.slot k
  (x.flights.any fun f => f.mem.any fun m => m.isWrite || c.fencing) &&
    (x.wait.any Wait.performs || c.keptByS k || (!c.releases.isEmpty && !c.atTileCheck k))

/-- The latest issue of slot `k` with a request that a pending register waits for and that has not left. (DEDUCED, log 18) -/
def Ctx.unsent (c : Ctx) (k : Slot) : Option Nat :=
  ((c.slot k).flights.filter fun f => match f.mem with
    | some (.send r) => c.landings.any fun e => e.pend && r.land == some e.id
    | _ => false).foldl (fun a f => some (max (a.getD 0) f.idx)) none

/-- Requests that leave after a fixed time leave by the clock, when their own slot waits for what they bring (R80, R229). (DEDUCED, log 18) -/
def Ctx.leaveByClock (c : Ctx) (k : Slot) : Ctx :=
  match c.unsent k with
  | none => c
  | some n =>
    c.mapSlot k fun x =>
      { x with flights := x.flights.map fun f => match f.mem with
          | some (.send _) => if f.idx ≤ n then { f with due := f.due - 1 } else f
          | _ => f }

/-- Array operations and an MST finish by the clock while no slot of their context goes on, as what it waits for may be their result (R74,
R316). (DEDUCED, log 18) -/
def Ctx.arrayByClock (c : Ctx) : Ctx :=
  c.mapSlot 3 fun x => { x with flights := x.flights.map fun f => if f.array then { f with due := f.due - 1 } else f }

/-- The end of the cycle for a slot that has consumed nothing: a stall after a transfer passes, a time runs on; whether it moved.
(DEDUCED, log 18) -/
def Ctx.standing (c : Ctx) (k : Slot) : Ctx × Bool :=
  if (c.slot k).cool != 0 then (c.mapSlot k fun x => { x with cool := x.cool - 1 }, true)
  else if c.runsOn k || (c.pipe.halt && (c.slot k).pos = c.pipe.count) then (c.mapSlot k fun x => { x with time := x.time + 1 }, true)
  else ((if k = 3 && c.idle then c.arrayByClock else c).leaveByClock k, (c.unsent k).isSome)

/-- Every slot that has consumed nothing. -/
def Ctx.standAll (c : Ctx) (took : List Slot) : Ctx :=
  let (c, m) := (slotOrder.filter fun k => !took.contains k).foldl (fun (acc : Ctx × Bool) k =>
    let (c, m) := acc.1.standing k
    (c, acc.2 || m)) (c, !took.isEmpty)
  { c with idle := !m }

/-- A context that freezes consumes nothing more: the times of its slots run on until their writes have fallen due (R325, R450).
(DEDUCED, log 17) -/
def Ctx.freezeAll (c : Ctx) (took : List Slot) : Ctx :=
  (slotOrder.filter fun k => !took.contains k).foldl (fun c k =>
    if (c.slot k).flights.any fun f => f.mem.any MemOp.isWrite && !c.holdsBack k f then c.mapSlot k fun x => { x with time := x.time + 1 } else c)
    { c with idle := false }

/-- The queues keep what some slot has still to consume; a drain that has reached its boundary goes on as a freeze. -/
def Ctx.endCycle (c : Ctx) : Ctx :=
  let low := c.pipe.lowest
  { c.joinFlags with
    pipe := { c.pipe with queue := c.pipe.queue.filter fun i => low ≤ i.idx }
    lpWrites := c.lpWrites.filter fun (w : LpWrite) => c.trapped.isSome || c.uiSaved.isSome || c.pipe.slots.any fun x => x.trip w.reg < w.trip
    tileNow := [], crNow := [], drainFor := if c.run == Run.draining then c.drainFor + 1 else c.drainFor
    trCycle := if c.trMode != 0 && c.pipe.count != 0 && c.run != Run.swapped && c.run != Run.empty then c.trCycle + 1 else c.trCycle }.endDrain

/-- The slots that stand still in this cycle for a cause outside the model's rules of time, as the outside chose. (DESIGN CHOICE, log 123) -/
def State.takePause (s : State) : BitVec 7 × State :=
  match s.pauses with
  | [] => (0, s)
  | p :: ps => (p, { s with pauses := ps })

/-- The slots of the focused context run one cycle: the hold line is released for those it has caught up with, dispatch makes an
issue when a slot is ready for it, and each slot acts. (DESIGN CHOICE, log 5) (DEDUCED, log 19) -/
def State.runSlots (s : State) : State :=
  match s.ctx.run with
  | .running | .draining | .freezing =>
    let low := s.ctx.pipe.lowest
    let s := s.mapCtx fun c =>
      { c with pipe := { c.pipe with slots := c.pipe.slots.map fun x => if x.pos ≤ low then { x with held := false } else x } }
    let s := s.when (slotOrder.any fun k => (s.ctx.slot k).pos = s.ctx.pipe.count && s.ctx.mayGo k) State.dispatch
    let (pause, s) := s.takePause
    let p := slotOrder.foldl (Phase.slot low pause) ⟨s, [], false⟩
    let frozen := p.s.ctx.run == .freezing
    p.s.mapCtx fun c =>
      if p.moved then { c with idle := false }
      else if frozen then c.freezeAll p.took
      else c.standAll (p.took ++ slotOrder.filter fun k => pause.getLsbD k.val)
  | .halting =>
    s.mapCtx fun c => { c with pipe := { c.pipe with slots := c.pipe.slots.map fun x => { x with time := x.time + 1 } } }
  | .empty | .halted | .stopped | .frozen | .swapped => s

/-! ### A cycle of the machine -/

/-- Events of one cycle at most. (DESIGN CHOICE, log 6) -/
def settleFuel : Nat := 4096

/-- A context put into an order by core. -/
def insertCore (c : Ctx) : List Ctx → List Ctx
  | [] => [c]
  | x :: xs => if c.core < x.core then c :: x :: xs else x :: insertCore c xs

/-- The contexts in the order of their cores, in which LAUNCHes of one cycle are accepted (R60, R420). -/
def State.coreOrder (s : State) : List Nat := (s.allCtx.foldl (fun acc c => insertCore c acc) []).map Ctx.uid

/-- A cycle: every context's time, what falls due, every core's slots, and the clock. (DESIGN CHOICE, log 5) (DEDUCED, log 110) -/
def State.tick (s : State) : State :=
  let uids := s.coreOrder
  let s := { s with cmds := s.cmds.map fun (c : Cmd) => if c.started then { c with left := c.left - 1 } else c }
  let s := (s.onEach uids State.beginCycle).settle uids settleFuel
  let s := s.onEach uids fun s => s.runSlots.mapCtx Ctx.endCycle
  { s with clock := s.clock + 1, age := s.age + s.cycleTime, denied := [] }

/-- A write under way, for those who may see it before it is done: the machine once it is done, the runs of keys that it writes, and whether it
is a TCON's (R216, R299, R310). -/
structure Coming where
  s : State
  runs : List (Nat × Nat)
  vec : Bool

/-- The write under way of a flight of slot `k` of the focused context: a fill of a tray slot or a step of a chain (R299, R310). -/
def State.comingFlight (s : State) (k : Slot) (f : Flight) : List Coming :=
  match f.mem with
  | some (.tld slot off len swz) => [⟨(s.performOp k f (.tld slot off len swz)).1, [(trayKey s.ctx.core slot 0, len)], false⟩]
  | some (.tcon t n) => [⟨(s.performOp k f (.tcon t n)).1, (MemOp.tcon t n).writeKeys s.ctx.core, true⟩]
  | _ => []

/-- The write under way of the focused context's TCHN (R311). -/
def State.comingChain (s : State) : List Coming :=
  match s.ctx.chain with
  | some c => ((c.steps[c.next]?).map fun t =>
      (⟨s.performStep (s.chainOrigin c.tc c.num) none t, (MemOp.tcon t 0).writeKeys s.ctx.core, false⟩ : Coming)).toList
  | none => []

/-- The writes under way that an agent may see, its own as an engine left out: those of commands that have started, and of its context's
fills and chain steps (R216, R240, R299, R310). (DESIGN CHOICE, log 12) -/
def State.coming (s : State) (a : Agent) : List Coming :=
  ((s.cmds.filter fun c => c.started && c.origin.agent != a).map fun c =>
    let t := (s.runCmd c none).s
    ⟨t, (t.history.filter fun w => s.nextNum ≤ w.num && w.agent == c.origin.agent).flatMap Past.span, false⟩) ++
  match a.uid with
  | some u =>
    let t := s.refocus u
    if t.ctx.uid != u || !a.isCtx then []
    else ((List.finRange 7).flatMap fun k => (t.ctx.slot k).flights.flatMap (t.comingFlight k)) ++ t.comingChain
  | none => []

/-- A byte that an engine has written and that an agent has not acquired (R216). (DESIGN CHOICE, log 12) -/
def State.unacquired (s : State) (a : Agent) (key : Nat) : Bool :=
  (s.onByte key).any fun w => w.agent.isEngine && w.agent != a && !((s.knownTo a).any fun v => v.meets w key)

/-- What an agent may see of a byte otherwise than as it stands, where a write under way gives it: its new value, or an unverified one (R216,
R240, R310). (DESIGN CHOICE, log 12) -/
def State.comingAt (s : State) (a : Agent) (ws : List Coming) (key : Nat) (new : Bool) (free : Byte) : Option Seen :=
  match ws.find? fun x => x.runs.any fun r => r.1 ≤ key && key < r.1 + r.2 with
  | some x => if new then some (.coming (Mem.byte x.s.mem key) x.vec) else if x.vec then none else some (.free free)
  | none => if !new && s.unacquired a key then some (.free free) else none

/-- An agent sees, of bytes from a key on, what writes under way give them, or unverified bytes (R216, R240, R299, R310).
(DESIGN CHOICE, log 12) -/
def State.unverified (s : State) (a : Agent) (key len : Nat) (new : Bool) : State :=
  let ws := s.coming a
  let vs := (List.range len).filterMap fun i => (s.comingAt a ws (key + i) new (Config.freeByte (s.fresh + i))).map fun v => (key + i, v)
  { s.setViews a key len vs with fresh := s.fresh + len }

/-- The agenda's next turn; a cycle when it names none. (DESIGN CHOICE, log 4) (DESIGN CHOICE, log 10) (DESIGN CHOICE, log 11) -/
def State.turn (s : State) : Out :=
  match s.agenda with
  | [] => .next s.tick
  | .cycle :: rest => .next { s with agenda := rest }.tick
  | .focus uid :: rest => .next ({ s with agenda := rest }.refocus uid)
  | .oldReg uid k r n :: rest => .next ({ s with agenda := rest }.onCtx uid fun s => s.mapCtx fun c => c.readOld k r n)
  | .view a key len num :: rest =>
    let s := { s with agenda := rest }
    .next (s.setViews a key len ((num.map (s.viewsBefore key len)).getD []))
  | .unverified a key len new :: rest => .next ({ s with agenda := rest }.unverified a key len new)
  | .event i inp :: rest => if i.isOp then .fault .notAnEvent else exec i { s with agenda := rest, input := inp }

/-! ### An instruction placed (log 90) -/

/-- The address at which `withFetchWord` places an instruction: a page of the focused context's device-virtual space. (DEDUCED, log 90) -/
def placeAddr : Word := 0x10000

/-- The frame of package 0 that holds the placed instruction. (DEDUCED, log 90) -/
def placeFrame : Nat := 0x10

/-- A running context about to dispatch at an address, which one window entry lets it execute from. (DEDUCED, log 90) -/
def Ctx.startAt (c : Ctx) (a : Word) (frame : Nat) : Ctx :=
  let page := BitVec.ofNat 36 (a.toNat / 4096)
  { c with
    run := .running, raised := [], pipe := Pipe.init a c.pipe.mpc
    windows := { vbase := page, perm := 4, scope := 0, tier := 0, npage := 1, dbase := BitVec.ofNat 36 frame } :: c.windows }

/-- The bytes of a bundle placed where the focused context fetches next: the context runs, and its next cycle dispatches it. (DEDUCED, log 90) -/
def State.placeCode (s : State) (bs : List Byte) : State :=
  { s with
    ctx := s.ctx.startAt placeAddr placeFrame, agenda := []
    pages := { ref := ⟨0, s.ctx.asn, placeFrame⟩, big := false, state := .resident, frame := placeFrame, writable := true, cow := false, probed := none } :: s.pages
    mem := Mem.write s.mem (physKey 0 (placeFrame * 4096)) bs }

end Sys2Proof.Machine
end

