-- ==== Sys2Proof/Machine/Step.lean ====
section
/-! DEFINITION. One step of the machine, and the placing of an instruction where the next step runs it. -/

namespace Sys2Proof.Machine

/-- A step: the next turn of the agenda, or a cycle of every core when it names none. -/
def step (s : State) : Host.Outcome State Fault Refusal := s.turn

/-- `s` with the bundle of the `nbits` bits `w`, and zeros after them, where the focused context fetches next (DEDUCED, log 90). -/
def State.withFetchWord (s : State) (nbits w : Nat) : State :=
  s.placeCode (Bits.natLe (max ((nbits + 7) / 8) 60) (w % 2 ^ nbits))

end Sys2Proof.Machine
end

