-- ==== Sys2Proof/Laws/PerInstr.lean ====
section
/-! SUPPORT. Decoding an operation's own slot word gives it back: the fields of each body form, and one lemma per constructor
(family `Encoding`). -/

set_option linter.unusedSimpArgs false
set_option linter.constructorNameAsVariable false

namespace Sys2Proof.Laws

open Sys2Proof.Encode Sys2Proof.Decode

/-- A field of a word built from a number, bit by bit. -/
theorem field_of_bits {n lo len : Nat} {x : BitVec len} (hl : lo + len ≤ 64)
    (h : ∀ i, i < len → n.testBit (lo + i) = x.getLsbD i) : (BitVec.ofNat 64 n).extractLsb' lo len = x := by
  apply BitVec.eq_of_getLsbD_eq
  intro i hi
  rw [BitVec.getLsbD_extractLsb', BitVec.getLsbD_ofNat, h i hi]
  have h64 : lo + i < 64 := by omega
  simp only [hi, h64, decide_true, Bool.true_and]

/-- A bit of a word built from a number. -/
theorem bit_of_bits {n lo : Nat} {x : Bool} (hl : lo < 64) (h : n.testBit lo = x) : (BitVec.ofNat 64 n).getLsbD lo = x := by
  rw [BitVec.getLsbD_ofNat, h]; simp only [hl, decide_true, Bool.true_and]

/-- The bits of a bit vector's number are its bits. -/
theorem testBit_bitvec {w : Nat} (x : BitVec w) (i : Nat) : x.toNat.testBit i = x.getLsbD i := rfl

/-- The bits of a one-bit number. -/
theorem testBit_bool (b : Bool) (i : Nat) : b.toNat.testBit i = (decide (i = 0) && b) := by
  cases b <;> cases i <;> simp [Nat.testBit_succ]

/-- A position below the least is not reached. -/
theorem le_out {a b : Nat} (h : b < a) : decide (a ≤ b) = false := decide_eq_false (by omega)

/-- A positive number is not 0. -/
theorem ne_out {a : Nat} (h : 0 < a) : decide (a = 0) = false := decide_eq_false (by omega)

/-- A field of a word, as a number, bit by bit. -/
theorem fld_of_bits {n lo len m : Nat} (hl : lo + len ≤ 64) (hm : m < 2 ^ len)
    (h : ∀ i, i < len → n.testBit (lo + i) = m.testBit i) : Bits.fld (BitVec.ofNat 64 n) lo len = m := by
  apply Nat.eq_of_testBit_eq
  intro i
  simp only [Bits.fld, BitVec.toNat_ofNat, Nat.testBit_mod_two_pow, Nat.testBit_shiftRight]
  by_cases hi : i < len
  · have h64 : lo + i < 64 := by omega
    simp only [hi, h64, decide_true, Bool.true_and, h i hi]
  · rw [Nat.testBit_lt_two_pow (lt_of_lt_of_le hm (Nat.pow_le_pow_right (by omega) (by omega)))]
    simp only [hi, decide_false, Bool.false_and]

/-- A number below 2^n has no bit from n on. -/
theorem low_bits {x n i : Nat} (hx : x < 2 ^ n) (hi : n ≤ i) : x.testBit i = false :=
  Nat.testBit_lt_two_pow (lt_of_lt_of_le hx (Nat.pow_le_pow_right (by omega) hi))

/-- A number below 4 has no bit from 2 on. -/
theorem small_bits {x i : Nat} (hx : x < 4) (hi : 2 ≤ i) : x.testBit i = false := low_bits (n := 2) (by omega) hi

/-- A word in this form gives its fields back. -/
theorem unpackR_pack (op : Nat) (f : RForm) : unpackR (BitVec.ofNat 64 (op <<< 56 ||| packR f)) = f := by
  obtain ⟨pred, pneg, d, a, b, c, dt, st, rm, sat, sub⟩ := f
  simp only [unpackR, packR, guardBits, RForm.mk.injEq]
  refine ⟨?_, ?_, ?_, ?_, ?_, ?_, ?_, ?_, ?_, ?_, ?_⟩
  all_goals first
    | apply bit_of_bits (by omega)
    | (apply field_of_bits (by omega); intro i hi)
  all_goals
    simp only [Nat.testBit_or, Nat.testBit_shiftLeft, testBit_bitvec, testBit_bool]
    simp (disch := omega) only [le_out, ne_out, BitVec.getLsbD_of_ge, Bool.false_and, Bool.and_false, Bool.or_false, Bool.false_or,
      Nat.add_sub_cancel_left, Nat.le_add_right, decide_true, Bool.true_and, Nat.le_refl, Nat.zero_add]

/-- FMT of a word in this form. -/
theorem fmtR_pack (op : Nat) (f : RForm) : Bits.fld (BitVec.ofNat 64 (op <<< 56 ||| packR f)) 48 2 = 0 := by
  obtain ⟨pred, pneg, d, a, b, c, dt, st, rm, sat, sub⟩ := f
  apply fld_of_bits (by omega) (by omega)
  intro i hi
  simp only [packR, guardBits, Nat.testBit_or, Nat.testBit_shiftLeft, testBit_bitvec, testBit_bool]
  simp (disch := omega) only [le_out, ne_out, BitVec.getLsbD_of_ge, Bool.false_and, Bool.and_false, Bool.or_false, Bool.false_or,
      Nat.add_sub_cancel_left, Nat.le_add_right, decide_true, Bool.true_and, Nat.le_refl, Nat.zero_add, Nat.zero_testBit]

/-- OP of a word in this form. -/
theorem opR_pack (op : Nat) (h : op < 256) (f : RForm) : Bits.fld (BitVec.ofNat 64 (op <<< 56 ||| packR f)) 56 8 = op := by
  obtain ⟨pred, pneg, d, a, b, c, dt, st, rm, sat, sub⟩ := f
  apply fld_of_bits (by omega) (by omega)
  intro i hi
  simp only [packR, guardBits, Nat.testBit_or, Nat.testBit_shiftLeft, testBit_bitvec, testBit_bool]
  simp (disch := omega) only [le_out, ne_out, BitVec.getLsbD_of_ge, Bool.false_and, Bool.and_false, Bool.or_false, Bool.false_or,
      Nat.add_sub_cancel_left, Nat.le_add_right, decide_true, Bool.true_and, Nat.le_refl, Nat.zero_add]

/-- A word in this form gives its fields back. -/
theorem unpackI_pack (op : Nat) (f : IForm) : unpackI (BitVec.ofNat 64 (op <<< 56 ||| packI f)) = f := by
  obtain ⟨pred, pneg, d, a, dt, imm⟩ := f
  simp only [unpackI, packI, guardBits, IForm.mk.injEq]
  refine ⟨?_, ?_, ?_, ?_, ?_, ?_⟩
  all_goals first
    | apply bit_of_bits (by omega)
    | (apply field_of_bits (by omega); intro i hi)
  all_goals
    simp only [Nat.testBit_or, Nat.testBit_shiftLeft, testBit_bitvec, testBit_bool]
    simp (disch := omega) only [le_out, ne_out, BitVec.getLsbD_of_ge, Bool.false_and, Bool.and_false, Bool.or_false, Bool.false_or,
      Nat.add_sub_cancel_left, Nat.le_add_right, decide_true, Bool.true_and, Nat.le_refl, Nat.zero_add, small_bits]

/-- FMT of a word in this form. -/
theorem fmtI_pack (op : Nat) (f : IForm) : Bits.fld (BitVec.ofNat 64 (op <<< 56 ||| packI f)) 48 2 = 1 := by
  obtain ⟨pred, pneg, d, a, dt, imm⟩ := f
  apply fld_of_bits (by omega) (by omega)
  intro i hi
  simp only [packI, guardBits, Nat.testBit_or, Nat.testBit_shiftLeft, testBit_bitvec, testBit_bool]
  simp (disch := omega) only [le_out, ne_out, BitVec.getLsbD_of_ge, Bool.false_and, Bool.and_false, Bool.or_false, Bool.false_or,
      Nat.add_sub_cancel_left, Nat.le_add_right, decide_true, Bool.true_and, Nat.le_refl, Nat.zero_add, small_bits]

/-- OP of a word in this form. -/
theorem opI_pack (op : Nat) (h : op < 256) (f : IForm) : Bits.fld (BitVec.ofNat 64 (op <<< 56 ||| packI f)) 56 8 = op := by
  obtain ⟨pred, pneg, d, a, dt, imm⟩ := f
  apply fld_of_bits (by omega) (by omega)
  intro i hi
  simp only [packI, guardBits, Nat.testBit_or, Nat.testBit_shiftLeft, testBit_bitvec, testBit_bool]
  simp (disch := omega) only [le_out, ne_out, BitVec.getLsbD_of_ge, Bool.false_and, Bool.and_false, Bool.or_false, Bool.false_or,
      Nat.add_sub_cancel_left, Nat.le_add_right, decide_true, Bool.true_and, Nat.le_refl, Nat.zero_add, small_bits]

/-- A word in this form gives its fields back. -/
theorem unpackM_pack (op : Nat) (f : MForm) : unpackM (BitVec.ofNat 64 (op <<< 56 ||| packM f)) = f := by
  obtain ⟨pred, pneg, d, base, idx, chk, step, dt, disp⟩ := f
  simp only [unpackM, packM, guardBits, MForm.mk.injEq]
  refine ⟨?_, ?_, ?_, ?_, ?_, ?_, ?_, ?_, ?_⟩
  all_goals first
    | apply bit_of_bits (by omega)
    | (apply field_of_bits (by omega); intro i hi)
  all_goals
    simp only [Nat.testBit_or, Nat.testBit_shiftLeft, testBit_bitvec, testBit_bool]
    simp (disch := omega) only [le_out, ne_out, BitVec.getLsbD_of_ge, Bool.false_and, Bool.and_false, Bool.or_false, Bool.false_or,
      Nat.add_sub_cancel_left, Nat.le_add_right, decide_true, Bool.true_and, Nat.le_refl, Nat.zero_add, small_bits]

/-- FMT of a word in this form. -/
theorem fmtM_pack (op : Nat) (f : MForm) : Bits.fld (BitVec.ofNat 64 (op <<< 56 ||| packM f)) 48 2 = 2 := by
  obtain ⟨pred, pneg, d, base, idx, chk, step, dt, disp⟩ := f
  apply fld_of_bits (by omega) (by omega)
  intro i hi
  simp only [packM, guardBits, Nat.testBit_or, Nat.testBit_shiftLeft, testBit_bitvec, testBit_bool]
  simp (disch := omega) only [le_out, ne_out, BitVec.getLsbD_of_ge, Bool.false_and, Bool.and_false, Bool.or_false, Bool.false_or,
      Nat.add_sub_cancel_left, Nat.le_add_right, decide_true, Bool.true_and, Nat.le_refl, Nat.zero_add, small_bits]

/-- OP of a word in this form. -/
theorem opM_pack (op : Nat) (h : op < 256) (f : MForm) : Bits.fld (BitVec.ofNat 64 (op <<< 56 ||| packM f)) 56 8 = op := by
  obtain ⟨pred, pneg, d, base, idx, chk, step, dt, disp⟩ := f
  apply fld_of_bits (by omega) (by omega)
  intro i hi
  simp only [packM, guardBits, Nat.testBit_or, Nat.testBit_shiftLeft, testBit_bitvec, testBit_bool]
  simp (disch := omega) only [le_out, ne_out, BitVec.getLsbD_of_ge, Bool.false_and, Bool.and_false, Bool.or_false, Bool.false_or,
      Nat.add_sub_cancel_left, Nat.le_add_right, decide_true, Bool.true_and, Nat.le_refl, Nat.zero_add, small_bits]

/-- A word in this form gives its fields back. -/
theorem unpackL_pack (op : Nat) (f : LForm) : unpackL (BitVec.ofNat 64 (op <<< 56 ||| packL f)) = f := by
  obtain ⟨pred, pneg, d, imm⟩ := f
  simp only [unpackL, packL, guardBits, LForm.mk.injEq]
  refine ⟨?_, ?_, ?_, ?_⟩
  all_goals first
    | apply bit_of_bits (by omega)
    | (apply field_of_bits (by omega); intro i hi)
  all_goals
    simp only [Nat.testBit_or, Nat.testBit_shiftLeft, testBit_bitvec, testBit_bool]
    simp (disch := omega) only [le_out, ne_out, BitVec.getLsbD_of_ge, Bool.false_and, Bool.and_false, Bool.or_false, Bool.false_or,
      Nat.add_sub_cancel_left, Nat.le_add_right, decide_true, Bool.true_and, Nat.le_refl, Nat.zero_add, small_bits]

/-- FMT of a word in this form. -/
theorem fmtL_pack (op : Nat) (f : LForm) : Bits.fld (BitVec.ofNat 64 (op <<< 56 ||| packL f)) 48 2 = 3 := by
  obtain ⟨pred, pneg, d, imm⟩ := f
  apply fld_of_bits (by omega) (by omega)
  intro i hi
  simp only [packL, guardBits, Nat.testBit_or, Nat.testBit_shiftLeft, testBit_bitvec, testBit_bool]
  simp (disch := omega) only [le_out, ne_out, BitVec.getLsbD_of_ge, Bool.false_and, Bool.and_false, Bool.or_false, Bool.false_or,
      Nat.add_sub_cancel_left, Nat.le_add_right, decide_true, Bool.true_and, Nat.le_refl, Nat.zero_add, small_bits]

/-- OP of a word in this form. -/
theorem opL_pack (op : Nat) (h : op < 256) (f : LForm) : Bits.fld (BitVec.ofNat 64 (op <<< 56 ||| packL f)) 56 8 = op := by
  obtain ⟨pred, pneg, d, imm⟩ := f
  apply fld_of_bits (by omega) (by omega)
  intro i hi
  simp only [packL, guardBits, Nat.testBit_or, Nat.testBit_shiftLeft, testBit_bitvec, testBit_bool]
  simp (disch := omega) only [le_out, ne_out, BitVec.getLsbD_of_ge, Bool.false_and, Bool.and_false, Bool.or_false, Bool.false_or,
      Nat.add_sub_cancel_left, Nat.le_add_right, decide_true, Bool.true_and, Nat.le_refl, Nat.zero_add, small_bits]

/-- A word in this form gives its fields back. -/
theorem unpackC_pack (op : Nat) (f : CForm) : unpackC (BitVec.ofNat 64 (op <<< 56 ||| packC f)) = f := by
  obtain ⟨pred, pneg, delay, desc, tc, steps, stepd, aux, sub⟩ := f
  simp only [unpackC, packC, guardBits, CForm.mk.injEq]
  refine ⟨?_, ?_, ?_, ?_, ?_, ?_, ?_, ?_, ?_⟩
  all_goals first
    | apply bit_of_bits (by omega)
    | (apply field_of_bits (by omega); intro i hi)
  all_goals
    simp only [Nat.testBit_or, Nat.testBit_shiftLeft, testBit_bitvec, testBit_bool]
    simp (disch := omega) only [le_out, ne_out, BitVec.getLsbD_of_ge, Bool.false_and, Bool.and_false, Bool.or_false, Bool.false_or,
      Nat.add_sub_cancel_left, Nat.le_add_right, decide_true, Bool.true_and, Nat.le_refl, Nat.zero_add, small_bits]

/-- FMT of a word in this form. -/
theorem fmtC_pack (op : Nat) (f : CForm) : Bits.fld (BitVec.ofNat 64 (op <<< 56 ||| packC f)) 48 2 = 3 := by
  obtain ⟨pred, pneg, delay, desc, tc, steps, stepd, aux, sub⟩ := f
  apply fld_of_bits (by omega) (by omega)
  intro i hi
  simp only [packC, guardBits, Nat.testBit_or, Nat.testBit_shiftLeft, testBit_bitvec, testBit_bool]
  simp (disch := omega) only [le_out, ne_out, BitVec.getLsbD_of_ge, Bool.false_and, Bool.and_false, Bool.or_false, Bool.false_or,
      Nat.add_sub_cancel_left, Nat.le_add_right, decide_true, Bool.true_and, Nat.le_refl, Nat.zero_add, small_bits]

/-- OP of a word in this form. -/
theorem opC_pack (op : Nat) (h : op < 256) (f : CForm) : Bits.fld (BitVec.ofNat 64 (op <<< 56 ||| packC f)) 56 8 = op := by
  obtain ⟨pred, pneg, delay, desc, tc, steps, stepd, aux, sub⟩ := f
  apply fld_of_bits (by omega) (by omega)
  intro i hi
  simp only [packC, guardBits, Nat.testBit_or, Nat.testBit_shiftLeft, testBit_bitvec, testBit_bool]
  simp (disch := omega) only [le_out, ne_out, BitVec.getLsbD_of_ge, Bool.false_and, Bool.and_false, Bool.or_false, Bool.false_or,
      Nat.add_sub_cancel_left, Nat.le_add_right, decide_true, Bool.true_and, Nat.le_refl, Nat.zero_add, small_bits]

/-- The slot word of an operation whose fields are legal decodes, in its class, to the operation (R120, R138 to R140, R143). -/
def Encoding.Statement (i : Instr) : Prop :=
  ∀ (c : Class) (op : Nat) (w : Word), opCode i = some (c, op) → Encode.slotWord i = some w → Legality.cause i = none →
    Decode.slotWord c w = .ok i

/-- A word whose OP is assigned decodes to what the map makes of it, when that is legal. -/
theorem decode_of {c : Class} {op : Nat} {w : Word} {i : Instr} {g : Nat → Word → Option Instr} (h0 : op ≠ 0)
    (hop : Bits.fld w 56 8 = op) (hm : mapOf c op = some g) (hg : g (fmtOf w) w = some i) (hc : Legality.cause i = none) :
    Decode.slotWord c w = .ok i := by
  simp only [Decode.slotWord, hop, h0, hm, hg, hc, if_false]

/-- An operation in this form: its statement follows from the opcode map. -/
theorem encodedR {i : Instr} {c : Class} {op : Nat} {g : Nat → Word → Option Instr} (f : RForm) (ho : opCode i = some (c, op))
    (hb : bodyOf i = some (packR f)) (h0 : op ≠ 0) (h8 : op < 256) (hm : mapOf c op = some g)
    (hg : Legality.cause i = none → ∀ w, unpackR w = f → g 0 w = some i) : Encoding.Statement i := by
  intro c' op' w ho' hw hc
  rw [ho] at ho'
  obtain ⟨rfl, rfl⟩ := Prod.mk.inj (Option.some.inj ho')
  simp only [Encode.slotWord, ho, hb, Option.some.injEq] at hw
  subst hw
  refine decode_of h0 (opR_pack _ h8 f) hm ?_ hc
  rw [show fmtOf _ = 0 from fmtR_pack _ f]
  exact hg hc _ (unpackR_pack _ f)

/-- An operation in this form: its statement follows from the opcode map. -/
theorem encodedI {i : Instr} {c : Class} {op : Nat} {g : Nat → Word → Option Instr} (f : IForm) (ho : opCode i = some (c, op))
    (hb : bodyOf i = some (packI f)) (h0 : op ≠ 0) (h8 : op < 256) (hm : mapOf c op = some g)
    (hg : Legality.cause i = none → ∀ w, unpackI w = f → g 1 w = some i) : Encoding.Statement i := by
  intro c' op' w ho' hw hc
  rw [ho] at ho'
  obtain ⟨rfl, rfl⟩ := Prod.mk.inj (Option.some.inj ho')
  simp only [Encode.slotWord, ho, hb, Option.some.injEq] at hw
  subst hw
  refine decode_of h0 (opI_pack _ h8 f) hm ?_ hc
  rw [show fmtOf _ = 1 from fmtI_pack _ f]
  exact hg hc _ (unpackI_pack _ f)

/-- An operation in this form: its statement follows from the opcode map. -/
theorem encodedM {i : Instr} {c : Class} {op : Nat} {g : Nat → Word → Option Instr} (f : MForm) (ho : opCode i = some (c, op))
    (hb : bodyOf i = some (packM f)) (h0 : op ≠ 0) (h8 : op < 256) (hm : mapOf c op = some g)
    (hg : Legality.cause i = none → ∀ w, unpackM w = f → g 2 w = some i) : Encoding.Statement i := by
  intro c' op' w ho' hw hc
  rw [ho] at ho'
  obtain ⟨rfl, rfl⟩ := Prod.mk.inj (Option.some.inj ho')
  simp only [Encode.slotWord, ho, hb, Option.some.injEq] at hw
  subst hw
  refine decode_of h0 (opM_pack _ h8 f) hm ?_ hc
  rw [show fmtOf _ = 2 from fmtM_pack _ f]
  exact hg hc _ (unpackM_pack _ f)

/-- An operation in this form: its statement follows from the opcode map. -/
theorem encodedL {i : Instr} {c : Class} {op : Nat} {g : Nat → Word → Option Instr} (f : LForm) (ho : opCode i = some (c, op))
    (hb : bodyOf i = some (packL f)) (h0 : op ≠ 0) (h8 : op < 256) (hm : mapOf c op = some g)
    (hg : Legality.cause i = none → ∀ w, unpackL w = f → g 3 w = some i) : Encoding.Statement i := by
  intro c' op' w ho' hw hc
  rw [ho] at ho'
  obtain ⟨rfl, rfl⟩ := Prod.mk.inj (Option.some.inj ho')
  simp only [Encode.slotWord, ho, hb, Option.some.injEq] at hw
  subst hw
  refine decode_of h0 (opL_pack _ h8 f) hm ?_ hc
  rw [show fmtOf _ = 3 from fmtL_pack _ f]
  exact hg hc _ (unpackL_pack _ f)

/-- An operation in this form: its statement follows from the opcode map. -/
theorem encodedC {i : Instr} {c : Class} {op : Nat} {g : Nat → Word → Option Instr} (f : CForm) (ho : opCode i = some (c, op))
    (hb : bodyOf i = some (packC f)) (h0 : op ≠ 0) (h8 : op < 256) (hm : mapOf c op = some g)
    (hg : Legality.cause i = none → ∀ w, unpackC w = f → g 3 w = some i) : Encoding.Statement i := by
  intro c' op' w ho' hw hc
  rw [ho] at ho'
  obtain ⟨rfl, rfl⟩ := Prod.mk.inj (Option.some.inj ho')
  simp only [Encode.slotWord, ho, hb, Option.some.injEq] at hw
  subst hw
  refine decode_of h0 (opC_pack _ h8 f) hm ?_ hc
  rw [show fmtOf _ = 3 from fmtC_pack _ f]
  exact hg hc _ (unpackC_pack _ f)

/-- An event of the machine has no word. -/
theorem no_word {i : Instr} (h : opCode i = none) : Encoding.Statement i := by
  intro c op w ho
  rw [h] at ho
  cases ho

/-- A bit that a mask covers is clear. -/
theorem bit_of_mask {x m i : Nat} (h : x &&& m = 0) (hm : m.testBit i = true) : x.testBit i = false := by
  have := congrArg (fun n => n.testBit i) h
  simpa [Nat.testBit_and, hm] using this

/-- A legal operation breaks no rule of cause 0x04. -/
theorem legal_bad4 {i : Instr} {l : Legality.Legal} (hl : Legality.legal i = some l) (hc : Legality.cause i = none) : l.bad4 = false := by
  cases hb : l.bad4 with
  | false => rfl
  | true => simp [Legality.cause, hl, hb] at hc

/-- The SUB bits that a legal register form does not read are clear. -/
theorem sub_masked {f : RForm} {w : Legality.RShape} (h : (Legality.ofR f w).bad4 = false) : f.sub.toNat &&& (1023 - w.sub) = 0 := by
  simp only [Legality.ofR, Bool.or_eq_false_iff, bne_eq_false_iff_eq] at h
  exact h.1.1.2

/-- The further rule of a legal register form holds. -/
theorem more_r {f : RForm} {w : Legality.RShape} (h : (Legality.ofR f w).bad4 = false) : w.x4 = false := by
  simp only [Legality.ofR, Bool.or_eq_false_iff] at h
  exact h.1.2

/-- The further rule of a legal immediate form holds. -/
theorem more_i {f : IForm} {w : Legality.IShape} (h : (Legality.ofI f w).bad4 = false) : w.x4 = false := by
  simp only [Legality.ofI, Bool.or_eq_false_iff] at h
  exact h.1.2

/-- The two readings of a field agree. -/
theorem fld_same {w : Nat} (x : BitVec w) (lo len : Nat) : Legality.fld x lo len = Bits.fld x lo len := rfl

/-- A field of two clear bits is 0. -/
theorem low_two {x : BitVec 10} (h0 : x.toNat.testBit 0 = false) (h1 : x.toNat.testBit 1 = false) : Bits.fld x 0 2 = 0 := by
  simp only [Bits.fld, Nat.shiftRight_zero]
  simp only [Nat.testBit_zero, Nat.testBit_succ, decide_eq_false_iff_not] at h0 h1
  omega

/-- NOP. -/
theorem Encoding.nop (cls : Class) : Encoding.Statement (.nop cls) := by
  intro c op w ho hw _
  obtain ⟨rfl, rfl⟩ := Prod.mk.inj (Option.some.inj ho)
  obtain rfl := Option.some.inj hw
  rfl

/-- The word of add. -/
theorem Encoding.add (f : RI) : Encoding.Statement (.add f) := by
  cases f with
  | r f =>
    exact encodedR f rfl rfl (by decide) (by decide) rfl fun _ _ h => by subst h; rfl
  | i f =>
    exact encodedI f rfl rfl (by decide) (by decide) rfl fun _ _ h => by subst h; rfl

/-- The word of sub. -/
theorem Encoding.sub (f : RI) : Encoding.Statement (.sub f) := by
  cases f with
  | r f =>
    exact encodedR f rfl rfl (by decide) (by decide) rfl fun _ _ h => by subst h; rfl
  | i f =>
    exact encodedI f rfl rfl (by decide) (by decide) rfl fun _ _ h => by subst h; rfl

/-- The word of mul. -/
theorem Encoding.mul (f : RI) : Encoding.Statement (.mul f) := by
  cases f with
  | r f =>
    exact encodedR f rfl rfl (by decide) (by decide) rfl fun _ _ h => by subst h; rfl
  | i f =>
    exact encodedI f rfl rfl (by decide) (by decide) rfl fun _ _ h => by subst h; rfl

/-- The word of mulh. -/
theorem Encoding.mulh (f : RI) : Encoding.Statement (.mulh f) := by
  cases f with
  | r f =>
    exact encodedR f rfl rfl (by decide) (by decide) rfl fun _ _ h => by subst h; rfl
  | i f =>
    exact encodedI f rfl rfl (by decide) (by decide) rfl fun _ _ h => by subst h; rfl

/-- The word of mulhb. -/
theorem Encoding.mulhb (f : RI) : Encoding.Statement (.mulhb f) := by
  cases f with
  | r f =>
    exact encodedR f rfl rfl (by decide) (by decide) rfl fun _ _ h => by subst h; rfl
  | i f =>
    exact encodedI f rfl rfl (by decide) (by decide) rfl fun _ _ h => by subst h; rfl

/-- The word of div. -/
theorem Encoding.div (f : RI) : Encoding.Statement (.div f) := by
  cases f with
  | r f =>
    exact encodedR f rfl rfl (by decide) (by decide) rfl fun _ _ h => by subst h; rfl
  | i f =>
    exact encodedI f rfl rfl (by decide) (by decide) rfl fun _ _ h => by subst h; rfl

/-- The word of divb. -/
theorem Encoding.divb (f : RI) : Encoding.Statement (.divb f) := by
  cases f with
  | r f =>
    exact encodedR f rfl rfl (by decide) (by decide) rfl fun _ _ h => by subst h; rfl
  | i f =>
    exact encodedI f rfl rfl (by decide) (by decide) rfl fun _ _ h => by subst h; rfl

/-- The word of rem. -/
theorem Encoding.rem (f : RI) : Encoding.Statement (.rem f) := by
  cases f with
  | r f =>
    exact encodedR f rfl rfl (by decide) (by decide) rfl fun _ _ h => by subst h; rfl
  | i f =>
    exact encodedI f rfl rfl (by decide) (by decide) rfl fun _ _ h => by subst h; rfl

/-- The word of remb. -/
theorem Encoding.remb (f : RI) : Encoding.Statement (.remb f) := by
  cases f with
  | r f =>
    exact encodedR f rfl rfl (by decide) (by decide) rfl fun _ _ h => by subst h; rfl
  | i f =>
    exact encodedI f rfl rfl (by decide) (by decide) rfl fun _ _ h => by subst h; rfl

/-- The word of neg. -/
theorem Encoding.neg (f : RI) : Encoding.Statement (.neg f) := by
  cases f with
  | r f =>
    exact encodedR f rfl rfl (by decide) (by decide) rfl fun _ _ h => by subst h; rfl
  | i f =>
    exact encodedI f rfl rfl (by decide) (by decide) rfl fun _ _ h => by subst h; rfl

/-- The word of abs. -/
theorem Encoding.abs (f : RI) : Encoding.Statement (.abs f) := by
  cases f with
  | r f =>
    exact encodedR f rfl rfl (by decide) (by decide) rfl fun _ _ h => by subst h; rfl
  | i f =>
    exact encodedI f rfl rfl (by decide) (by decide) rfl fun _ _ h => by subst h; rfl

/-- The word of min. -/
theorem Encoding.min (f : RI) : Encoding.Statement (.min f) := by
  cases f with
  | r f =>
    exact encodedR f rfl rfl (by decide) (by decide) rfl fun _ _ h => by subst h; rfl
  | i f =>
    exact encodedI f rfl rfl (by decide) (by decide) rfl fun _ _ h => by subst h; rfl

/-- The word of max. -/
theorem Encoding.max (f : RI) : Encoding.Statement (.max f) := by
  cases f with
  | r f =>
    exact encodedR f rfl rfl (by decide) (by decide) rfl fun _ _ h => by subst h; rfl
  | i f =>
    exact encodedI f rfl rfl (by decide) (by decide) rfl fun _ _ h => by subst h; rfl

/-- The word of minb. -/
theorem Encoding.minb (f : RI) : Encoding.Statement (.minb f) := by
  cases f with
  | r f =>
    exact encodedR f rfl rfl (by decide) (by decide) rfl fun _ _ h => by subst h; rfl
  | i f =>
    exact encodedI f rfl rfl (by decide) (by decide) rfl fun _ _ h => by subst h; rfl

/-- The word of maxb. -/
theorem Encoding.maxb (f : RI) : Encoding.Statement (.maxb f) := by
  cases f with
  | r f =>
    exact encodedR f rfl rfl (by decide) (by decide) rfl fun _ _ h => by subst h; rfl
  | i f =>
    exact encodedI f rfl rfl (by decide) (by decide) rfl fun _ _ h => by subst h; rfl

/-- The word of and. -/
theorem Encoding.and (f : RI) : Encoding.Statement (.and f) := by
  cases f with
  | r f =>
    exact encodedR f rfl rfl (by decide) (by decide) rfl fun _ _ h => by subst h; rfl
  | i f =>
    exact encodedI f rfl rfl (by decide) (by decide) rfl fun _ _ h => by subst h; rfl

/-- The word of or. -/
theorem Encoding.or (f : RI) : Encoding.Statement (.or f) := by
  cases f with
  | r f =>
    exact encodedR f rfl rfl (by decide) (by decide) rfl fun _ _ h => by subst h; rfl
  | i f =>
    exact encodedI f rfl rfl (by decide) (by decide) rfl fun _ _ h => by subst h; rfl

/-- The word of xor. -/
theorem Encoding.xor (f : RI) : Encoding.Statement (.xor f) := by
  cases f with
  | r f =>
    exact encodedR f rfl rfl (by decide) (by decide) rfl fun _ _ h => by subst h; rfl
  | i f =>
    exact encodedI f rfl rfl (by decide) (by decide) rfl fun _ _ h => by subst h; rfl

/-- The word of andn. -/
theorem Encoding.andn (f : RI) : Encoding.Statement (.andn f) := by
  cases f with
  | r f =>
    exact encodedR f rfl rfl (by decide) (by decide) rfl fun _ _ h => by subst h; rfl
  | i f =>
    exact encodedI f rfl rfl (by decide) (by decide) rfl fun _ _ h => by subst h; rfl

/-- The word of shl. -/
theorem Encoding.shl (f : RI) : Encoding.Statement (.shl f) := by
  cases f with
  | r f =>
    exact encodedR f rfl rfl (by decide) (by decide) rfl fun _ _ h => by subst h; rfl
  | i f =>
    exact encodedI f rfl rfl (by decide) (by decide) rfl fun _ _ h => by subst h; rfl

/-- The word of shr. -/
theorem Encoding.shr (f : RI) : Encoding.Statement (.shr f) := by
  cases f with
  | r f =>
    exact encodedR f rfl rfl (by decide) (by decide) rfl fun _ _ h => by subst h; rfl
  | i f =>
    exact encodedI f rfl rfl (by decide) (by decide) rfl fun _ _ h => by subst h; rfl

/-- The word of sra. -/
theorem Encoding.sra (f : RI) : Encoding.Statement (.sra f) := by
  cases f with
  | r f =>
    exact encodedR f rfl rfl (by decide) (by decide) rfl fun _ _ h => by subst h; rfl
  | i f =>
    exact encodedI f rfl rfl (by decide) (by decide) rfl fun _ _ h => by subst h; rfl

/-- The word of rot. -/
theorem Encoding.rot (f : RI) : Encoding.Statement (.rot f) := by
  cases f with
  | r f =>
    exact encodedR f rfl rfl (by decide) (by decide) rfl fun _ _ h => by subst h; rfl
  | i f =>
    exact encodedI f rfl rfl (by decide) (by decide) rfl fun _ _ h => by subst h; rfl

/-- The word of clz. -/
theorem Encoding.clz (f : RI) : Encoding.Statement (.clz f) := by
  cases f with
  | r f =>
    exact encodedR f rfl rfl (by decide) (by decide) rfl fun _ _ h => by subst h; rfl
  | i f =>
    exact encodedI f rfl rfl (by decide) (by decide) rfl fun _ _ h => by subst h; rfl

/-- The word of ctz. -/
theorem Encoding.ctz (f : RI) : Encoding.Statement (.ctz f) := by
  cases f with
  | r f =>
    exact encodedR f rfl rfl (by decide) (by decide) rfl fun _ _ h => by subst h; rfl
  | i f =>
    exact encodedI f rfl rfl (by decide) (by decide) rfl fun _ _ h => by subst h; rfl

/-- The word of popc. -/
theorem Encoding.popc (f : RI) : Encoding.Statement (.popc f) := by
  cases f with
  | r f =>
    exact encodedR f rfl rfl (by decide) (by decide) rfl fun _ _ h => by subst h; rfl
  | i f =>
    exact encodedI f rfl rfl (by decide) (by decide) rfl fun _ _ h => by subst h; rfl

/-- The word of bswap. -/
theorem Encoding.bswap (f : RI) : Encoding.Statement (.bswap f) := by
  cases f with
  | r f =>
    exact encodedR f rfl rfl (by decide) (by decide) rfl fun _ _ h => by subst h; rfl
  | i f =>
    exact encodedI f rfl rfl (by decide) (by decide) rfl fun _ _ h => by subst h; rfl

/-- The word of bfx. -/
theorem Encoding.bfx (f : RI) : Encoding.Statement (.bfx f) := by
  cases f with
  | r f =>
    exact encodedR f rfl rfl (by decide) (by decide) rfl fun _ _ h => by subst h; rfl
  | i f =>
    exact encodedI f rfl rfl (by decide) (by decide) rfl fun _ _ h => by subst h; rfl

/-- The word of bfi. -/
theorem Encoding.bfi (f : RI) : Encoding.Statement (.bfi f) := by
  cases f with
  | r f =>
    exact encodedR f rfl rfl (by decide) (by decide) rfl fun _ _ h => by subst h; rfl
  | i f =>
    exact encodedI f rfl rfl (by decide) (by decide) rfl fun _ _ h => by subst h; rfl

/-- The word of ext. -/
theorem Encoding.ext (f : RI) : Encoding.Statement (.ext f) := by
  cases f with
  | r f =>
    exact encodedR f rfl rfl (by decide) (by decide) rfl fun _ _ h => by subst h; rfl
  | i f =>
    exact encodedI f rfl rfl (by decide) (by decide) rfl fun _ _ h => by subst h; rfl

/-- The word of sel. -/
theorem Encoding.sel (f : RI) : Encoding.Statement (.sel f) := by
  cases f with
  | r f =>
    exact encodedR f rfl rfl (by decide) (by decide) rfl fun _ _ h => by subst h; rfl
  | i f =>
    exact encodedI f rfl rfl (by decide) (by decide) rfl fun _ _ h => by subst h; rfl

/-- The word of mov. -/
theorem Encoding.mov (f : RI) : Encoding.Statement (.mov f) := by
  cases f with
  | r f =>
    exact encodedR f rfl rfl (by decide) (by decide) rfl fun _ _ h => by subst h; rfl
  | i f =>
    exact encodedI f rfl rfl (by decide) (by decide) rfl fun _ _ h => by subst h; rfl

/-- The word of movi. -/
theorem Encoding.movi (f : IForm) : Encoding.Statement (.movi f) := 
  encodedI f rfl rfl (by decide) (by decide) rfl fun _ _ h => by subst h; rfl

/-- The word of moviLong. -/
theorem Encoding.moviLong (f : LForm) : Encoding.Statement (.moviLong f) := 
  encodedL f rfl rfl (by decide) (by decide) rfl fun _ _ h => by subst h; rfl

/-- The word of movh. -/
theorem Encoding.movh (f : IForm) : Encoding.Statement (.movh f) := 
  encodedI f rfl rfl (by decide) (by decide) rfl fun _ _ h => by subst h; rfl

/-- The word of cmp. -/
theorem Encoding.cmp (f : RI) : Encoding.Statement (.cmp f) := by
  cases f with
  | r f =>
    exact encodedR f rfl rfl (by decide) (by decide) rfl fun _ _ h => by subst h; rfl
  | i f =>
    exact encodedI f rfl rfl (by decide) (by decide) rfl fun _ _ h => by subst h; rfl

/-- The word of tst. -/
theorem Encoding.tst (f : RI) : Encoding.Statement (.tst f) := by
  cases f with
  | r f =>
    exact encodedR f rfl rfl (by decide) (by decide) rfl fun _ _ h => by subst h; rfl
  | i f =>
    exact encodedI f rfl rfl (by decide) (by decide) rfl fun _ _ h => by subst h; rfl

/-- The word of lea. -/
theorem Encoding.lea (f : MForm) : Encoding.Statement (.lea f) := 
  encodedM f rfl rfl (by decide) (by decide) rfl fun _ _ h => by subst h; rfl

/-- The word of adda. -/
theorem Encoding.adda (f : RI) : Encoding.Statement (.adda f) := by
  cases f with
  | r f =>
    exact encodedR f rfl rfl (by decide) (by decide) rfl fun _ _ h => by subst h; rfl
  | i f =>
    exact encodedI f rfl rfl (by decide) (by decide) rfl fun _ _ h => by subst h; rfl

/-- The word of suba. -/
theorem Encoding.suba (f : RI) : Encoding.Statement (.suba f) := by
  cases f with
  | r f =>
    exact encodedR f rfl rfl (by decide) (by decide) rfl fun _ _ h => by subst h; rfl
  | i f =>
    exact encodedI f rfl rfl (by decide) (by decide) rfl fun _ _ h => by subst h; rfl

/-- The word of sptst. -/
theorem Encoding.sptst (f : RI) : Encoding.Statement (.sptst f) := by
  cases f with
  | r f =>
    exact encodedR f rfl rfl (by decide) (by decide) rfl fun _ _ h => by subst h; rfl
  | i f =>
    exact encodedI f rfl rfl (by decide) (by decide) rfl fun _ _ h => by subst h; rfl

/-- The word of spcst. -/
theorem Encoding.spcst (f : RI) : Encoding.Statement (.spcst f) := by
  cases f with
  | r f =>
    exact encodedR f rfl rfl (by decide) (by decide) rfl fun _ _ h => by subst h; rfl
  | i f =>
    exact encodedI f rfl rfl (by decide) (by decide) rfl fun _ _ h => by subst h; rfl

/-- The word of awin. -/
theorem Encoding.awin (f : RI) : Encoding.Statement (.awin f) := by
  cases f with
  | r f =>
    exact encodedR f rfl rfl (by decide) (by decide) rfl fun _ _ h => by subst h; rfl
  | i f =>
    exact encodedI f rfl rfl (by decide) (by decide) rfl fun _ _ h => by subst h; rfl

/-- The word of pand. -/
theorem Encoding.pand (f : RForm) : Encoding.Statement (.pand f) := 
  encodedR f rfl rfl (by decide) (by decide) rfl fun _ _ h => by subst h; rfl

/-- The word of por. -/
theorem Encoding.por (f : RForm) : Encoding.Statement (.por f) := 
  encodedR f rfl rfl (by decide) (by decide) rfl fun _ _ h => by subst h; rfl

/-- The word of pxor. -/
theorem Encoding.pxor (f : RForm) : Encoding.Statement (.pxor f) := 
  encodedR f rfl rfl (by decide) (by decide) rfl fun _ _ h => by subst h; rfl

/-- The word of pnot. -/
theorem Encoding.pnot (f : RForm) : Encoding.Statement (.pnot f) := 
  encodedR f rfl rfl (by decide) (by decide) rfl fun _ _ h => by subst h; rfl

/-- The word of pmov. -/
theorem Encoding.pmov (f : RForm) : Encoding.Statement (.pmov f) := 
  encodedR f rfl rfl (by decide) (by decide) rfl fun _ _ h => by subst h; rfl

/-- The word of pset. -/
theorem Encoding.pset (f : RForm) : Encoding.Statement (.pset f) := by
  exact encodedR f rfl rfl (by decide) (by decide) rfl fun hc w h => by
    have hm := sub_masked (legal_bad4 rfl hc)
    have := bit_of_mask (i := 7) hm (by show Nat.testBit (1023 - 127) 7 = true; decide)
    subst h
    rw [testBit_bitvec] at this
    simp only [Decode.pset, rOnly, this]
    rfl

/-- The word of psetReg. -/
theorem Encoding.psetReg (f : RForm) : Encoding.Statement (.psetReg f) := by
  exact encodedR f rfl rfl (by decide) (by decide) rfl fun hc w h => by
    have := more_r (legal_bad4 rfl hc)
    subst h
    simp only [bne_eq_false_iff_eq] at this
    simp [Decode.pset, rOnly, this]

/-- The word of pcnt. -/
theorem Encoding.pcnt (f : RForm) : Encoding.Statement (.pcnt f) := 
  encodedR f rfl rfl (by decide) (by decide) rfl fun _ _ h => by subst h; rfl

/-- The word of pfirst. -/
theorem Encoding.pfirst (f : RForm) : Encoding.Statement (.pfirst f) := 
  encodedR f rfl rfl (by decide) (by decide) rfl fun _ _ h => by subst h; rfl

/-- The word of pany. -/
theorem Encoding.pany (f : RForm) : Encoding.Statement (.pany f) := 
  encodedR f rfl rfl (by decide) (by decide) rfl fun _ _ h => by subst h; rfl

/-- The word of br. -/
theorem Encoding.br (f : LForm) : Encoding.Statement (.br f) := 
  encodedL f rfl rfl (by decide) (by decide) rfl fun _ _ h => by subst h; rfl

/-- The word of brc. -/
theorem Encoding.brc (f : LForm) : Encoding.Statement (.brc f) := 
  encodedL f rfl rfl (by decide) (by decide) rfl fun _ _ h => by subst h; rfl

/-- The word of bri. -/
theorem Encoding.bri (f : RForm) : Encoding.Statement (.bri f) := 
  encodedR f rfl rfl (by decide) (by decide) rfl fun _ _ h => by subst h; rfl

/-- The word of call. -/
theorem Encoding.call (f : LForm) : Encoding.Statement (.call f) := 
  encodedL f rfl rfl (by decide) (by decide) rfl fun _ _ h => by subst h; rfl

/-- The word of calli. -/
theorem Encoding.calli (f : RForm) : Encoding.Statement (.calli f) := 
  encodedR f rfl rfl (by decide) (by decide) rfl fun _ _ h => by subst h; rfl

/-- The word of ret. -/
theorem Encoding.ret (f : RForm) : Encoding.Statement (.ret f) := 
  encodedR f rfl rfl (by decide) (by decide) rfl fun _ _ h => by subst h; rfl

/-- The word of loop. -/
theorem Encoding.loop (f : LForm) : Encoding.Statement (.loop f) := 
  encodedL f rfl rfl (by decide) (by decide) rfl fun _ _ h => by subst h; rfl

/-- The word of lbrk. -/
theorem Encoding.lbrk (f : RForm) : Encoding.Statement (.lbrk f) := 
  encodedR f rfl rfl (by decide) (by decide) rfl fun _ _ h => by subst h; rfl

/-- The word of lcnt. -/
theorem Encoding.lcnt (f : RForm) : Encoding.Statement (.lcnt f) := 
  encodedR f rfl rfl (by decide) (by decide) rfl fun _ _ h => by subst h; rfl

/-- The word of halt. -/
theorem Encoding.halt (f : RForm) : Encoding.Statement (.halt f) := 
  encodedR f rfl rfl (by decide) (by decide) rfl fun _ _ h => by subst h; rfl

/-- The word of fadd. -/
theorem Encoding.fadd (f : RI) : Encoding.Statement (.fadd f) := by
  cases f with
  | r f =>
    exact encodedR f rfl rfl (by decide) (by decide) rfl fun _ _ h => by subst h; rfl
  | i f =>
    exact encodedI f rfl rfl (by decide) (by decide) rfl fun _ _ h => by subst h; rfl

/-- The word of fsub. -/
theorem Encoding.fsub (f : RI) : Encoding.Statement (.fsub f) := by
  cases f with
  | r f =>
    exact encodedR f rfl rfl (by decide) (by decide) rfl fun _ _ h => by subst h; rfl
  | i f =>
    exact encodedI f rfl rfl (by decide) (by decide) rfl fun _ _ h => by subst h; rfl

/-- The word of fmul. -/
theorem Encoding.fmul (f : RI) : Encoding.Statement (.fmul f) := by
  cases f with
  | r f =>
    exact encodedR f rfl rfl (by decide) (by decide) rfl fun _ _ h => by subst h; rfl
  | i f =>
    exact encodedI f rfl rfl (by decide) (by decide) rfl fun _ _ h => by subst h; rfl

/-- The word of ffma. -/
theorem Encoding.ffma (f : RI) : Encoding.Statement (.ffma f) := by
  cases f with
  | r f =>
    exact encodedR f rfl rfl (by decide) (by decide) rfl fun _ _ h => by subst h; rfl
  | i f =>
    exact encodedI f rfl rfl (by decide) (by decide) rfl fun _ _ h => by subst h; rfl

/-- The word of fdiv. -/
theorem Encoding.fdiv (f : RI) : Encoding.Statement (.fdiv f) := by
  cases f with
  | r f =>
    exact encodedR f rfl rfl (by decide) (by decide) rfl fun _ _ h => by subst h; rfl
  | i f =>
    exact encodedI f rfl rfl (by decide) (by decide) rfl fun _ _ h => by subst h; rfl

/-- The word of fsqrt. -/
theorem Encoding.fsqrt (f : RI) : Encoding.Statement (.fsqrt f) := by
  cases f with
  | r f =>
    exact encodedR f rfl rfl (by decide) (by decide) rfl fun _ _ h => by subst h; rfl
  | i f =>
    exact encodedI f rfl rfl (by decide) (by decide) rfl fun _ _ h => by subst h; rfl

/-- The word of fmin. -/
theorem Encoding.fmin (f : RI) : Encoding.Statement (.fmin f) := by
  cases f with
  | r f =>
    exact encodedR f rfl rfl (by decide) (by decide) rfl fun _ _ h => by subst h; rfl
  | i f =>
    exact encodedI f rfl rfl (by decide) (by decide) rfl fun _ _ h => by subst h; rfl

/-- The word of fmax. -/
theorem Encoding.fmax (f : RI) : Encoding.Statement (.fmax f) := by
  cases f with
  | r f =>
    exact encodedR f rfl rfl (by decide) (by decide) rfl fun _ _ h => by subst h; rfl
  | i f =>
    exact encodedI f rfl rfl (by decide) (by decide) rfl fun _ _ h => by subst h; rfl

/-- The word of fcmp. -/
theorem Encoding.fcmp (f : RI) : Encoding.Statement (.fcmp f) := by
  cases f with
  | r f =>
    exact encodedR f rfl rfl (by decide) (by decide) rfl fun _ _ h => by subst h; rfl
  | i f =>
    exact encodedI f rfl rfl (by decide) (by decide) rfl fun _ _ h => by subst h; rfl

/-- The word of fcvt. -/
theorem Encoding.fcvt (f : RI) : Encoding.Statement (.fcvt f) := by
  cases f with
  | r f =>
    exact encodedR f rfl rfl (by decide) (by decide) rfl fun _ _ h => by subst h; rfl
  | i f =>
    exact encodedI f rfl rfl (by decide) (by decide) rfl fun _ _ h => by subst h; rfl

/-- The word of fclass. -/
theorem Encoding.fclass (f : RI) : Encoding.Statement (.fclass f) := by
  cases f with
  | r f =>
    exact encodedR f rfl rfl (by decide) (by decide) rfl fun _ _ h => by subst h; rfl
  | i f =>
    exact encodedI f rfl rfl (by decide) (by decide) rfl fun _ _ h => by subst h; rfl

/-- The word of ld. -/
theorem Encoding.ld (f : MForm) : Encoding.Statement (.ld f) := 
  encodedM f rfl rfl (by decide) (by decide) rfl fun _ _ h => by subst h; rfl

/-- The word of st. -/
theorem Encoding.st (f : MForm) : Encoding.Statement (.st f) := 
  encodedM f rfl rfl (by decide) (by decide) rfl fun _ _ h => by subst h; rfl

/-- The word of ldl. -/
theorem Encoding.ldl (f : MForm) : Encoding.Statement (.ldl f) := 
  encodedM f rfl rfl (by decide) (by decide) rfl fun _ _ h => by subst h; rfl

/-- The word of vldl. -/
theorem Encoding.vldl (f : MForm) : Encoding.Statement (.vldl f) := 
  encodedM f rfl rfl (by decide) (by decide) rfl fun _ _ h => by subst h; rfl

/-- The word of prb. -/
theorem Encoding.prb (f : MForm) : Encoding.Statement (.prb f) := 
  encodedM f rfl rfl (by decide) (by decide) rfl fun _ _ h => by subst h; rfl

/-- The word of atom. -/
theorem Encoding.atom (f : MForm) : Encoding.Statement (.atom f) := 
  encodedM f rfl rfl (by decide) (by decide) rfl fun _ _ h => by subst h; rfl

/-- The word of atomf. -/
theorem Encoding.atomf (f : MForm) : Encoding.Statement (.atomf f) := 
  encodedM f rfl rfl (by decide) (by decide) rfl fun _ _ h => by subst h; rfl

/-- The word of cas. -/
theorem Encoding.cas (f : MForm) : Encoding.Statement (.cas f) := 
  encodedM f rfl rfl (by decide) (by decide) rfl fun _ _ h => by subst h; rfl

/-- The word of amaxr. -/
theorem Encoding.amaxr (f : MForm) : Encoding.Statement (.amaxr f) := 
  encodedM f rfl rfl (by decide) (by decide) rfl fun _ _ h => by subst h; rfl

/-- The word of bind. -/
theorem Encoding.bind (f : MForm) : Encoding.Statement (.bind f) := 
  encodedM f rfl rfl (by decide) (by decide) rfl fun _ _ h => by subst h; rfl

/-- The word of unbnd. -/
theorem Encoding.unbnd (f : MForm) : Encoding.Statement (.unbnd f) := 
  encodedM f rfl rfl (by decide) (by decide) rfl fun _ _ h => by subst h; rfl

/-- The word of acq. -/
theorem Encoding.acq (f : MForm) : Encoding.Statement (.acq f) := 
  encodedM f rfl rfl (by decide) (by decide) rfl fun _ _ h => by subst h; rfl

/-- The word of rel. -/
theorem Encoding.rel (f : MForm) : Encoding.Statement (.rel f) := 
  encodedM f rfl rfl (by decide) (by decide) rfl fun _ _ h => by subst h; rfl

/-- The word of fence. -/
theorem Encoding.fence (f : RI) : Encoding.Statement (.fence f) := by
  cases f with
  | r f =>
    exact encodedR f rfl rfl (by decide) (by decide) rfl fun _ _ h => by subst h; rfl
  | i f =>
    exact encodedI f rfl rfl (by decide) (by decide) rfl fun _ _ h => by subst h; rfl

/-- The word of waittl. -/
theorem Encoding.waittl (f : RI) : Encoding.Statement (.waittl f) := by
  cases f with
  | r f =>
    exact encodedR f rfl rfl (by decide) (by decide) rfl fun hc _ h => by
      subst h
      have := bit_of_mask (m := 1023 - 15) (i := 4) (sub_masked (legal_bad4 rfl hc)) (by decide)
      rw [testBit_bitvec] at this
      simp only [Decode.waittl, ri, subOf, this]
      rfl
  | i f =>
    exact encodedI f rfl rfl (by decide) (by decide) rfl fun hc _ h => by
      subst h
      have := more_i (legal_bad4 rfl hc)
      simp only [Bool.or_false, Bool.or_eq_false_iff, bne_eq_false_iff_eq] at this
      have := bit_of_mask (i := 4) this.1 (by decide)
      rw [testBit_bitvec] at this
      simp only [Decode.waittl, ri, subOf, this]
      rfl

/-- The word of waittlArm. -/
theorem Encoding.waittlArm (f : RI) : Encoding.Statement (.waittlArm f) := by
  cases f with
  | r f =>
    exact encodedR f rfl rfl (by decide) (by decide) rfl fun hc _ h => by
      subst h
      have := more_r (legal_bad4 rfl hc)
      simp only [Bool.not_eq_false'] at this
      simp [Decode.waittl, ri, subOf, this]
  | i f =>
    exact encodedI f rfl rfl (by decide) (by decide) rfl fun hc _ h => by
      subst h
      have := more_i (legal_bad4 rfl hc)
      simp only [Bool.or_false, Bool.or_eq_false_iff, Bool.not_eq_false'] at this
      simp only [Decode.waittl, ri, subOf, this.1.2]
      rfl

/-- The word of tlrd. -/
theorem Encoding.tlrd (f : RI) : Encoding.Statement (.tlrd f) := by
  cases f with
  | r f =>
    exact encodedR f rfl rfl (by decide) (by decide) rfl fun hc _ h => by
      subst h
      have := more_r (legal_bad4 rfl hc)
      simp only [fld_same] at this
      exact congrArg some (if_neg (of_decide_eq_false this))
  | i f =>
    exact encodedI f rfl rfl (by decide) (by decide) rfl fun hc _ h => by
      subst h
      have := more_i (legal_bad4 rfl hc)
      simp only [Bool.or_eq_false_iff, fld_same] at this
      exact congrArg some (if_neg (of_decide_eq_false this.1.2))

/-- The word of tlrdClear. -/
theorem Encoding.tlrdClear (f : RI) : Encoding.Statement (.tlrdClear f) := by
  cases f with
  | r f =>
    exact encodedR f rfl rfl (by decide) (by decide) rfl fun hc _ h => by
      subst h
      have := more_r (legal_bad4 rfl hc)
      simp only [bne_eq_false_iff_eq, fld_same] at this
      exact congrArg some (if_pos this)
  | i f =>
    exact encodedI f rfl rfl (by decide) (by decide) rfl fun hc _ h => by
      subst h
      have := more_i (legal_bad4 rfl hc)
      simp only [Bool.or_eq_false_iff, bne_eq_false_iff_eq, fld_same] at this
      exact congrArg some (if_pos this.1.2)

/-- The word of bar. -/
theorem Encoding.bar (f : RI) : Encoding.Statement (.bar f) := by
  cases f with
  | r f =>
    exact encodedR f rfl rfl (by decide) (by decide) rfl fun _ _ h => by subst h; rfl
  | i f =>
    exact encodedI f rfl rfl (by decide) (by decide) rfl fun _ _ h => by subst h; rfl

/-- The word of arv. -/
theorem Encoding.arv (f : RI) : Encoding.Statement (.arv f) := by
  cases f with
  | r f =>
    exact encodedR f rfl rfl (by decide) (by decide) rfl fun hc _ h => by
      subst h
      have := bit_of_mask (m := 1023 - 15) (i := 4) (sub_masked (legal_bad4 rfl hc)) (by decide)
      rw [testBit_bitvec] at this
      simp only [Decode.arv, ri, this]
      rfl
  | i f =>
    exact encodedI f rfl rfl (by decide) (by decide) rfl fun _ _ h => by subst h; rfl

/-- The word of arvGated. -/
theorem Encoding.arvGated (f : RForm) : Encoding.Statement (.arvGated f) := by
  exact encodedR f rfl rfl (by decide) (by decide) rfl fun hc w h => by
    have := more_r (legal_bad4 rfl hc)
    subst h
    simp only [Bool.not_eq_false'] at this
    simp [Decode.arv, ri, this]

/-- The word of waitb. -/
theorem Encoding.waitb (f : RI) : Encoding.Statement (.waitb f) := by
  cases f with
  | r f =>
    exact encodedR f rfl rfl (by decide) (by decide) rfl fun hc _ h => by
      subst h
      have := bit_of_mask (m := 1023 - 15) (i := 4) (sub_masked (legal_bad4 rfl hc)) (by decide)
      rw [testBit_bitvec] at this
      simp only [Decode.waitb, ri, subOf, this]
      rfl
  | i f =>
    exact encodedI f rfl rfl (by decide) (by decide) rfl fun hc _ h => by
      subst h
      have := more_i (legal_bad4 rfl hc)
      simp only [Bool.or_false, Bool.or_eq_false_iff, bne_eq_false_iff_eq] at this
      have := bit_of_mask (i := 4) this.1 (by decide)
      rw [testBit_bitvec] at this
      simp only [Decode.waitb, ri, subOf, this]
      rfl

/-- The word of waitbArm. -/
theorem Encoding.waitbArm (f : RI) : Encoding.Statement (.waitbArm f) := by
  cases f with
  | r f =>
    exact encodedR f rfl rfl (by decide) (by decide) rfl fun hc _ h => by
      subst h
      have := more_r (legal_bad4 rfl hc)
      simp only [Bool.not_eq_false'] at this
      simp [Decode.waitb, ri, subOf, this]
  | i f =>
    exact encodedI f rfl rfl (by decide) (by decide) rfl fun hc _ h => by
      subst h
      have := more_i (legal_bad4 rfl hc)
      simp only [Bool.or_false, Bool.or_eq_false_iff, Bool.not_eq_false'] at this
      simp only [Decode.waitb, ri, subOf, this.1.2]
      rfl

/-- The word of sstep. -/
theorem Encoding.sstep (f : RI) : Encoding.Statement (.sstep f) := by
  cases f with
  | r f =>
    exact encodedR f rfl rfl (by decide) (by decide) rfl fun _ _ h => by subst h; rfl
  | i f =>
    exact encodedI f rfl rfl (by decide) (by decide) rfl fun _ _ h => by subst h; rfl

/-- The word of rstk. -/
theorem Encoding.rstk (f : MForm) : Encoding.Statement (.rstk f) := 
  encodedM f rfl rfl (by decide) (by decide) rfl fun _ _ h => by subst h; rfl

/-- The word of rstd. -/
theorem Encoding.rstd (f : MForm) : Encoding.Statement (.rstd f) := 
  encodedM f rfl rfl (by decide) (by decide) rfl fun _ _ h => by subst h; rfl

/-- The word of ratom. -/
theorem Encoding.ratom (f : MForm) : Encoding.Statement (.ratom f) := 
  encodedM f rfl rfl (by decide) (by decide) rfl fun _ _ h => by subst h; rfl

/-- The word of tkwt. -/
theorem Encoding.tkwt (f : RForm) : Encoding.Statement (.tkwt f) := 
  encodedR f rfl rfl (by decide) (by decide) rfl fun _ _ h => by subst h; rfl

/-- The word of tkrd. -/
theorem Encoding.tkrd (f : RForm) : Encoding.Statement (.tkrd f) := 
  encodedR f rfl rfl (by decide) (by decide) rfl fun _ _ h => by subst h; rfl

/-- The word of tkclr. -/
theorem Encoding.tkclr (f : RForm) : Encoding.Statement (.tkclr f) := 
  encodedR f rfl rfl (by decide) (by decide) rfl fun _ _ h => by subst h; rfl

/-- The word of trap. -/
theorem Encoding.trap (f : RI) : Encoding.Statement (.trap f) := by
  cases f with
  | r f =>
    exact encodedR f rfl rfl (by decide) (by decide) rfl fun _ _ h => by subst h; rfl
  | i f =>
    exact encodedI f rfl rfl (by decide) (by decide) rfl fun _ _ h => by subst h; rfl

/-- The word of eretResume. -/
theorem Encoding.eretResume (f : RI) : Encoding.Statement (.eretResume f) := by
  cases f with
  | r f =>
    exact encodedR f rfl rfl (by decide) (by decide) rfl fun hc _ h => by
      subst h
      have h0 := bit_of_mask (i := 0) (sub_masked (legal_bad4 rfl hc)) (by decide)
      have h1 := bit_of_mask (i := 1) (sub_masked (legal_bad4 rfl hc)) (by decide)
      simp [Decode.eret, ri, low_two h0 h1]
  | i f =>
    exact encodedI f rfl rfl (by decide) (by decide) rfl fun hc _ h => by
      subst h
      have := more_i (legal_bad4 rfl hc)
      simp only [bne_eq_false_iff_eq] at this
      simp [Decode.eret, ri, this, Bits.fld]

/-- The word of eretSkip. -/
theorem Encoding.eretSkip (f : RI) : Encoding.Statement (.eretSkip f) := by
  cases f with
  | r f =>
    exact encodedR f rfl rfl (by decide) (by decide) rfl fun hc _ h => by
      subst h
      have := more_r (legal_bad4 rfl hc)
      simp only [bne_eq_false_iff_eq] at this
      simp [Decode.eret, ri, this, Bits.fld]
  | i f =>
    exact encodedI f rfl rfl (by decide) (by decide) rfl fun hc _ h => by
      subst h
      have := more_i (legal_bad4 rfl hc)
      simp only [bne_eq_false_iff_eq] at this
      simp [Decode.eret, ri, this, Bits.fld]

/-- The word of eretRedirect. -/
theorem Encoding.eretRedirect (f : RForm) : Encoding.Statement (.eretRedirect f) := by
  exact encodedR f rfl rfl (by decide) (by decide) rfl fun hc w h => by
    have := more_r (legal_bad4 rfl hc)
    subst h
    simp only [bne_eq_false_iff_eq] at this
    simp [Decode.eret, ri, this, Bits.fld]

/-- The word of uiret. -/
theorem Encoding.uiret (f : RI) : Encoding.Statement (.uiret f) := by
  cases f with
  | r f =>
    exact encodedR f rfl rfl (by decide) (by decide) rfl fun _ _ h => by subst h; rfl
  | i f =>
    exact encodedI f rfl rfl (by decide) (by decide) rfl fun _ _ h => by subst h; rfl

/-- The word of crd. -/
theorem Encoding.crd (f : RI) : Encoding.Statement (.crd f) := by
  cases f with
  | r f =>
    exact encodedR f rfl rfl (by decide) (by decide) rfl fun _ _ h => by subst h; rfl
  | i f =>
    exact encodedI f rfl rfl (by decide) (by decide) rfl fun _ _ h => by subst h; rfl

/-- The word of cwr. -/
theorem Encoding.cwr (f : RI) : Encoding.Statement (.cwr f) := by
  cases f with
  | r f =>
    exact encodedR f rfl rfl (by decide) (by decide) rfl fun _ _ h => by subst h; rfl
  | i f =>
    exact encodedI f rfl rfl (by decide) (by decide) rfl fun _ _ h => by subst h; rfl

/-- The word of yield. -/
theorem Encoding.yield (f : RI) : Encoding.Statement (.yield f) := by
  cases f with
  | r f =>
    exact encodedR f rfl rfl (by decide) (by decide) rfl fun _ _ h => by subst h; rfl
  | i f =>
    exact encodedI f rfl rfl (by decide) (by decide) rfl fun _ _ h => by subst h; rfl

/-- The word of wfe. -/
theorem Encoding.wfe (f : RI) : Encoding.Statement (.wfe f) := by
  cases f with
  | r f =>
    exact encodedR f rfl rfl (by decide) (by decide) rfl fun _ _ h => by subst h; rfl
  | i f =>
    exact encodedI f rfl rfl (by decide) (by decide) rfl fun _ _ h => by subst h; rfl

/-- The word of dbrk. -/
theorem Encoding.dbrk (f : RI) : Encoding.Statement (.dbrk f) := by
  cases f with
  | r f =>
    exact encodedR f rfl rfl (by decide) (by decide) rfl fun _ _ h => by subst h; rfl
  | i f =>
    exact encodedI f rfl rfl (by decide) (by decide) rfl fun _ _ h => by subst h; rfl

/-- The word of launch. -/
theorem Encoding.launch (f : RI) : Encoding.Statement (.launch f) := by
  cases f with
  | r f =>
    exact encodedR f rfl rfl (by decide) (by decide) rfl fun _ _ h => by subst h; rfl
  | i f =>
    exact encodedI f rfl rfl (by decide) (by decide) rfl fun _ _ h => by subst h; rfl

/-- The word of prmt. -/
theorem Encoding.prmt (f : RI) : Encoding.Statement (.prmt f) := by
  cases f with
  | r f =>
    exact encodedR f rfl rfl (by decide) (by decide) rfl fun _ _ h => by subst h; rfl
  | i f =>
    exact encodedI f rfl rfl (by decide) (by decide) rfl fun _ _ h => by subst h; rfl

/-- The word of save. -/
theorem Encoding.save (f : RI) : Encoding.Statement (.save f) := by
  cases f with
  | r f =>
    exact encodedR f rfl rfl (by decide) (by decide) rfl fun _ _ h => by subst h; rfl
  | i f =>
    exact encodedI f rfl rfl (by decide) (by decide) rfl fun _ _ h => by subst h; rfl

/-- The word of ccmt. -/
theorem Encoding.ccmt (f : RForm) : Encoding.Statement (.ccmt f) := 
  encodedR f rfl rfl (by decide) (by decide) rfl fun _ _ h => by subst h; rfl

/-- The word of cckp. -/
theorem Encoding.cckp (f : RForm) : Encoding.Statement (.cckp f) := 
  encodedR f rfl rfl (by decide) (by decide) rfl fun _ _ h => by subst h; rfl

/-- The word of crpl. -/
theorem Encoding.crpl (f : RForm) : Encoding.Statement (.crpl f) := 
  encodedR f rfl rfl (by decide) (by decide) rfl fun _ _ h => by subst h; rfl

/-- The word of cfrec. -/
theorem Encoding.cfrec (f : RForm) : Encoding.Statement (.cfrec f) := 
  encodedR f rfl rfl (by decide) (by decide) rfl fun _ _ h => by subst h; rfl

/-- The word of cres. -/
theorem Encoding.cres (f : RForm) : Encoding.Statement (.cres f) := 
  encodedR f rfl rfl (by decide) (by decide) rfl fun _ _ h => by subst h; rfl

/-- The word of cmap. -/
theorem Encoding.cmap (f : RForm) : Encoding.Statement (.cmap f) := 
  encodedR f rfl rfl (by decide) (by decide) rfl fun _ _ h => by subst h; rfl

/-- The word of cref. -/
theorem Encoding.cref (f : RForm) : Encoding.Statement (.cref f) := 
  encodedR f rfl rfl (by decide) (by decide) rfl fun _ _ h => by subst h; rfl

/-- The word of cpin. -/
theorem Encoding.cpin (f : RForm) : Encoding.Statement (.cpin f) := 
  encodedR f rfl rfl (by decide) (by decide) rfl fun _ _ h => by subst h; rfl

/-- The word of cseq. -/
theorem Encoding.cseq (f : RForm) : Encoding.Statement (.cseq f) := 
  encodedR f rfl rfl (by decide) (by decide) rfl fun _ _ h => by subst h; rfl

/-- The word of ctrn. -/
theorem Encoding.ctrn (f : RForm) : Encoding.Statement (.ctrn f) := 
  encodedR f rfl rfl (by decide) (by decide) rfl fun _ _ h => by subst h; rfl

/-- The word of vadd. -/
theorem Encoding.vadd (f : RI) : Encoding.Statement (.vadd f) := by
  cases f with
  | r f =>
    exact encodedR f rfl rfl (by decide) (by decide) rfl fun _ _ h => by subst h; rfl
  | i f =>
    exact encodedI f rfl rfl (by decide) (by decide) rfl fun _ _ h => by subst h; rfl

/-- The word of vsub. -/
theorem Encoding.vsub (f : RI) : Encoding.Statement (.vsub f) := by
  cases f with
  | r f =>
    exact encodedR f rfl rfl (by decide) (by decide) rfl fun _ _ h => by subst h; rfl
  | i f =>
    exact encodedI f rfl rfl (by decide) (by decide) rfl fun _ _ h => by subst h; rfl

/-- The word of vmul. -/
theorem Encoding.vmul (f : RI) : Encoding.Statement (.vmul f) := by
  cases f with
  | r f =>
    exact encodedR f rfl rfl (by decide) (by decide) rfl fun _ _ h => by subst h; rfl
  | i f =>
    exact encodedI f rfl rfl (by decide) (by decide) rfl fun _ _ h => by subst h; rfl

/-- The word of vfma. -/
theorem Encoding.vfma (f : RI) : Encoding.Statement (.vfma f) := by
  cases f with
  | r f =>
    exact encodedR f rfl rfl (by decide) (by decide) rfl fun _ _ h => by subst h; rfl
  | i f =>
    exact encodedI f rfl rfl (by decide) (by decide) rfl fun _ _ h => by subst h; rfl

/-- The word of vfms. -/
theorem Encoding.vfms (f : RI) : Encoding.Statement (.vfms f) := by
  cases f with
  | r f =>
    exact encodedR f rfl rfl (by decide) (by decide) rfl fun _ _ h => by subst h; rfl
  | i f =>
    exact encodedI f rfl rfl (by decide) (by decide) rfl fun _ _ h => by subst h; rfl

/-- The word of vfnma. -/
theorem Encoding.vfnma (f : RI) : Encoding.Statement (.vfnma f) := by
  cases f with
  | r f =>
    exact encodedR f rfl rfl (by decide) (by decide) rfl fun _ _ h => by subst h; rfl
  | i f =>
    exact encodedI f rfl rfl (by decide) (by decide) rfl fun _ _ h => by subst h; rfl

/-- The word of vmin. -/
theorem Encoding.vmin (f : RI) : Encoding.Statement (.vmin f) := by
  cases f with
  | r f =>
    exact encodedR f rfl rfl (by decide) (by decide) rfl fun _ _ h => by subst h; rfl
  | i f =>
    exact encodedI f rfl rfl (by decide) (by decide) rfl fun _ _ h => by subst h; rfl

/-- The word of vmax. -/
theorem Encoding.vmax (f : RI) : Encoding.Statement (.vmax f) := by
  cases f with
  | r f =>
    exact encodedR f rfl rfl (by decide) (by decide) rfl fun _ _ h => by subst h; rfl
  | i f =>
    exact encodedI f rfl rfl (by decide) (by decide) rfl fun _ _ h => by subst h; rfl

/-- The word of vabs. -/
theorem Encoding.vabs (f : RI) : Encoding.Statement (.vabs f) := by
  cases f with
  | r f =>
    exact encodedR f rfl rfl (by decide) (by decide) rfl fun _ _ h => by subst h; rfl
  | i f =>
    exact encodedI f rfl rfl (by decide) (by decide) rfl fun _ _ h => by subst h; rfl

/-- The word of vneg. -/
theorem Encoding.vneg (f : RI) : Encoding.Statement (.vneg f) := by
  cases f with
  | r f =>
    exact encodedR f rfl rfl (by decide) (by decide) rfl fun _ _ h => by subst h; rfl
  | i f =>
    exact encodedI f rfl rfl (by decide) (by decide) rfl fun _ _ h => by subst h; rfl

/-- The word of vcps. -/
theorem Encoding.vcps (f : RI) : Encoding.Statement (.vcps f) := by
  cases f with
  | r f =>
    exact encodedR f rfl rfl (by decide) (by decide) rfl fun _ _ h => by subst h; rfl
  | i f =>
    exact encodedI f rfl rfl (by decide) (by decide) rfl fun _ _ h => by subst h; rfl

/-- The word of vrcps. -/
theorem Encoding.vrcps (f : RForm) : Encoding.Statement (.vrcps f) := 
  encodedR f rfl rfl (by decide) (by decide) rfl fun _ _ h => by subst h; rfl

/-- The word of vrsqs. -/
theorem Encoding.vrsqs (f : RForm) : Encoding.Statement (.vrsqs f) := 
  encodedR f rfl rfl (by decide) (by decide) rfl fun _ _ h => by subst h; rfl

/-- The word of vexp2s. -/
theorem Encoding.vexp2s (f : RForm) : Encoding.Statement (.vexp2s f) := 
  encodedR f rfl rfl (by decide) (by decide) rfl fun _ _ h => by subst h; rfl

/-- The word of vlog2s. -/
theorem Encoding.vlog2s (f : RForm) : Encoding.Statement (.vlog2s f) := 
  encodedR f rfl rfl (by decide) (by decide) rfl fun _ _ h => by subst h; rfl

/-- The word of vcvt. -/
theorem Encoding.vcvt (f : RForm) : Encoding.Statement (.vcvt f) := 
  encodedR f rfl rfl (by decide) (by decide) rfl fun _ _ h => by subst h; rfl

/-- The word of vpack. -/
theorem Encoding.vpack (f : RForm) : Encoding.Statement (.vpack f) := 
  encodedR f rfl rfl (by decide) (by decide) rfl fun _ _ h => by subst h; rfl

/-- The word of vunpk. -/
theorem Encoding.vunpk (f : RForm) : Encoding.Statement (.vunpk f) := 
  encodedR f rfl rfl (by decide) (by decide) rfl fun _ _ h => by subst h; rfl

/-- The word of vcmp. -/
theorem Encoding.vcmp (f : RForm) : Encoding.Statement (.vcmp f) := 
  encodedR f rfl rfl (by decide) (by decide) rfl fun _ _ h => by subst h; rfl

/-- The word of vsel. -/
theorem Encoding.vsel (f : RForm) : Encoding.Statement (.vsel f) := 
  encodedR f rfl rfl (by decide) (by decide) rfl fun _ _ h => by subst h; rfl

/-- The word of vmov. -/
theorem Encoding.vmov (f : RForm) : Encoding.Statement (.vmov f) := 
  encodedR f rfl rfl (by decide) (by decide) rfl fun _ _ h => by subst h; rfl

/-- The word of vbcst. -/
theorem Encoding.vbcst (f : RI) : Encoding.Statement (.vbcst f) := by
  cases f with
  | r f =>
    exact encodedR f rfl rfl (by decide) (by decide) rfl fun _ _ h => by subst h; rfl
  | i f =>
    exact encodedI f rfl rfl (by decide) (by decide) rfl fun _ _ h => by subst h; rfl

/-- The word of viota. -/
theorem Encoding.viota (f : RForm) : Encoding.Statement (.viota f) := 
  encodedR f rfl rfl (by decide) (by decide) rfl fun _ _ h => by subst h; rfl

/-- The word of vshf. -/
theorem Encoding.vshf (f : RForm) : Encoding.Statement (.vshf f) := 
  encodedR f rfl rfl (by decide) (by decide) rfl fun _ _ h => by subst h; rfl

/-- The word of vperm. -/
theorem Encoding.vperm (f : RForm) : Encoding.Statement (.vperm f) := 
  encodedR f rfl rfl (by decide) (by decide) rfl fun _ _ h => by subst h; rfl

/-- The word of vrot. -/
theorem Encoding.vrot (f : RForm) : Encoding.Statement (.vrot f) := 
  encodedR f rfl rfl (by decide) (by decide) rfl fun _ _ h => by subst h; rfl

/-- The word of vred. -/
theorem Encoding.vred (f : RForm) : Encoding.Statement (.vred f) := 
  encodedR f rfl rfl (by decide) (by decide) rfl fun _ _ h => by subst h; rfl

/-- The word of vscan. -/
theorem Encoding.vscan (f : RForm) : Encoding.Statement (.vscan f) := 
  encodedR f rfl rfl (by decide) (by decide) rfl fun _ _ h => by subst h; rfl

/-- The word of viadd. -/
theorem Encoding.viadd (f : RI) : Encoding.Statement (.viadd f) := by
  cases f with
  | r f =>
    exact encodedR f rfl rfl (by decide) (by decide) rfl fun _ _ h => by subst h; rfl
  | i f =>
    exact encodedI f rfl rfl (by decide) (by decide) rfl fun _ _ h => by subst h; rfl

/-- The word of visub. -/
theorem Encoding.visub (f : RI) : Encoding.Statement (.visub f) := by
  cases f with
  | r f =>
    exact encodedR f rfl rfl (by decide) (by decide) rfl fun _ _ h => by subst h; rfl
  | i f =>
    exact encodedI f rfl rfl (by decide) (by decide) rfl fun _ _ h => by subst h; rfl

/-- The word of vimul. -/
theorem Encoding.vimul (f : RI) : Encoding.Statement (.vimul f) := by
  cases f with
  | r f =>
    exact encodedR f rfl rfl (by decide) (by decide) rfl fun _ _ h => by subst h; rfl
  | i f =>
    exact encodedI f rfl rfl (by decide) (by decide) rfl fun _ _ h => by subst h; rfl

/-- The word of vand. -/
theorem Encoding.vand (f : RI) : Encoding.Statement (.vand f) := by
  cases f with
  | r f =>
    exact encodedR f rfl rfl (by decide) (by decide) rfl fun _ _ h => by subst h; rfl
  | i f =>
    exact encodedI f rfl rfl (by decide) (by decide) rfl fun _ _ h => by subst h; rfl

/-- The word of vor. -/
theorem Encoding.vor (f : RI) : Encoding.Statement (.vor f) := by
  cases f with
  | r f =>
    exact encodedR f rfl rfl (by decide) (by decide) rfl fun _ _ h => by subst h; rfl
  | i f =>
    exact encodedI f rfl rfl (by decide) (by decide) rfl fun _ _ h => by subst h; rfl

/-- The word of vxor. -/
theorem Encoding.vxor (f : RI) : Encoding.Statement (.vxor f) := by
  cases f with
  | r f =>
    exact encodedR f rfl rfl (by decide) (by decide) rfl fun _ _ h => by subst h; rfl
  | i f =>
    exact encodedI f rfl rfl (by decide) (by decide) rfl fun _ _ h => by subst h; rfl

/-- The word of vshl. -/
theorem Encoding.vshl (f : RI) : Encoding.Statement (.vshl f) := by
  cases f with
  | r f =>
    exact encodedR f rfl rfl (by decide) (by decide) rfl fun _ _ h => by subst h; rfl
  | i f =>
    exact encodedI f rfl rfl (by decide) (by decide) rfl fun _ _ h => by subst h; rfl

/-- The word of vshr. -/
theorem Encoding.vshr (f : RI) : Encoding.Statement (.vshr f) := by
  cases f with
  | r f =>
    exact encodedR f rfl rfl (by decide) (by decide) rfl fun _ _ h => by subst h; rfl
  | i f =>
    exact encodedI f rfl rfl (by decide) (by decide) rfl fun _ _ h => by subst h; rfl

/-- The word of vsra. -/
theorem Encoding.vsra (f : RI) : Encoding.Statement (.vsra f) := by
  cases f with
  | r f =>
    exact encodedR f rfl rfl (by decide) (by decide) rfl fun _ _ h => by subst h; rfl
  | i f =>
    exact encodedI f rfl rfl (by decide) (by decide) rfl fun _ _ h => by subst h; rfl

/-- The word of vclz. -/
theorem Encoding.vclz (f : RI) : Encoding.Statement (.vclz f) := by
  cases f with
  | r f =>
    exact encodedR f rfl rfl (by decide) (by decide) rfl fun _ _ h => by subst h; rfl
  | i f =>
    exact encodedI f rfl rfl (by decide) (by decide) rfl fun _ _ h => by subst h; rfl

/-- The word of vpopc. -/
theorem Encoding.vpopc (f : RI) : Encoding.Statement (.vpopc f) := by
  cases f with
  | r f =>
    exact encodedR f rfl rfl (by decide) (by decide) rfl fun _ _ h => by subst h; rfl
  | i f =>
    exact encodedI f rfl rfl (by decide) (by decide) rfl fun _ _ h => by subst h; rfl

/-- The word of vord. -/
theorem Encoding.vord (f : RForm) : Encoding.Statement (.vord f) := 
  encodedR f rfl rfl (by decide) (by decide) rfl fun _ _ h => by subst h; rfl

/-- The word of vdig. -/
theorem Encoding.vdig (f : RForm) : Encoding.Statement (.vdig f) := 
  encodedR f rfl rfl (by decide) (by decide) rfl fun _ _ h => by subst h; rfl

/-- The word of vamax. -/
theorem Encoding.vamax (f : RForm) : Encoding.Statement (.vamax f) := 
  encodedR f rfl rfl (by decide) (by decide) rfl fun _ _ h => by subst h; rfl

/-- The word of vqnt. -/
theorem Encoding.vqnt (f : RForm) : Encoding.Statement (.vqnt f) := 
  encodedR f rfl rfl (by decide) (by decide) rfl fun _ _ h => by subst h; rfl

/-- The word of vdqnt. -/
theorem Encoding.vdqnt (f : RForm) : Encoding.Statement (.vdqnt f) := 
  encodedR f rfl rfl (by decide) (by decide) rfl fun _ _ h => by subst h; rfl

/-- The word of vld. -/
theorem Encoding.vld (f : MForm) : Encoding.Statement (.vld f) := 
  encodedM f rfl rfl (by decide) (by decide) rfl fun _ _ h => by subst h; rfl

/-- The word of vst. -/
theorem Encoding.vst (f : MForm) : Encoding.Statement (.vst f) := 
  encodedM f rfl rfl (by decide) (by decide) rfl fun _ _ h => by subst h; rfl

/-- The word of vldg. -/
theorem Encoding.vldg (f : MForm) : Encoding.Statement (.vldg f) := 
  encodedM f rfl rfl (by decide) (by decide) rfl fun _ _ h => by subst h; rfl

/-- The word of vsts. -/
theorem Encoding.vsts (f : MForm) : Encoding.Statement (.vsts f) := 
  encodedM f rfl rfl (by decide) (by decide) rfl fun _ _ h => by subst h; rfl

/-- The word of vhadd. -/
theorem Encoding.vhadd (f : MForm) : Encoding.Statement (.vhadd f) := 
  encodedM f rfl rfl (by decide) (by decide) rfl fun _ _ h => by subst h; rfl

/-- The word of go2d. -/
theorem Encoding.go2d (f : RForm) : Encoding.Statement (.go2d f) := 
  encodedR f rfl rfl (by decide) (by decide) rfl fun _ _ h => by subst h; rfl

/-- The word of go3d. -/
theorem Encoding.go3d (f : RForm) : Encoding.Statement (.go3d f) := 
  encodedR f rfl rfl (by decide) (by decide) rfl fun _ _ h => by subst h; rfl

/-- The word of ginc. -/
theorem Encoding.ginc (f : RForm) : Encoding.Statement (.ginc f) := 
  encodedR f rfl rfl (by decide) (by decide) rfl fun _ _ h => by subst h; rfl

/-- The word of gins. -/
theorem Encoding.gins (f : RForm) : Encoding.Statement (.gins f) := 
  encodedR f rfl rfl (by decide) (by decide) rfl fun _ _ h => by subst h; rfl

/-- The word of gseg. -/
theorem Encoding.gseg (f : RForm) : Encoding.Statement (.gseg f) := 
  encodedR f rfl rfl (by decide) (by decide) rfl fun _ _ h => by subst h; rfl

/-- The word of tclm. -/
theorem Encoding.tclm (f : RForm) : Encoding.Statement (.tclm f) := 
  encodedR f rfl rfl (by decide) (by decide) rfl fun _ _ h => by subst h; rfl

/-- The word of trls. -/
theorem Encoding.trls (f : RForm) : Encoding.Statement (.trls f) := 
  encodedR f rfl rfl (by decide) (by decide) rfl fun _ _ h => by subst h; rfl

/-- The word of tld. -/
theorem Encoding.tld (f : MForm) : Encoding.Statement (.tld f) := 
  encodedM f rfl rfl (by decide) (by decide) rfl fun _ _ h => by subst h; rfl

/-- The word of mma. -/
theorem Encoding.mma (f : RForm) : Encoding.Statement (.mma f) := 
  encodedR f rfl rfl (by decide) (by decide) rfl fun _ _ h => by subst h; rfl

/-- The word of mmas. -/
theorem Encoding.mmas (f : RForm) : Encoding.Statement (.mmas f) := 
  encodedR f rfl rfl (by decide) (by decide) rfl fun _ _ h => by subst h; rfl

/-- The word of mzro. -/
theorem Encoding.mzro (f : RForm) : Encoding.Statement (.mzro f) := 
  encodedR f rfl rfl (by decide) (by decide) rfl fun _ _ h => by subst h; rfl

/-- The word of mst. -/
theorem Encoding.mst (f : MForm) : Encoding.Statement (.mst f) := 
  encodedM f rfl rfl (by decide) (by decide) rfl fun _ _ h => by subst h; rfl

/-- The word of macc. -/
theorem Encoding.macc (f : RForm) : Encoding.Statement (.macc f) := 
  encodedR f rfl rfl (by decide) (by decide) rfl fun _ _ h => by subst h; rfl

/-- The word of mtrn. -/
theorem Encoding.mtrn (f : RForm) : Encoding.Statement (.mtrn f) := 
  encodedR f rfl rfl (by decide) (by decide) rfl fun _ _ h => by subst h; rfl

/-- The word of bdset. -/
theorem Encoding.bdset (f : RI) : Encoding.Statement (.bdset f) := by
  cases f with
  | r f =>
    exact encodedR f rfl rfl (by decide) (by decide) rfl fun _ _ h => by subst h; rfl
  | i f =>
    exact encodedI f rfl rfl (by decide) (by decide) rfl fun _ _ h => by subst h; rfl

/-- The word of cord. -/
theorem Encoding.cord (f : MForm) : Encoding.Statement (.cord f) := 
  encodedM f rfl rfl (by decide) (by decide) rfl fun _ _ h => by subst h; rfl

/-- The word of tcon. -/
theorem Encoding.tcon (f : RForm) : Encoding.Statement (.tcon f) := 
  encodedR f rfl rfl (by decide) (by decide) rfl fun _ _ h => by subst h; rfl

/-- The word of tchn. -/
theorem Encoding.tchn (f : RForm) : Encoding.Statement (.tchn f) := 
  encodedR f rfl rfl (by decide) (by decide) rfl fun _ _ h => by subst h; rfl

/-- The word of tbnd. -/
theorem Encoding.tbnd (f : RForm) : Encoding.Statement (.tbnd f) := 
  encodedR f rfl rfl (by decide) (by decide) rfl fun _ _ h => by subst h; rfl

/-- The word of catt. -/
theorem Encoding.catt (f : RForm) : Encoding.Statement (.catt f) := 
  encodedR f rfl rfl (by decide) (by decide) rfl fun _ _ h => by subst h; rfl

/-- The word of capp. -/
theorem Encoding.capp (f : RForm) : Encoding.Statement (.capp f) := 
  encodedR f rfl rfl (by decide) (by decide) rfl fun _ _ h => by subst h; rfl

/-- The word of cstb. -/
theorem Encoding.cstb (f : RForm) : Encoding.Statement (.cstb f) := 
  encodedR f rfl rfl (by decide) (by decide) rfl fun _ _ h => by subst h; rfl

/-- The word of qld. -/
theorem Encoding.qld (f : MForm) : Encoding.Statement (.qld f) := 
  encodedM f rfl rfl (by decide) (by decide) rfl fun _ _ h => by subst h; rfl

/-- The word of qset. -/
theorem Encoding.qset (f : RI) : Encoding.Statement (.qset f) := by
  cases f with
  | r f =>
    exact encodedR f rfl rfl (by decide) (by decide) rfl fun _ _ h => by subst h; rfl
  | i f =>
    exact encodedI f rfl rfl (by decide) (by decide) rfl fun _ _ h => by subst h; rfl

/-- The word of cpy. -/
theorem Encoding.cpy (f : CForm) : Encoding.Statement (.cpy f) := 
  encodedC f rfl rfl (by decide) (by decide) rfl fun _ _ h => by subst h; rfl

/-- The word of tmov. -/
theorem Encoding.tmov (f : CForm) : Encoding.Statement (.tmov f) := 
  encodedC f rfl rfl (by decide) (by decide) rfl fun _ _ h => by subst h; rfl

/-- The word of gsx. -/
theorem Encoding.gsx (f : CForm) : Encoding.Statement (.gsx f) := 
  encodedC f rfl rfl (by decide) (by decide) rfl fun _ _ h => by subst h; rfl

/-- The word of fstt. -/
theorem Encoding.fstt (f : CForm) : Encoding.Statement (.fstt f) := 
  encodedC f rfl rfl (by decide) (by decide) rfl fun _ _ h => by subst h; rfl

/-- The word of fstl. -/
theorem Encoding.fstl (f : CForm) : Encoding.Statement (.fstl f) := 
  encodedC f rfl rfl (by decide) (by decide) rfl fun _ _ h => by subst h; rfl

/-- The word of xlnk. -/
theorem Encoding.xlnk (f : CForm) : Encoding.Statement (.xlnk f) := 
  encodedC f rfl rfl (by decide) (by decide) rfl fun _ _ h => by subst h; rfl

/-- The word of wstr. -/
theorem Encoding.wstr (f : CForm) : Encoding.Statement (.wstr f) := 
  encodedC f rfl rfl (by decide) (by decide) rfl fun _ _ h => by subst h; rfl

/-- The word of tful. -/
theorem Encoding.tful (f : CForm) : Encoding.Statement (.tful f) := 
  encodedC f rfl rfl (by decide) (by decide) rfl fun _ _ h => by subst h; rfl

/-- The word of temp. -/
theorem Encoding.temp (f : CForm) : Encoding.Statement (.temp f) := 
  encodedC f rfl rfl (by decide) (by decide) rfl fun _ _ h => by subst h; rfl

/-- resultWriteback is an event. -/
theorem Encoding.resultWriteback (k : Slot) : Encoding.Statement (.resultWriteback k) := no_word rfl

/-- landingDataArrival is an event. -/
theorem Encoding.landingDataArrival (resp : Nat) : Encoding.Statement (.landingDataArrival resp) := no_word rfl

/-- commandStart is an event. -/
theorem Encoding.commandStart (uid cmd : Nat) : Encoding.Statement (.commandStart uid cmd) := no_word rfl

/-- commandCompletion is an event. -/
theorem Encoding.commandCompletion (uid cmd : Nat) : Encoding.Statement (.commandCompletion uid cmd) := no_word rfl

/-- chunkRetry is an event. -/
theorem Encoding.chunkRetry (uid cmd : Nat) : Encoding.Statement (.chunkRetry uid cmd) := no_word rfl

/-- commandFailure is an event. -/
theorem Encoding.commandFailure (uid cmd : Nat) (cause : Byte) (pos : Nat) : Encoding.Statement (.commandFailure uid cmd cause pos) := no_word rfl

/-- geometryResultReady is an event. -/
theorem Encoding.geometryResultReady (entry : Nat) : Encoding.Statement (.geometryResultReady entry) := no_word rfl

/-- sstepCompletion is an event. -/
theorem Encoding.sstepCompletion (level : BitVec 3) : Encoding.Statement (.sstepCompletion level) := no_word rfl

/-- preemptionRequest is an event. -/
theorem Encoding.preemptionRequest (uid : Nat) (frz : Bool) : Encoding.Statement (.preemptionRequest uid frz) := no_word rfl

/-- resume is an event. -/
theorem Encoding.resume (uid : Nat) (intact : Bool) : Encoding.Statement (.resume uid intact) := no_word rfl

/-- quantumExpiry is an event. -/
theorem Encoding.quantumExpiry (die : BitVec 2) : Encoding.Statement (.quantumExpiry die) := no_word rfl

/-- teamPlacement is an event. -/
theorem Encoding.teamPlacement (grid team : Nat) : Encoding.Statement (.teamPlacement grid team) := no_word rfl

/-- gridEligible is an event. -/
theorem Encoding.gridEligible (grid : Nat) : Encoding.Statement (.gridEligible grid) := no_word rfl

/-- memorySideAccess is an event. -/
theorem Encoding.memorySideAccess (req : Nat) : Encoding.Statement (.memorySideAccess req) := no_word rfl

/-- remoteRequestArrival is an event. -/
theorem Encoding.remoteRequestArrival (req : Nat) : Encoding.Statement (.remoteRequestArrival req) := no_word rfl

/-- ratomHoldExpiry is an event. -/
theorem Encoding.ratomHoldExpiry (req : Nat) : Encoding.Statement (.ratomHoldExpiry req) := no_word rfl

/-- remoteResponseArrival is an event. -/
theorem Encoding.remoteResponseArrival (resp : Nat) : Encoding.Statement (.remoteResponseArrival resp) := no_word rfl

/-- rnrRetry is an event. -/
theorem Encoding.rnrRetry (req : Nat) : Encoding.Statement (.rnrRetry req) := no_word rfl

/-- rnrRetryExhausted is an event. -/
theorem Encoding.rnrRetryExhausted (req : Nat) : Encoding.Statement (.rnrRetryExhausted req) := no_word rfl

/-- ticketLanding is an event. -/
theorem Encoding.ticketLanding (die : BitVec 8) (ticket : Word) : Encoding.Statement (.ticketLanding die ticket) := no_word rfl

/-- ticketReleaseArrival is an event. -/
theorem Encoding.ticketReleaseArrival (die origin : BitVec 8) (ticket : Word) : Encoding.Statement (.ticketReleaseArrival die origin ticket) := no_word rfl

/-- ticketCancel is an event. -/
theorem Encoding.ticketCancel (die origin : BitVec 8) (ticket : Word) : Encoding.Statement (.ticketCancel die origin ticket) := no_word rfl

/-- turnstileExpiry is an event. -/
theorem Encoding.turnstileExpiry (req : Nat) : Encoding.Statement (.turnstileExpiry req) := no_word rfl

/-- controlRegisterWrite is an event. -/
theorem Encoding.controlRegisterWrite (num : BitVec 10) (v : Word) : Encoding.Statement (.controlRegisterWrite num v) := no_word rfl

/-- fpstWrite is an event. -/
theorem Encoding.fpstWrite (v : Word) : Encoding.Statement (.fpstWrite v) := no_word rfl

/-- rseedWrite is an event. -/
theorem Encoding.rseedWrite (which : BitVec 2) (v : Word) : Encoding.Statement (.rseedWrite which v) := no_word rfl

/-- preqWrite is an event. -/
theorem Encoding.preqWrite (v : Word) : Encoding.Statement (.preqWrite v) := no_word rfl

/-- wtbaseWrite is an event. -/
theorem Encoding.wtbaseWrite (v : Word) : Encoding.Statement (.wtbaseWrite v) := no_word rfl

/-- uistatWrite is an event. -/
theorem Encoding.uistatWrite (v : Word) : Encoding.Statement (.uistatWrite v) := no_word rfl

/-- memoryPortAccess is an event. -/
theorem Encoding.memoryPortAccess (req : Nat) : Encoding.Statement (.memoryPortAccess req) := no_word rfl

/-- bundleIssue is an event. -/
theorem Encoding.bundleIssue : Encoding.Statement (.bundleIssue) := no_word rfl

/-- completionInterruptDelivery is an event. -/
theorem Encoding.completionInterruptDelivery : Encoding.Statement (.completionInterruptDelivery) := no_word rfl

/-- arrayOperationComplete is an event. -/
theorem Encoding.arrayOperationComplete : Encoding.Statement (.arrayOperationComplete) := no_word rfl

/-- tchnComplete is an event. -/
theorem Encoding.tchnComplete : Encoding.Statement (.tchnComplete) := no_word rfl

/-- trapEntry is an event. -/
theorem Encoding.trapEntry : Encoding.Statement (.trapEntry) := no_word rfl

/-- contextErrorStop is an event. -/
theorem Encoding.contextErrorStop : Encoding.Statement (.contextErrorStop) := no_word rfl

/-- contextHaltComplete is an event. -/
theorem Encoding.contextHaltComplete : Encoding.Statement (.contextHaltComplete) := no_word rfl

/-- drainTimeout is an event. -/
theorem Encoding.drainTimeout : Encoding.Statement (.drainTimeout) := no_word rfl

/-- freeze is an event. -/
theorem Encoding.freeze : Encoding.Statement (.freeze) := no_word rfl

/-- stewardLivenessRequest is an event. -/
theorem Encoding.stewardLivenessRequest : Encoding.Statement (.stewardLivenessRequest) := no_word rfl

/-- stewardFailure is an event. -/
theorem Encoding.stewardFailure : Encoding.Statement (.stewardFailure) := no_word rfl

/-- windowTableAck is an event. -/
theorem Encoding.windowTableAck : Encoding.Statement (.windowTableAck) := no_word rfl

/-- parkedAccessReplay is an event. -/
theorem Encoding.parkedAccessReplay : Encoding.Statement (.parkedAccessReplay) := no_word rfl

/-- pageMigration is an event. -/
theorem Encoding.pageMigration : Encoding.Statement (.pageMigration) := no_word rfl

/-- copyOnWriteBreak is an event. -/
theorem Encoding.copyOnWriteBreak : Encoding.Statement (.copyOnWriteBreak) := no_word rfl

/-- deadlineMiss is an event. -/
theorem Encoding.deadlineMiss : Encoding.Statement (.deadlineMiss) := no_word rfl

/-- scrub is an event. -/
theorem Encoding.scrub : Encoding.Statement (.scrub) := no_word rfl

/-- resourceWithhold is an event. -/
theorem Encoding.resourceWithhold : Encoding.Statement (.resourceWithhold) := no_word rfl

/-- flitReceive is an event. -/
theorem Encoding.flitReceive : Encoding.Statement (.flitReceive) := no_word rfl

/-- replayRequest is an event. -/
theorem Encoding.replayRequest : Encoding.Statement (.replayRequest) := no_word rfl

/-- creditReturn is an event. -/
theorem Encoding.creditReturn : Encoding.Statement (.creditReturn) := no_word rfl

/-- linkStateChange is an event. -/
theorem Encoding.linkStateChange : Encoding.Statement (.linkStateChange) := no_word rfl

/-- routeSwitch is an event. -/
theorem Encoding.routeSwitch : Encoding.Statement (.routeSwitch) := no_word rfl

/-- frameReceive is an event. -/
theorem Encoding.frameReceive : Encoding.Statement (.frameReceive) := no_word rfl

/-- keyLoad is an event. -/
theorem Encoding.keyLoad : Encoding.Statement (.keyLoad) := no_word rfl

/-- keySwitch is an event. -/
theorem Encoding.keySwitch : Encoding.Statement (.keySwitch) := no_word rfl

/-- keyRetire is an event. -/
theorem Encoding.keyRetire : Encoding.Statement (.keyRetire) := no_word rfl

/-- keyExhaustion is an event. -/
theorem Encoding.keyExhaustion : Encoding.Statement (.keyExhaustion) := no_word rfl

/-- governorAnswer is an event. -/
theorem Encoding.governorAnswer : Encoding.Statement (.governorAnswer) := no_word rfl

/-- throttleChange is an event. -/
theorem Encoding.throttleChange : Encoding.Statement (.throttleChange) := no_word rfl

/-- wfeTimeout is an event. -/
theorem Encoding.wfeTimeout : Encoding.Statement (.wfeTimeout) := no_word rfl

/-- qpEntryService is an event. -/
theorem Encoding.qpEntryService : Encoding.Statement (.qpEntryService) := no_word rfl

/-- poolDeviceFailure is an event. -/
theorem Encoding.poolDeviceFailure : Encoding.Statement (.poolDeviceFailure) := no_word rfl

/-- resetBoot is an event. -/
theorem Encoding.resetBoot : Encoding.Statement (.resetBoot) := no_word rfl

/-- hostEvent is an event. -/
theorem Encoding.hostEvent : Encoding.Statement (.hostEvent) := no_word rfl

/-- mailboxLaunch is an event. -/
theorem Encoding.mailboxLaunch : Encoding.Statement (.mailboxLaunch) := no_word rfl

/-- maphost is an event. -/
theorem Encoding.maphost : Encoding.Statement (.maphost) := no_word rfl

/-- unmap is an event. -/
theorem Encoding.unmap : Encoding.Statement (.unmap) := no_word rfl

/-- errq is an event. -/
theorem Encoding.errq : Encoding.Statement (.errq) := no_word rfl

/-- kill is an event. -/
theorem Encoding.kill : Encoding.Statement (.kill) := no_word rfl

/-- qpnew is an event. -/
theorem Encoding.qpnew : Encoding.Statement (.qpnew) := no_word rfl

/-- fwstage is an event. -/
theorem Encoding.fwstage : Encoding.Statement (.fwstage) := no_word rfl

/-- evstatWrite is an event. -/
theorem Encoding.evstatWrite : Encoding.Statement (.evstatWrite) := no_word rfl

/-- errorCounterRead is an event. -/
theorem Encoding.errorCounterRead : Encoding.Statement (.errorCounterRead) := no_word rfl

/-- wakeWordStore is an event. -/
theorem Encoding.wakeWordStore : Encoding.Statement (.wakeWordStore) := no_word rfl

/-- controlRegisterAccess is an event. -/
theorem Encoding.controlRegisterAccess : Encoding.Statement (.controlRegisterAccess) := no_word rfl

/-- getVersion is an event. -/
theorem Encoding.getVersion : Encoding.Statement (.getVersion) := no_word rfl

/-- getCapabilities is an event. -/
theorem Encoding.getCapabilities : Encoding.Statement (.getCapabilities) := no_word rfl

/-- negotiateAlgorithms is an event. -/
theorem Encoding.negotiateAlgorithms : Encoding.Statement (.negotiateAlgorithms) := no_word rfl

/-- getDigests is an event. -/
theorem Encoding.getDigests : Encoding.Statement (.getDigests) := no_word rfl

/-- getCertificate is an event. -/
theorem Encoding.getCertificate : Encoding.Statement (.getCertificate) := no_word rfl

/-- challenge is an event. -/
theorem Encoding.challenge : Encoding.Statement (.challenge) := no_word rfl

/-- getMeasurements is an event. -/
theorem Encoding.getMeasurements : Encoding.Statement (.getMeasurements) := no_word rfl

/-- stewardAnswersAgain is an event. -/
theorem Encoding.stewardAnswersAgain : Encoding.Statement (.stewardAnswersAgain) := no_word rfl

/-- softError is an event. -/
theorem Encoding.softError : Encoding.Statement (.softError) := no_word rfl

/-- corePowerGate is an event. -/
theorem Encoding.corePowerGate : Encoding.Statement (.corePowerGate) := no_word rfl

/-- coreWake is an event. -/
theorem Encoding.coreWake : Encoding.Statement (.coreWake) := no_word rfl

/-- debuggerAttach is an event. -/
theorem Encoding.debuggerAttach : Encoding.Statement (.debuggerAttach) := no_word rfl

/-- evenWrite is an event. -/
theorem Encoding.evenWrite : Encoding.Statement (.evenWrite) := no_word rfl

/-- rocePacketArrival is an event. -/
theorem Encoding.rocePacketArrival : Encoding.Statement (.rocePacketArrival) := no_word rfl

/-- qpTransportRetriesExhausted is an event. -/
theorem Encoding.qpTransportRetriesExhausted : Encoding.Statement (.qpTransportRetriesExhausted) := no_word rfl

/-- flashEraseBlockReclaim is an event. -/
theorem Encoding.flashEraseBlockReclaim : Encoding.Statement (.flashEraseBlockReclaim) := no_word rfl

end Sys2Proof.Laws
end

