-- ==== Sys2Proof/Safety.lean ====
section
/-! DEFINITION. What counts as a safe run, and the terms in which claims are stated: values by type code, written out anew from
R129 and R146; an issue that acts under its guard; what an issue leaves unchanged. -/

namespace Sys2Proof.Safety

open Sys2Proof.Machine

/-! ### Safe runs -/

/-- The invariant of every step: memory stands in its canonical form. -/
def Canonical (s : State) : Prop := Mem.wf s.mem = true

/-- A step answers a next state. -/
def Completes (s : State) : Prop := ∃ t, step s = .next t

/-- `n` steps lead from `s` to `t`. -/
inductive Runs : Nat → State → State → Prop where
  | refl (s : State) : Runs 0 s s
  | step {n : Nat} {s u t : State} (h : Machine.step s = .next u) (r : Runs n u t) : Runs (n + 1) s t

/-- A safe run: no number of steps from `s` reaches a state whose step does not complete. -/
def Safe (s : State) : Prop := ∀ n t, Runs n s t → Completes t

/-! ### Values by type code -/

/-- The bits of an integer type code (R129). -/
def typeBits (t : Nat) : Nat := [64, 8, 16, 32, 64, 8, 16, 32, 64].getD t 64

/-- A word read as type code `t` reads it: two's complement for 1 to 4, unsigned otherwise (R146). -/
def typeVal (t : Nat) (w : Word) : Int :=
  match t with
  | 1 => (w.setWidth 8).toInt
  | 2 => (w.setWidth 16).toInt
  | 3 => (w.setWidth 32).toInt
  | 4 => w.toInt
  | 5 => (w.setWidth 8).toNat
  | 6 => (w.setWidth 16).toNat
  | 7 => (w.setWidth 32).toNat
  | _ => w.toNat

/-- The low bits of a word, extended to 64 bits as type code `t` extends them (R146). -/
def typeExt (t : Nat) (w : Word) : Word :=
  match t with
  | 1 => (w.setWidth 8).signExtend 64
  | 2 => (w.setWidth 16).signExtend 64
  | 3 => (w.setWidth 32).signExtend 64
  | 5 => (w.setWidth 8).setWidth 64
  | 6 => (w.setWidth 16).setWidth 64
  | 7 => (w.setWidth 32).setWidth 64
  | _ => w

/-- The least and the greatest value of a type code (R36). -/
def typeRange (t : Nat) : Int × Int :=
  match t with
  | 1 => (-0x80, 0x7F)
  | 2 => (-0x8000, 0x7FFF)
  | 3 => (-0x80000000, 0x7FFFFFFF)
  | 4 => (-0x8000000000000000, 0x7FFFFFFFFFFFFFFF)
  | 5 => (0, 0xFF)
  | 6 => (0, 0xFFFF)
  | 7 => (0, 0xFFFFFFFF)
  | _ => (0, 0xFFFFFFFFFFFFFFFF)

/-- An exact result as the destination receives it: clamped to the type's range with SAT, else its low bits (R146). -/
def typeFit (sat : Bool) (t : Nat) (r : Int) : Word :=
  BitVec.ofInt 64 (if sat then max (typeRange t).1 (min r (typeRange t).2) else typeVal t (BitVec.ofInt 64 r))

/-- An immediate of `n` bits, extended by sign for the signed types and by zero for the others (R125). -/
def immWord (t n : Nat) (imm : BitVec n) : Word := if 1 ≤ t && t ≤ 4 then imm.signExtend 64 else imm.setWidth 64

/-! ### Operations in the register or the immediate form -/

/-- The type code. -/
def dtOf : RI → Nat
  | .r f => f.dt.toNat
  | .i f => f.dt.toNat
/-- The destination. -/
def dOf : RI → Nat
  | .r f => f.d.toNat
  | .i f => f.d.toNat
/-- SAT; the immediate form has none. -/
def satOf : RI → Bool
  | .r f => f.sat
  | .i _ => false
/-- The guard predicate and its inversion (R121). -/
def guardOf : RI → BitVec 5 × Bool
  | .r f => (f.pred, f.pneg)
  | .i f => (f.pred, f.pneg)
/-- s[A]. -/
def aOf (s : State) : RI → Word
  | .r f => s.rs f.a.toNat
  | .i f => s.rs f.a.toNat
/-- s[B], or IMM extended by the type in its place (R145, R146). -/
def bOf (s : State) : RI → Word
  | .r f => s.rs f.b.toNat
  | .i f => immWord f.dt.toNat 32 f.imm
/-- The operand of a unary operation: s[A], or IMM (R146). -/
def oneOf (s : State) : RI → Word
  | .r f => s.rs f.a.toNat
  | .i f => immWord f.dt.toNat 32 f.imm
/-- s[B], or IMM zero-extended (R149, R271). -/
def countOf (s : State) : RI → Word
  | .r f => s.rs f.b.toNat
  | .i f => f.imm.setWidth 64

/-! ### What a statement compares with -/

/-- The conditions of CMP (R153). -/
def cmpHolds (cond : Nat) (x y : Int) : Prop :=
  match cond with
  | 0 => x = y
  | 1 => x ≠ y
  | 2 => x < y
  | 3 => x ≤ y
  | 4 => x > y
  | _ => x ≥ y

/-- An entry of the window table covers a global address (R200). -/
abbrev covers (w : WinEntry) (va : Nat) : Prop := w.vbase.toNat * 4096 ≤ va ∧ va < (w.vbase.toNat + w.npage.toNat) * 4096

/-- A word of memory, least significant byte first (R4). -/
def wordAt (m : Mem) (key : Nat) : Word := BitVec.ofNat 64 (Mem.readNat m key 8)

/-- The rational number that a finite value is. -/
def ratVal : Fp.FVal → Option ℚ
  | .nan _ | .inf _ => none
  | .fin neg m e => some ((if neg then -1 else 1) * (m : ℚ) * (2 : ℚ) ^ e)

/-- A finite value that is a given rational; for zero, of a given sign. -/
def IsExact (v : Fp.FVal) (q : ℚ) (zeroNeg : Bool) : Prop := ratVal v = some q ∧ (q = 0 → v.sign = zeroNeg)

/-! ### Floats and conversions -/

/-- A value that is no NaN, in the order of R156: infinities beyond the rationals, zeros of both signs equal. -/
def extVal : Fp.FVal → Option (WithBot (WithTop ℚ))
  | .nan _ => none
  | .inf neg => some (if neg then ⊥ else ((⊤ : WithTop ℚ) : WithBot (WithTop ℚ)))
  | v => (ratVal v).map fun q => ((q : WithTop ℚ) : WithBot (WithTop ℚ))

/-- The conditions of FCMP and VCMP on floats (R156). -/
def FloatHolds (cond : Nat) (x y : Fp.FVal) : Prop :=
  match extVal x, extVal y with
  | some p, some q =>
    match cond with
    | 0 => p = q
    | 1 => p ≠ q
    | 2 => p < q
    | 3 => p ≤ q
    | 4 => p > q
    | 5 => p ≥ q
    | 6 => False
    | _ => True
  | _, _ => cond = 1 ∨ cond = 6

/-- FMIN and FMAX choose between two patterns: `lesser` or `greater` of two numbers, −0 below +0; the other operand of one NaN; the
canonical NaN of two; invalid when a NaN signals (R155). -/
def Chooses (t : Fp.Fmt) (a b : Nat) (lesser greater : Nat × Fp.Flags) : Prop :=
  let x := Fp.decode t a
  let y := Fp.decode t b
  let fl := if x.isSig || y.isSig then Fp.iv else 0
  (x.isNaN = true → y.isNaN = false → lesser = (b, fl) ∧ greater = (b, fl)) ∧
  (x.isNaN = false → y.isNaN = true → lesser = (a, fl) ∧ greater = (a, fl)) ∧
  (x.isNaN = true → y.isNaN = true → lesser = (t.canonNaN, fl) ∧ greater = (t.canonNaN, fl)) ∧
  ∀ p q, extVal x = some p → extVal y = some q →
    (p < q ∨ (p = q ∧ x.sign = true ∧ y.sign = false) → lesser = (a, 0) ∧ greater = (b, 0)) ∧
    (q < p ∨ (q = p ∧ y.sign = true ∧ x.sign = false) → lesser = (b, 0) ∧ greater = (a, 0))

/-- The flags of an arithmetic result that is `v` before rounding: those of its rounding, and overflow when the magnitude rounded with no
limit on the exponent exceeds the largest finite one (R45). -/
def ArithFlags (t : Fp.Fmt) (md : Fp.Mode) (v : Fp.FVal) (fl : Fp.Flags) : Prop :=
  (∀ j < 5, j ≠ 2 → fl.getLsbD j = (Fp.round t md false 0 v).2.getLsbD j) ∧
  ((Fp.round t md false 0 v).2.getLsbD 2 = true → fl.getLsbD 2 = true) ∧
  ∀ neg m e, v = .fin neg m e → m ≠ 0 →
    let q := max (Fp.topExp m e - t.frac) t.qmin
    (fl.getLsbD 2 = true ↔ (t.maxFin.1 : ℚ) * (2 : ℚ) ^ t.maxFin.2 < ((Fp.roundUnit md neg 0 m e q).1 : ℚ) * (2 : ℚ) ^ q)

/-- `v` with flags `fl` is `x` converted to type code `dt` (R47 to R49): rounded once to a float type; to an integer type the
neighbour that the mode names, clamped with invalid beyond the range, 0 with invalid for a NaN. -/
def Converted (dt : Nat) (md : Fp.Mode) (sat : Bool) (rnd : Nat) (x : Fp.FVal) (v : Word) (fl : Fp.Flags) : Prop :=
  if 9 ≤ dt then
    v = BitVec.ofNat 64 (Fp.round (Fp.ofCode dt) md sat rnd x).1 ∧ fl = (Fp.round (Fp.ofCode dt) md sat rnd x).2
  else
    let gives (i : Int) (f : Fp.Flags) : Prop := v = BitVec.ofInt 64 i ∧ fl = f
    let lo := (typeRange dt).1
    let hi := (typeRange dt).2
    (x.isNaN = true → gives 0 Fp.iv) ∧ (∀ neg, x = .inf neg → gives (if neg then lo else hi) Fp.iv) ∧
    ∀ p : ℚ, ratVal x = some p → ∃ i : Int,
      (match md with
        | .rz => i = if 0 ≤ p then ⌊p⌋ else ⌈p⌉
        | .rup => i = ⌈p⌉
        | .rdn => i = ⌊p⌋
        | .rne => |p - i| ≤ 1 / 2 ∧ (|p - i| = 1 / 2 → i % 2 = 0)
        | .rsto => 0 ≤ p * i ∧ i.natAbs = ⌊|p|⌋₊ +
            if Int.fract |p| ≠ 0 ∧ 2 ^ 16 ≤ ⌊Int.fract |p| * 2 ^ 16⌋₊ + rnd then 1 else 0) ∧
      if i < lo then gives lo Fp.iv else if hi < i then gives hi Fp.iv else gives i (if (i : ℚ) = p then 0 else Fp.nx)

/-- `x` is the exact value of a pattern of a type code: a float decoded, an integer as it stands. -/
def IsOperand (t : Nat) (w : Word) (x : Fp.FVal) : Prop :=
  if t ≤ 8 then IsExact x (typeVal t w : ℤ) false else x = Fp.decode (Fp.ofCode t) (w.toNat % 2 ^ (Fp.ofCode t).width)

/-! ### Vector operations -/

/-- The rounding mode; the immediate form rounds .rne (R171). -/
def modeOf : RI → Fp.Mode
  | .r f => Fp.Mode.ofCode f.rm
  | .i _ => .rne
/-- SUB of the register form, with the request for the invalid predicate; none in the immediate form (R171, R173). -/
def ivpOf : RI → BitVec 10
  | .r f => f.sub
  | .i _ => 0
/-- Element e of v[A]. -/
def elA (s : State) (w : Nat) (f : RI) (e : Nat) : Nat :=
  match f with
  | .r f => Bits.elem (s.rv f.a.toNat) w e
  | .i f => Bits.elem (s.rv f.a.toNat) w e
/-- Element e of v[B], or IMM in its place (R171). -/
def elB (s : State) (w : Nat) (f : RI) (e : Nat) : Nat :=
  match f with
  | .r f => Bits.elem (s.rv f.b.toNat) w e
  | .i f => f.imm.toNat % 2 ^ w
/-- Element e of v[C], or of v[D] in the immediate form (R174). -/
def elC (s : State) (w : Nat) (f : RI) (e : Nat) : Nat :=
  match f with
  | .r f => Bits.elem (s.rv f.c.toNat) w e
  | .i f => Bits.elem (s.rv f.d.toNat) w e
/-- Element e of the operand of a unary operation: of v[A], or IMM (R146, R185). -/
def elOne (s : State) (w : Nat) (f : RI) (e : Nat) : Nat :=
  match f with
  | .r f => Bits.elem (s.rv f.a.toNat) w e
  | .i f => f.imm.toNat % 2 ^ w
/-- A pattern of an element as an integer of its type (R36). -/
def elVal (t x : Nat) : Int := typeVal t (BitVec.ofNat 64 x)
/-- The lanes that are active (R121, R172). -/
def lanesOf (s : State) (g : BitVec 5 × Bool) : Word := s.guardVal g.1 g.2

/-- `i` issues with one effect: after `lat` cycles the active lanes of v[d] hold the elements that `r` gives, and the flags of the
active lanes are raised; with SUB[9] the predicate SUB[8:4] tells which active lanes raised invalid (R172, R173). -/
def GivesElems (i : Instr) (s t : State) (lat d w : Nat) (g : Word) (sub : BitVec 10) (r : Nat → Nat × Fp.Flags) : Prop :=
  ∃ (v mask : Vec) (fl : Fp.Flags) (inv : Word),
    exec i s = .next (t.post lat ([.vec d v mask, .flags (flagsV fl)] ++
      if sub.getLsbD 9 then [.reg ⟨.p, (sub.extractLsb' 4 5).toNat⟩ inv] else [])) ∧
    (∀ e < 2048 / w, Bits.elem v w e = (r e).1 % 2 ^ w) ∧ (∀ b < 2048, mask.getLsbD b = g.getLsbD (b / 32)) ∧
    (∀ j < 5, fl.getLsbD j = true ↔ ∃ e < 2048 / w, g.getLsbD (e * w / 32) = true ∧ (r e).2.getLsbD j = true) ∧
    ∀ l < 64, inv.getLsbD l = true ↔
      g.getLsbD l = true ∧ ∃ e < 2048 / w, e * w / 32 = l ∧ (r e).2.getLsbD 0 = true

/-- `i` issues with one effect: after `lat` cycles the active lanes of v[d] hold the elements that `r` gives; no flag is raised. -/
def GivesBits (i : Instr) (s : State) (lat d w : Nat) (g : Word) (r : Nat → Nat) : Prop :=
  ∃ v mask : Vec, exec i s = .next (s.post lat [.vec d v mask]) ∧
    (∀ e < 2048 / w, Bits.elem v w e = r e % 2 ^ w) ∧ ∀ b < 2048, mask.getLsbD b = g.getLsbD (b / 32)

/-- The width of the elements of a type of R171. -/
def wOf (t : Nat) : Nat := [8, 8, 16, 32, 8, 8, 16, 32, 8, 32, 16, 16].getD t 8
/-- The generator of a V slot, advanced as the operation reads it (R43, R78). -/
def seedOf (s : State) : Word := Fp.advance (s.rcr (if s.k = 1 then 0x009 else 0x00A))
/-- The state after the generator of a V slot has been drawn from, once an operation, in the mode .rsto (R43); a CWR of the same cycle
prevails (R335). -/
def drawn (s : State) (md : Fp.Mode) : State :=
  if md = .rsto then
    { s with ctx := if s.k = 1 then { s.ctx with rseed0 := if s.ctx.crNow.contains 0x009 then s.ctx.rseed0 else seedOf s }
                    else { s.ctx with rseed1 := if s.ctx.crNow.contains 0x00A then s.ctx.rseed1 else seedOf s } }
  else s
/-- Rnd(e) of a V slot's next stochastic operation (R43). -/
def rndOf (s : State) (e : Nat) : Nat := Fp.rnd (seedOf s) e
/-- The bits of a narrow element (R35). -/
def narrowBits (t : Nat) : Nat := if t = 16 then 4 else if t = 14 ∨ t = 15 then 6 else 8
/-- The first bit of element i of a narrow type, with the index q and the memory layout L of R178. -/
def narrowAt (t q : Nat) (l : Bool) (i : Nat) : Nat :=
  if t = 16 then 32 * (8 * q + i / 8) + 4 * (i % 8)
  else if l = true ∧ (t = 14 ∨ t = 15) then 8 * (48 * q) + 24 * (i / 4) + 6 * (i % 4)
  else 32 * (16 * q + i / 4) + 8 * (i % 4)
/-- The value of a .n4 code (R38). -/
def codeVal (type c : Nat) : ℚ :=
  let sign : ℚ := if 8 ≤ c then -1 else 1
  match type with
  | 0 => if 8 ≤ c then (c : ℚ) - 16 else c
  | 1 => sign * [0, 1 / 2, 1, 3 / 2, 2, 3, 4, 6].getD (c % 8) 0
  | 2 => sign * [0, 1 / 8, 1 / 4, 1 / 2, 1, 2, 4, 8].getD (c % 8) 0
  | _ => sign * [0, 1, 2, 3, 4, 6, 8, 12].getD (c % 8) 0

/-- The pairwise tree of R55 over 2^k elements. -/
def pairTree {α : Type} (op : α → α → α) : Nat → (Nat → α) → Nat → α
  | 0, x => x
  | k + 1, x => pairTree op k fun i => op (x i) (x (i + 2 ^ k))

/-- The scan of R184: `k` steps from distance `d` on. -/
def scanFrom {α : Type} (op : α → α → α) : Nat → Nat → (Nat → α) → Nat → α
  | 0, _, x => x
  | k + 1, d, x => scanFrom op k (2 * d) fun e => if d ≤ e then op (x e) (x (e - d)) else x e

/-! ### Geometry -/

/-- The matrix of R386 for GO2D, GO3D, GINC and GINS, numbered 0 to 3; coordinate `c` of point `k` is `p k c`. -/
def geoMatrix (op : Nat) (p : Nat → Nat → ℚ) : Σ n : Nat, Matrix (Fin n) (Fin n) ℚ :=
  let d (k o c : Nat) : ℚ := p k c - p o c
  match op with
  | 0 => ⟨2, fun i j => d (i + 1) 0 j⟩
  | 1 => ⟨3, fun i j => d (i + 1) 0 j⟩
  | 2 => ⟨3, fun i j => if j = 2 then d i 3 0 ^ 2 + d i 3 1 ^ 2 else d i 3 j⟩
  | _ => ⟨4, fun i j => if j = 0 then d i 4 0 ^ 2 + d i 4 1 ^ 2 + d i 4 2 ^ 2 else d i 4 (j - 1 : Nat)⟩
/-- Δ (R386). -/
def geoDet (op : Nat) (p : Nat → Nat → ℚ) : ℚ := (geoMatrix op p).2.det
/-- Π: the permanent of the absolute values (R386). -/
def geoPermanent (op : Nat) (p : Nat → Nat → ℚ) : ℚ := ((geoMatrix op p).2.map fun x => |x|).permanent
/-- Coordinates of a point, and points of a test. -/
def geoShape (op : Nat) : Nat × Nat := [(2, 3), (3, 4), (2, 4), (3, 5), (2, 4)].getD op (2, 4)
/-- The points perturbed by ε after the ranks of their indices (R389). -/
def perturbed (op : Nat) (p : Nat → Nat → ℚ) (ids : Nat → Nat) (ε : ℚ) (k c : Nat) : ℚ :=
  p k c + ε ^ 2 ^ ((geoShape op).1 * ((List.range (geoShape op).2).countP fun j => decide (ids j < ids k)) + c)
/-- The tie-break applies (R389). -/
def Ties (op : Nat) (p : Nat → Nat → ℚ) (ids : Option (Nat → Nat)) : Prop :=
  geoDet op p = 0 ∧ ∃ f, ids = some f ∧ ∀ i < (geoShape op).2, ∀ j < i, f i ≠ f j
/-- The code of one test of GO2D, GO3D, GINC or GINS: the sign of Δ, or twice the sign that Δ has for every small ε (R387, R389). -/
def IsCode (op : Nat) (p : Nat → Nat → ℚ) (ids : Option (Nat → Nat)) (c : Int) : Prop :=
  (¬ Ties op p ids → (c : ℚ) = SignType.sign (geoDet op p)) ∧
  (Ties op p ids → ∀ f, ids = some f → ∃ ε₀ > 0, ∀ ε, 0 < ε → ε < ε₀ → (c : ℚ) = 2 * SignType.sign (geoDet op (perturbed op p f ε)))
/-- The stage that decides a test, with t0 = 2^−k0 and t1 = 2^−k1 (R390). -/
def IsStage (op : Nat) (p : Nat → Nat → ℚ) (ids : Option (Nat → Nat)) (p64 : Bool) (n : Nat) : Prop :=
  let k := if p64 then (48, 200) else (20, 96)
  let d := |geoDet op p|
  let m := geoPermanent op p
  (Ties op p ids → n = 2) ∧
  (¬ Ties op p ids → n = if m < d * 2 ^ k.1 ∨ m = 0 then 0 else if m < d * 2 ^ k.2 then 1 else 2)
/-- The codes and the greatest stage of the four orientations of a GSEG, and its own code (R388, R390). -/
def IsSegment (p : Nat → Nat → ℚ) (ids : Option (Nat → Nat)) (p64 : Bool) (c : Int) (n : Nat) : Prop :=
  let of (x y z : Nat) : Nat → Nat := fun k => if k = 0 then x else if k = 1 then y else z
  let sub (x y z : Nat) : (Nat → Nat → ℚ) × Option (Nat → Nat) := (fun k => p (of x y z k), ids.map fun f k => f (of x y z k))
  ∃ o : Nat → Int × Nat,
    (∀ k q, ((k, q) = (0, sub 0 1 2) ∨ (k, q) = (1, sub 0 1 3) ∨ (k, q) = (2, sub 2 3 0) ∨ (k, q) = (3, sub 2 3 1)) →
      IsCode 0 q.1 q.2 (o k).1 ∧ IsStage 0 q.1 q.2 p64 (o k).2) ∧
    n = max (max (o 0).2 (o 1).2) (max (o 2).2 (o 3).2) ∧
    ∃ r : Int, c = (if [0, 1, 2, 3].any fun k => (o k).1.natAbs == 2 then 2 * r else r) ∧
      let touch (i : Nat) : Prop := max (min (p 0 i) (p 1 i)) (min (p 2 i) (p 3 i)) ≤ min (max (p 0 i) (p 1 i)) (max (p 2 i) (p 3 i))
      if 0 < (o 0).1 * (o 1).1 ∨ 0 < (o 2).1 * (o 3).1 then r = -1
      else if [0, 1, 2, 3].all fun k => (o k).1 != 0 then r = 1
      else if [0, 1, 2, 3].all fun k => (o k).1 == 0 then r = if touch 0 ∧ touch 1 then 0 else -1
      else r = 0

/-! ### What stays -/

/-- Nothing but results in flight of the executing slot differs. -/
def OnlyPosts (s t : State) : Prop := ∃ fs : List Flight, t = s.mapSlot fun x => { x with flights := x.flights ++ fs }

/-- Every register of the focused context is as before: s, a, p, v, z, ts, bd, k, latch sets and timeline counters. -/
def SameRegs (s t : State) : Prop :=
  t.ctx.sreg = s.ctx.sreg ∧ t.ctx.areg = s.ctx.areg ∧ t.ctx.preg = s.ctx.preg ∧ t.ctx.vreg = s.ctx.vreg ∧
  t.ctx.zreg = s.ctx.zreg ∧ t.ctx.tsreg = s.ctx.tsreg ∧ t.ctx.bdreg = s.ctx.bdreg ∧ t.ctx.kreg = s.ctx.kreg ∧
  t.ctx.slreg = s.ctx.slreg ∧ t.ctx.tcs = s.ctx.tcs

/-- Every status and control register of the focused context is as before. -/
def SameControl (s t : State) : Prop :=
  t.ctx.ctxid = s.ctx.ctxid ∧ t.ctx.ctxstat = s.ctx.ctxstat ∧ t.ctx.fpst = s.ctx.fpst ∧ t.ctx.rseed0 = s.ctx.rseed0 ∧
  t.ctx.rseed1 = s.ctx.rseed1 ∧ t.ctx.rseedm = s.ctx.rseedm ∧ t.ctx.rseeds = s.ctx.rseeds ∧ t.ctx.uivec = s.ctx.uivec ∧
  t.ctx.uipc = s.ctx.uipc ∧ t.ctx.uistat = s.ctx.uistat ∧ t.ctx.bcap = s.ctx.bcap ∧ t.ctx.chst = s.ctx.chst ∧
  t.ctx.ldra = s.ctx.ldra ∧ t.ctx.geomode = s.ctx.geomode ∧ t.ctx.rwin = s.ctx.rwin ∧ t.ctx.tkexp = s.ctx.tkexp ∧
  t.ctx.cflim = s.ctx.cflim ∧ t.ctx.trapvec = s.ctx.trapvec ∧ t.ctx.traprec = s.ctx.traprec ∧ t.ctx.faultrec = s.ctx.faultrec ∧
  t.ctx.preq = s.ctx.preq ∧ t.ctx.wtbase = s.ctx.wtbase ∧ t.ctx.prmst = s.ctx.prmst ∧ t.ctx.trstat = s.ctx.trstat

/-- Every byte of memory reads as before. -/
def SameMemory (s t : State) : Prop := ∀ k, Mem.byte t.mem k = Mem.byte s.mem k

/-! ### What an issue does -/

/-- `i` completes at its issue: the state is `t` when its guard holds, and unchanged when it does not (R121). -/
def Issues (i : Instr) (g : BitVec 5 × Bool) (s t : State) : Prop :=
  exec i s = .next (if s.acts g.1 g.2 then t else s)

/-- `i` issues and has one effect: `v` goes into register `r` when `lat` cycles of its slot's time have passed (R74). -/
def Gives (i : Instr) (g : BitVec 5 × Bool) (s : State) (lat : Nat) (r : Reg) (v : Word) : Prop :=
  Issues i g s (s.postReg lat r v)

/-- A memory-form operation completes at its issue: its address is kept for a re-issue whether or not it acts (R133), and under its
guard it goes on to `act`. -/
def Accesses (i : Instr) (f : MForm) (s : State) (ea : Word) (act : State → State) : Prop :=
  let s' := s.mapSlot fun x => { x with ea := ea }
  exec i s = .next (if s'.acts f.pred f.pneg then act s' else s')

/-- The effective address of a memory-form operation (R126, R132): `first` on a new issue, the last one advanced by STEP units on a
re-issue, the captured one at a replay. -/
def stepped (s : State) (f : MForm) (unit : Nat) (first : Word) : Word :=
  match s.ctx.now.cap with
  | some c => c.ea
  | none => if s.isNew then first else s.slot.ea + f.step.signExtend 64 * BitVec.ofNat 64 unit
/-- a[BASE] + s[IDX] + sext(DISP) (R126). -/
def stdAddr (s : State) (f : MForm) (unit : Nat) : Word :=
  stepped s f unit (s.ra f.base.toNat + s.rs f.idx.toNat + f.disp.signExtend 64)
/-- a[BASE] + s[IDX] + sext(DISP[6:0]), of the landing loads (R229). -/
def landAddr (s : State) (f : MForm) (unit : Nat) : Word :=
  stepped s f unit (s.ra f.base.toNat + s.rs f.idx.toNat + (f.disp.extractLsb' 0 7).signExtend 64)
/-- a[BASE] + sext(DISP), of the indexed vector forms (R192). -/
def baseAddr (s : State) (f : MForm) (unit : Nat) : Word := stepped s f unit (s.ra f.base.toNat + f.disp.signExtend 64)
/-- a[BASE] + sext(DISP[9:0]), of atomics, sync objects and remote accesses (R261, R408, R413). -/
def shortAddr (s : State) (f : MForm) (unit : Nat) : Word :=
  stepped s f unit (s.ra f.base.toNat + (f.disp.extractLsb' 0 10).signExtend 64)
/-- The bytes that an access of a type code moves (R226). -/
def typeBytes (t : Nat) : Nat := [8, 1, 2, 4, 8, 1, 2, 4, 8, 4, 2, 2].getD t 8
/-- `act` at the place of a checked access, or the trap or context error of the check that fails (R198). -/
def Checked (x : Access) (ea : Word) (act : Place → State → State) (s : State) : State :=
  match s.check x ea with
  | .error b => s.raise b.cls b.cause 0 ea
  | .ok p => act p s
/-- The place lies in the executing core's pocket at an offset. -/
def AtPocket (s : State) (p : Place) (off : Nat) : Prop := p = .port (pocketKey s.ctx.core off) ∧ off < pocketSize

/-- SUB of a sync operation in either form (R271). -/
def subOf : RI → BitVec 10
  | .r f => f.sub
  | .i f => f.a ++ f.dt
/-- The executing slot stands at an issue with no wait and nothing captured. -/
def Ready (s : State) : Prop := s.slot.wait = none ∧ s.slot.cap = none
/-- Every other slot has made its operations of the issues before the executing one, and those of lower slots of this issue. -/
def InOrder (s : State) : Prop :=
  ∀ (j : Nat) (x : SlotState), s.ctx.pipe.slots[j]? = some x → j ≠ s.k.val →
    s.ctx.now.issue.idx ≤ x.pos ∧ (j < s.k.val → s.ctx.now.issue.idx < x.pos)
/-- The code that a trap or a completion interrupt has stopped owes no write of an earlier bundle. -/
def OwesNothing (s : State) (p : Pipe) : Prop := p.count ≤ s.ctx.now.issue.start ∨ p.owes s.ctx.now.issue.start = false
/-- Nothing of the focused context is under way: no request, answer or release, no result in flight, and every slot has reached the
bundle that the executing slot stands at. -/
def Quiet (s : State) : Prop :=
  s.reqs = [] ∧ s.resps = [] ∧ s.ctx.releases = [] ∧ (∀ x ∈ s.ctx.pipe.slots, x.flights = [] ∧ s.ctx.now.issue.start ≤ x.pos) ∧
  (∀ q, s.ctx.trapped = some q → OwesNothing s q.1) ∧ ∀ q, s.ctx.uiSaved = some q → OwesNothing s q.1
/-- What a release gives is ordered before what follows the executing bundle, where the windows narrow nothing and the releaser's sets and
the context's own share the scope at which it acts (R203, R210). -/
def Acquired (s t : State) (r : Released) : Prop :=
  ∀ a ∈ r.acts, (s.past a.2.num).isSome = true → (∀ x ∈ s.ctx.windows, a.1 ≤ x.scope.toNat) → r.seat.shares s.ctx.seat a.1 = true →
    { a.2 with issue := s.ctx.now.issue.start } ∈ t.knownTo (.ctx s.ctx.uid)
/-- No access of the focused context has been made that comes after the executing operation in bundle order, nor does the operation stand
behind a barrier that S has not completed, nor has anything been raised that prevails over it (R213, R214, R315). -/
def Foremost (s : State) : Prop :=
  (∀ w ∈ s.history, w.later (s.originOf s.ctx.now.issue.idx s.k.val) = false) ∧ s.ctx.behindBarrier s.ctx.now.issue.idx = false ∧
  ∀ r ∈ s.ctx.raised, s.ctx.now.issue.idx < r.idx ∨ (r.idx = s.ctx.now.issue.idx ∧ s.k.val ≤ r.slot)
/-- An operation of the executing slot is alone: nothing is under way, the array is free, no delay, no poison, no value but memory's own is
seen, nothing has come over the fabric, and no trace is kept. -/
def Undisturbed (s : State) : Prop :=
  Ready s ∧ Quiet s ∧ InOrder s ∧ s.delays = [] ∧ s.poison = [] ∧ s.views = [] ∧ (∀ w ∈ s.history, w.origin.die = none) ∧ Foremost s ∧
  s.ctx.trMode = 0 ∧ s.ctx.array = none ∧ s.ctx.chain = none ∧ Canonical s
/-- The `n` bytes at pointer `a` lie in the executing core's pocket, named as its own, or in one hamper, from `key` on (R197, R199). -/
def SramAt (s : State) (a : Word) (n key : Nat) : Prop :=
  (a.extractLsb' 47 17 = 0x101FF ∧ a.extractLsb' 21 26 = 0 ∧ (a.extractLsb' 0 21).toNat + n ≤ pocketSize ∧
    key = pocketKey s.ctx.core (a.extractLsb' 0 21).toNat) ∨
  (a.extractLsb' 56 8 = 0x82 ∧ a.extractLsb' 26 28 = 0 ∧ (a.extractLsb' 0 26).toNat + n ≤ 2 ^ 26 ∧
    key = hamperKey (a.extractLsb' 54 2).toNat (a.extractLsb' 0 26).toNat)
/-- Ranges of bytes share none. -/
def Apart (l : List (Nat × Nat)) : Prop := l.Pairwise fun x y => x.1 + x.2 ≤ y.1 ∨ y.1 + y.2 ≤ x.1
/-- Every byte outside the ranges is as before. -/
def Keeps (m m' : Mem) (l : List (Nat × Nat)) : Prop :=
  ∀ k, (∀ x ∈ l, k < x.1 ∨ x.1 + x.2 ≤ k) → Mem.byte m' k = Mem.byte m k
/-- `i` completes at its issue: the state is `u`, which holds its result, but for the memory, of which `post` holds, and the record of the
accesses made. -/
def Leaves (i : Instr) (s u : State) (post : Mem → Prop) : Prop :=
  ∃ t, exec i s = .next t ∧ t = { u with mem := t.mem, history := t.history } ∧ Mem.wf t.mem = true ∧ post t.mem

/-! ### Engine commands -/

/-- The byte at pointer `a` that a command of the focused context may access lies at a key: in a hamper, a basket, its own pocket, or a page
of its window table (R197, R200, R237). -/
def EngineAt (s : State) (c : Cmd) (write : Bool) (a : Word) (key : Nat) : Prop :=
  (a.extractLsb' 56 8 = 0x82 ∧ a.extractLsb' 26 28 = 0 ∧ key = hamperKey (a.extractLsb' 54 2).toNat (a.extractLsb' 0 26).toNat) ∨
  (a.extractLsb' 56 8 = 0x81 ∧ a.extractLsb' 24 27 = 0 ∧ key = basketKey (a.extractLsb' 51 5).toNat (a.extractLsb' 0 24).toNat) ∨
  (a.extractLsb' 47 17 = 0x101FF ∧ a.extractLsb' 21 26 = 0 ∧ (a.extractLsb' 0 21).toNat < pocketSize ∧
    key = s.ctx.pocketAt (a.extractLsb' 0 21).toNat) ∨
  (a.extractLsb' 48 16 = 0 ∧ ∃ e, findWindow c.wins (a.extractLsb' 0 48).toNat = some e ∧ e.allows (if write then .write else .read) = true ∧
    s.answer (.virt c.asn (e.map (a.extractLsb' 0 48).toNat)) 1 write = .served [(key, 1)])
/-- A lane in a state, run over nibbles with the table at a key: what it puts out, and the state in which it ends (R252). -/
inductive LaneRun (m : Mem) (key : Nat) : Nat → List Nat → List Byte → Nat → Prop where
  | done (st : Nat) : LaneRun m key st [] [] st
  | step {st nib fin : Nat} {rest : List Nat} {out : List Byte} (e : Word) (at' : e = wordAt m (key + 8 * (16 * st + nib)))
      (ok : e.extractLsb' 49 3 ≠ 7) (go : LaneRun m key (e.extractLsb' 52 12).toNat rest out fin) :
      LaneRun m key st (nib :: rest) (((List.range (e.extractLsb' 49 3).toNat).map fun j => (e >>> (8 * j)).setWidth 8) ++ out) fin
/-- The nibbles of bytes, the low one of each first (R252). -/
def nibblesOf (bs : List Byte) : List Nat := bs.flatMap fun b => [b.toNat % 16, b.toNat / 16]

/-! ### The end of a context -/

/-- The team of the focused context stands resident on its cores and its grid is listed; no waiting grid depends on that grid or has a
dependence that has failed. -/
def TeamStands (s : State) : Prop :=
  (∃ t ∈ s.teams, t.grid = s.ctx.grid ∧ t.num = s.ctx.team ∧ t.resident = true ∧ t.ended = false) ∧
  (∀ t ∈ s.teams, t.grid = s.ctx.grid → t.num = s.ctx.team → t.leaving = false) ∧ (∃ g ∈ s.grids, g.id = s.ctx.grid) ∧
  ∀ g ∈ s.grids, g.eligible = false → ∀ d ∈ g.deps, d.2.1 ≠ s.ctx.grid ∧ s.depState d.2.1 d.2.2.1 d.2.2.2 ≠ .failed
/-- The focused context is over, as `r` says (R166, R322): its permit's class goes back to the budget (R428). While another member of its team
goes on, nothing else changes; else the team ends and leaves its barriers, and with the last team its grid is no longer live, and the grid's
contexts that are over are gone. -/
def IsOver (s t : State) (r : Run) : Prop :=
  let grid := s.ctx.grid
  let team := s.ctx.team
  let others : Prop := ∃ x ∈ s.teams, x.grid = grid ∧ x.num ≠ team ∧ x.ended = false
  t.budget = s.budget - (s.ctx.prmst.extractLsb' 0 2).toNat ∧
  ((∃ c ∈ s.others, c.grid = grid ∧ c.team = team ∧ c.run ∉ [.empty, .halted, .stopped]) →
    t.ctx.run = r ∧ t.teams = s.teams ∧ t.grids = s.grids ∧ t.barriers = s.barriers ∧ t.others = s.others) ∧
  ((∀ c ∈ s.others, c.grid = grid → c.team = team → c.run ∈ [.empty, .halted, .stopped]) →
    t.barriers = s.barriers.filter (fun b => b.team != (grid, team)) ∧
    (others → t.ctx.run = r ∧ t.grids = s.grids ∧ t.others = s.others ∧
      t.teams = s.teams.map fun x => if x.grid = grid ∧ x.num = team then { x with ended := true, resident := false, leaving := false } else x) ∧
    (¬ others → t.ctx.run = .empty ∧ t.teams = s.teams.filter (fun x => x.grid != grid) ∧
      t.grids.map Grid.id = (s.grids.filter fun g => g.id != grid).map Grid.id ∧
      t.others = s.others.map fun c => if c.grid = grid ∧ c.run ∈ [.halted, .stopped] then { c with run := .empty } else c))

/-! ### Virtual context -/

/-- A batch table, with its policy table read as `p` (R342, R367). -/
def BatchAt (s : State) (a : Word) (kb : Nat) (p : Option Policy) : Prop :=
  ∃ kp, SramAt s a 576 kb ∧ SramAt s (wordAt s.mem (kb + 56)) 1344 kp ∧ ∃ u, Cx.policy (wordAt s.mem (kb + 56)) s = .ok (p, u)
/-- The sequence record at a pointer, as token `t` (R340). -/
def RecordAt (s : State) (a : Word) (kr t : Nat) (k : Token) : Prop :=
  SramAt s a 1024 kr ∧ k = ⟨t, a, (List.range 128).map fun i => wordAt s.mem (kr + 8 * i)⟩
/-- Token `t` of a batch table is valid (R352, R368). -/
def ValidAt (s : State) (kb : Nat) (p : Policy) (t kr : Nat) (k : Token) : Prop :=
  t < 64 ∧ RecordAt s (wordAt s.mem (kb + 64 + 8 * t)) kr t k ∧ k.state = 0 ∧ k.w 1 = wordAt s.mem (kb + 56) ∧ k.wf p = true
/-- A write of the focused context from an earlier bundle is on its way. -/
def WriteOnItsWay (s : State) : Prop := ∃ r ∈ s.reqs, r.uid = s.ctx.uid ∧ r.idx < s.ctx.now.issue.start ∧ ∃ b, r.act = .write b
/-- `i` issues, and its slot waits in it, its operands captured, with no other effect. -/
def Waits (i : Instr) (s : State) (w : Wait) : Prop := exec i s = .next (s.waitIn w)

/-! ### Placement -/

/-- A cluster of a die is not withheld and has `n` cores that `free` holds of; for a team that uses cross-pocket copies all 16 are, and core 511
is none of them (R423, R449). -/
def HasRoom (s : State) (free : Nat → Bool) (die n : Nat) (xpocket : Bool) (cl : Nat) : Prop :=
  8 * die ≤ cl ∧ cl < 8 * die + 8 ∧ s.resmap.getLsbD cl = false ∧ n ≤ ((List.range 16).filter fun i => free (16 * cl + i)).length ∧
  (xpocket = true → cl ≠ 31 ∧ ∀ i < 16, free (16 * cl + i) = true)
/-- The cores are the `n` lowest free ones, in rising order, of the lowest cluster that has room (R423). -/
def PlacedLowest (s : State) (free : Nat → Bool) (die n : Nat) (xpocket : Bool) (cores : List Nat) : Prop :=
  ∃ cl, HasRoom s free die n xpocket cl ∧ (∀ x, HasRoom s free die n xpocket x → cl ≤ x) ∧ cores.length = n ∧ cores.Pairwise (· < ·) ∧
    ∀ k ∈ cores, k / 16 = cl ∧ free k = true ∧ ∀ j < k, j / 16 = cl → free j = true → j ∈ cores

/-! ### The mailbox -/

/-- The mailbox page `n`, whose copy is `copy`, is completed (R436 step 5): its results, then word 0 with the sequence number, STATUS
and OWN = 0, then EVSTAT.MB. -/
def Answered (s t : State) (n : Nat) (copy : List Byte) (status : Nat) (results : List (Nat × Nat)) : Prop :=
  t.mailbox = none ∧ t.evstat = s.evstat ||| BitVec.ofNat 64 (2 ^ (8 + n)) ∧
  Mem.readNat t.mem (mailPage n 0) 8 = ((pageWord copy 0).extractLsb' 32 32).toNat * 2 ^ 32 + status * 2 ^ 8 ∧
  ∀ r ∈ results, Mem.readNat t.mem (mailPage n (8 * r.1)) 8 = r.2

/-- Command `cmd` of mailbox page `n` is the one being served, with `copy` its copy, and a server is there. -/
def Serves (s : State) (cmd n : Nat) (copy : List Byte) : Prop :=
  s.mailbox = some (n, copy) ∧ n < 8 ∧ ((pageWord copy 1).extractLsb' 0 16).toNat = cmd ∧ s.mailServed cmd = true ∧ Canonical s

end Sys2Proof.Safety
end

