-- ==== Sys2Proof/Certificates/Slice0/Obligations.lean ====
section
/-! DEFINITION. The statements for the provers. `Claims.*` are their clauses, each with the rules of the spec it follows. Bits, masks,
addresses and results are written out from the spec; a name of the machine stands for what the spec leaves to the machine as a whole (a
flight, a wait, a request under way). -/

set_option linter.constructorNameAsVariable false

open Sys2Proof Sys2Proof.Machine Sys2Proof.Safety

/-- R116, R118, R120, R124 to R128, R138 to R140: words written out from the spec's tables decode to what they stand for: the two of
Example 1 of the encoding notes, with their bundle, and one of each other class and form. -/
def Obligations.DecodeWords : Prop :=
  let r : RForm := ⟨0, false, 0, 0, 0, 0, 0, 0, 0, false, 0⟩
  let m : MForm := ⟨0, false, 0, 0, 0, false, 0, 0, 0⟩
  Decode.slotWord .v 0x0100141080480000 = .ok (.vadd (.r { r with d := 5, a := 1, b := 2, dt := 9 })) ∧
  Decode.slotWord .v 0x5002186000400100 = .ok (.vld { m with d := 6, base := 3, step := 1, disp := 0x100 }) ∧
  Decode.bundle [0x06, 0, 0, 0, 0, 0, 0x48, 0x80, 0x10, 0x14, 0, 0x01, 0, 0x01, 0x40, 0, 0x60, 0x18, 0x02, 0x50] =
    (⟨true, false, 0, 0, 6⟩, [(1, 0x0100141080480000), (2, 0x5002186000400100)]) ∧
  Decode.slotWord .s 0x01000C1080200000 = .ok (.add (.r { r with d := 3, a := 1, b := 2, dt := 4 })) ∧
  Decode.slotWord .s 0x2103080000000005 = .ok (.moviLong ⟨0, false, 2, 5⟩) ∧
  Decode.slotWord .s 0x4003000000000002 = .ok (.br ⟨0, false, 0, 2⟩) ∧
  Decode.slotWord .s 0x6002146000000008 = .ok (.ld { m with d := 5, base := 3, disp := 8 }) ∧
  Decode.slotWord .s 0x8001000000000005 = .ok (.trap (.i ⟨0, false, 0, 0, 0, 5⟩)) ∧
  Decode.slotWord .m 0x0600080000000000 = .ok (.mzro { r with d := 2 }) ∧
  Decode.slotWord .q 0x0201000000000003 = .ok (.qset (.i ⟨0, false, 0, 0, 0, 3⟩)) ∧
  Decode.slotWord .c 0x0103000180000000 = .ok (.cpy ⟨0, false, 0, 0, 3, 0, 0, 0, 0⟩) ∧
  Decode.slotWord .s 0xFF00000000000000 = .error 2 ∧ Decode.slotWord .v 0x0103141080480000 = .error 3

/-- R116, R118, R120, R138 to R140: for every well-formed operation of every class, with every operand it admits, in every slot of its
class, the bundle that `encode` makes is read back as that operation, alone, in that slot; the two encoders agree on its slot word. -/
def Obligations.BundleEncodeDecodeRoundTrip : Prop :=
  ∀ (i : Instr) (k : Slot) (op : Nat), Encode.opCode i = some (Class.ofSlot k, op) → i.WellFormed → ∃ (h lo hi : W32),
    encode k i = some [h, lo, hi] ∧ Encode.slotWord i = some (hi ++ lo) ∧
    decodeTableWord 96 (h.toNat + 2 ^ 32 * lo.toNat + 2 ^ 64 * hi.toNat) = some i ∧
    Decode.bundle (Bits.natLe 12 (h.toNat + 2 ^ 32 * lo.toNat + 2 ^ 64 * hi.toNat)) =
      (⟨true, false, 0, 0, BitVec.ofNat 7 (2 ^ k.val)⟩, [(k, hi ++ lo)])

/-- R120, R123, R131, R141: a slot word that decodes is the one encoding of what it decodes to, which is well-formed and of the slot's
class: no bit of an accepted word is ignored, and no two words mean the same. -/
def Obligations.EveryAcceptedWordIsItsEncoding : Prop :=
  ∀ (c : Sys2Proof.Class) (w : Word) (i : Instr), Decode.slotWord c w = .ok i →
    i.WellFormed ∧ Encode.slotWord i = some w ∧ ∃ op, Encode.opCode i = some (c, op)

/-- The canonical form of memory survives every step, whatever the state: its cells stay in rising order of address and hold no zero. On
these points it follows choices of the model: log 1. -/
def Obligations.StepKeepsMemoryCanonical : Prop := ∀ s t : State, Canonical s → Machine.step s = .next t → Canonical t

/-- What reset leaves (R419, R46, R61, R335): memory lists nothing, in canonical form, and no context runs; s0 is zero and p0 all ones,
and the registers hold the values of R419. The values of the membership registers and of z at reset are the model's choice (logs 2, 3),
and none is stated here. On these points it follows choices of the model: log 1. -/
def Obligations.ResetLeavesTheSpecifiedValues : Prop :=
  let s := State.reset
  Canonical s ∧ s.mem = [] ∧ s.ctx.run = .empty ∧ s.others = [] ∧ s.clock = 0 ∧ s.grids = [] ∧ s.bootst = 0 ∧ s.evstat = 0 ∧
  (∀ n, s.ctx.sval n = 0) ∧ (∀ n, s.ctx.aval n = 0) ∧ (∀ k n, s.ctx.pval k n = if n = 0 then BitVec.allOnes 64 else 0) ∧
  (∀ n, s.ctx.vval n = 0) ∧ (∀ n, s.ctx.tsval n = 0) ∧ (∀ n, s.ctx.kval n = 0) ∧ s.ctx.fpst = 0 ∧
  s.ctx.rseed0 = 0x9E3779B97F4A7C15 ∧ s.ctx.rseed1 = 0x9E3779B97F4A7C15 ∧ s.ctx.rseedm = 0x9E3779B97F4A7C15 ∧
  s.ctx.rseeds = 0x9E3779B97F4A7C15 ∧ s.ctx.tkexp = 0x000186A0000003E8 ∧ s.ctx.cflim = 4 ∧ s.ctx.uivec = 0 ∧ s.ctx.traprec = 0 ∧
  s.ctx.bcap = 0 ∧ s.ctx.ldra = 0 ∧ s.ctx.geomode = 0 ∧ s.ctx.rwin = 0

/-- A step never refuses, and it stops only where the agenda names a slot operation as if it were an event: whatever the operands, every
operation and every event goes on. On these points it follows choices of the model: log 4. -/
def Obligations.OnlyAnOperationNamedAsAnEventStops : Prop :=
  (∀ (i : Instr) (s : State), ∃ t, exec i s = .next t) ∧
  (∀ (s : State), (∃ i inp rest, s.agenda = .event i inp :: rest ∧ i.isOp = true) → Machine.step s = .fault .notAnEvent) ∧
  ∀ (s : State), ¬ (∃ i inp rest, s.agenda = .event i inp :: rest ∧ i.isOp = true) → ∃ t, Machine.step s = .next t

/-- The frame of an issue (R74, R121): posting a result, stalling, waiting and raising an event change no register, no control register
and no byte of memory; a result in flight of one slot is all that a posting adds. On these points it follows choices of the model: log 9.
-/
def Obligations.IssuesKeepRegistersAndMemory : Prop :=
  ∀ (s : State),
    let same (t : State) : Prop := SameRegs s t ∧ SameControl s t ∧ SameMemory s t
    (∀ lat effs mem, same (s.post lat effs mem) ∧ OnlyPosts s (s.post lat effs mem)) ∧
    (∀ lat r v, same (s.postReg lat r v) ∧ OnlyPosts s (s.postReg lat r v)) ∧ same s.stall ∧ (∀ w, same (s.waitIn w)) ∧
    (∀ cls cause d a, same (s.raise cls cause d a)) ∧ ∀ cause, same (s.raiseIllegal cause)

/-- R67, R70, R73, R116 to R118, R142: dispatch takes the bundle at PC: a nonzero reserved header bit or an operation that is not legal
raises an illegal encoding and issues nothing; a legal one is issued, each named slot with its own operation and every other with its
sticky one, and the next issue is of the bundle after it. -/
def Claims.bundleIssue : Prop :=
  ∀ (s : State) (bs : List Byte), s.ctx.pipe.ended = none → s.ctx.mayDispatch = true → s.ctx.pipe.rep = 0 → s.ctx.pipe.skipNext = false →
    s.fetchBundle s.ctx.pipe.pc = .ok bs →
    let h := (Decode.bundle bs).1
    let ws := (Decode.bundle bs).2
    (h.ok = false → ∃ t r, exec .bundleIssue s = .next t ∧ t.ctx.raised = s.ctx.raised ++ [r] ∧ r.cls = 0x01 ∧ r.cause = 0x01 ∧
      r.slot = 7 ∧ t.ctx.pipe = s.ctx.pipe ∧ SameRegs s t ∧ SameMemory s t) ∧
    (∀ (k : Slot) w e, h.ok = true → h.slots = BitVec.ofNat 7 (2 ^ k.val) → ws = [(k, w)] → h.rep = 0 →
      (∀ x ∈ s.ctx.pipe.sticky, x = none) → Decode.slotWord (Class.ofSlot k) w = .error e → Decode.rawOp (Class.ofSlot k) w = none →
      e ≠ 0 → ∃ t r, exec .bundleIssue s = .next t ∧ t.ctx.raised = s.ctx.raised ++ [r] ∧ r.cls = 0x01 ∧ r.cause = e ∧ r.slot = k.val ∧
        t.ctx.pipe = s.ctx.pipe ∧ SameRegs s t ∧ SameMemory s t) ∧
    ∀ o : Slot → Option Instr, h.ok = true → h.takesMeta = false →
      (∀ k : Slot, h.slots.getLsbD k.val = true → ∃ w i, ws.lookup k = some w ∧ Decode.slotWord (Class.ofSlot k) w = .ok i ∧ o k = some i) →
      (∀ k : Slot, h.slots.getLsbD k.val = false → o k = s.ctx.pipe.sticky.getD k.val none) →
      (∀ k : Slot, s.ctx.pipe.issueCause h (o k) = 0) →
      (∀ j k : Slot, j ≠ k → ∀ a b, o j = some a → o k = some b → dependent j.val a k.val b = false) →
      ∃ t iss, exec .bundleIssue s = .next t ∧ t.ctx.pipe.queue = s.ctx.pipe.queue ++ [iss] ∧ (∀ k : Slot, iss.ops.getD k.val none = o k) ∧
        iss.idx = s.ctx.pipe.count ∧ iss.addr = s.ctx.pipe.pc ∧ iss.next = s.ctx.pipe.pc + BitVec.ofNat 64 h.size ∧
        t.ctx.pipe.count = s.ctx.pipe.count + 1 ∧ t.ctx.pipe.rep = (if h.rep = 0 then 0 else 1) ∧
        t.ctx.pipe.ended = (if h.rep = 0 then some (s.ctx.pipe.pc, s.ctx.pipe.pc + BitVec.ofNat 64 h.size) else none) ∧
        SameRegs s t ∧ SameControl s t ∧ SameMemory s t

/-- A STEP RUNS WHAT IS DECODED. An event that the agenda names is executed with what it supplies. In a cycle of a context at whose PC
stands a bundle of one legal operation, every slot idle before it, `exec` of that operation is what changes registers and memory, on a
state whose registers and memory are those of before; its slot then has consumed the issue, one cycle on in its time. What the cycle does
first, for results and events that are due, is `u`; `d` is `u` with the bundle dispatched, `v` the state in which the slot acts, after
those before it. An operation that realigns the slots is tried first, on `v₀`, and then done with the other slots, on `v` (R71). -/
def Claims.stepRunsTheDecodedInstruction : Prop :=
  (∀ (s : State) i inp rest, s.agenda = .event i inp :: rest → i.isOp = false →
    Machine.step s = exec i { s with agenda := rest, input := inp }) ∧
  ∀ (s : State) (bs : List Byte) (k : Slot) (w : Word) (i : Instr), s.agenda = [] → s.others = [] →
    let started := { s with cmds := s.cmds.map fun (c : Cmd) => if c.started then { c with left := c.left - 1 } else c }
    let u := (started.onEach [s.ctx.uid] State.beginCycle).settle [s.ctx.uid] settleFuel
    let p := u.ctx.pipe
    u.others = [] → u.ctx.uid = s.ctx.uid → u.ctx.run = .running → u.ctx.raised = [] → u.ctx.mayDispatch = true → u.pauses = [] →
    p.ended = none → p.opening = none → p.redirect = none → p.rep = 0 → p.skipNext = false → p.queue = [] → (∀ x ∈ p.sticky, x = none) →
    p.slots.length = 7 → (∀ x ∈ p.slots, x.pos = p.count ∧ x.wait = none ∧ x.held = false ∧ x.stopped = false ∧ x.skip = false ∧ x.cool = 0) →
    (∀ j, u.ctx.mustStand j = false) → u.ctx.pendingRegs = [] →
    u.fetchBundle p.pc = .ok bs → Decode.bundle bs = (⟨true, false, 0, 0, BitVec.ofNat 7 (2 ^ k.val)⟩, [(k, w)]) →
    Decode.slotWord (Class.ofSlot k) w = .ok i → p.issueCause ⟨true, false, 0, 0, BitVec.ofNat 7 (2 ^ k.val)⟩ (some i) = 0 →
    let d := u.dispatch
    ∃ iss, d.ctx.pipe.queue = [iss] ∧ iss.idx = p.count ∧ iss.addr = p.pc ∧ iss.ops.getD k.val none = some i ∧
      let alone := ((slotOrder.takeWhile fun j => j != k).foldl (Phase.slot p.lowest 0) ⟨d, [], false⟩).s
      let group := d.mapCtx fun c => c.syncOlds iss.sync
      let led := (iss.order.takeWhile fun j => j != k).foldl (fun t j => (t.attempt j iss).mapCtx fun c => c.consume j iss) group
      let v₀ := (if realigns i then group else alone).enterIssue k iss
      let v := (if realigns i then led else alone).enterIssue k iss
      let goes (v t : State) : Prop := t.ctx.now.stalled = false ∧ t.ctx.now.moved = false ∧ t.ctx.raised = [] ∧ t.ctx.run = .running ∧
        t.others = [] ∧ t.ctx.uid = s.ctx.uid ∧ t.ctx.pipe.queue = v.ctx.pipe.queue ∧ t.ctx.pipe.count = v.ctx.pipe.count ∧
        (k ≠ 0 ∨ iss.order.head? = some 0 → ∀ j, j ≠ k → t.ctx.slot j = v.ctx.slot j) ∧ (t.ctx.slot k).wait = none ∧
        (t.ctx.slot k).stopped = false ∧ (t.ctx.slot k).pos = (v.ctx.slot k).pos ∧ t.ctx.pipe.slots.length = 7
      SameRegs u v ∧ SameControl u v ∧ SameMemory u v ∧ v.clock = u.clock ∧ v.ctx.run = .running ∧ v.ctx.raised = [] ∧
      ∀ t₀ t, exec i v₀ = .next t₀ → goes v₀ t₀ → exec i v = .next t → goes v t → ∃ x, Machine.step s = .next x ∧ SameRegs t x ∧
        SameControl { t with ctx := t.ctx.joinFlags } x ∧ SameMemory t x ∧ x.clock = t.clock + 1 ∧
        (x.ctx.slot k).flights = (t.ctx.slot k).flights ∧ (x.ctx.slot k).pos = p.count + 1 ∧ (x.ctx.slot k).time = (t.ctx.slot k).time + 1

/-- A step runs what is decoded: BUNDLE_ISSUE takes the bundle at PC, and the cycle executes its operation. On these points it follows
choices of the model: logs 4, 5, 6, 9, 19, 123, 128. -/
def Obligations.StepRunsTheBundle : Prop := Claims.bundleIssue ∧ Claims.stepRunsTheDecodedInstruction

/-- R146, R147: ADD, SUB, MUL, NEG, ABS and MOV write the exact result, clamped with SAT and else taken modulo 2^N and extended by the
type; due after 1 cycle, MUL after 3. -/
def Claims.arithmeticFitsTheType : Prop :=
  ∀ (f : RI) (s : State), 1 ≤ dtOf f → dtOf f ≤ 8 →
    let t := dtOf f
    let x := typeVal t (aOf s f)
    let y := typeVal t (bOf s f)
    let z := typeVal t (oneOf s f)
    let fit (r : Int) := typeFit (satOf f) t r
    Gives (.add f) (guardOf f) s 1 ⟨.s, dOf f⟩ (fit (x + y)) ∧
    Gives (.sub f) (guardOf f) s 1 ⟨.s, dOf f⟩ (fit (x - y)) ∧
    Gives (.mul f) (guardOf f) s 3 ⟨.s, dOf f⟩ (fit (x * y)) ∧
    Gives (.neg f) (guardOf f) s 1 ⟨.s, dOf f⟩ (fit (-z)) ∧
    Gives (.abs f) (guardOf f) s 1 ⟨.s, dOf f⟩ (fit |z|) ∧
    Gives (.mov f) (guardOf f) s 1 ⟨.s, dOf f⟩ (fit z)

/-- R147: AND, OR, XOR and ANDN act on the bits of the operands; MIN, MAX, MINB and MAXB choose one of them; MULH and MULHB take floor(x ×
y / 2^N). None has SAT. -/
def Claims.logicMinMaxAndHighProduct : Prop :=
  ∀ (f : RI) (s : State), 1 ≤ dtOf f → dtOf f ≤ 8 → satOf f = false →
    let t := dtOf f
    let a := aOf s f
    let b := bOf s f
    let x := typeVal t a
    let y := typeVal t b
    Gives (.and f) (guardOf f) s 1 ⟨.s, dOf f⟩ (typeExt t (a &&& b)) ∧
    Gives (.or f) (guardOf f) s 1 ⟨.s, dOf f⟩ (typeExt t (a ||| b)) ∧
    Gives (.xor f) (guardOf f) s 1 ⟨.s, dOf f⟩ (typeExt t (a ^^^ b)) ∧
    Gives (.andn f) (guardOf f) s 1 ⟨.s, dOf f⟩ (typeExt t (a &&& ~~~b)) ∧
    Gives (.min f) (guardOf f) s 1 ⟨.s, dOf f⟩ (typeExt t (if x < y then a else b)) ∧
    Gives (.max f) (guardOf f) s 1 ⟨.s, dOf f⟩ (typeExt t (if x < y then b else a)) ∧
    Gives (.minb f) (guardOf f) s 1 ⟨.s, dOf f⟩ (typeExt t (if x < y then a else b)) ∧
    Gives (.maxb f) (guardOf f) s 1 ⟨.s, dOf f⟩ (typeExt t (if x < y then b else a)) ∧
    Gives (.mulh f) (guardOf f) s 3 ⟨.s, dOf f⟩ (typeFit false t (x * y / 2 ^ typeBits t)) ∧
    Gives (.mulhb f) (guardOf f) s 3 ⟨.s, dOf f⟩ (typeFit false t (x * y / 2 ^ typeBits t))

/-- The integer operations of S complete, with the value that the spec gives, due after their latency, and no other effect. On these
points it follows choices of the model: log 133. -/
def Obligations.ScalarArithmetic : Prop := Claims.arithmeticFitsTheType ∧ Claims.logicMinMaxAndHighProduct

/-- R148: quotient and remainder. A divisor of zero gives all ones and the dividend; the most negative dividend over −1 gives itself and
0; otherwise x = q·y + m with m smaller than y and of the sign of x. Nothing traps. -/
def Obligations.DivisionNeverTraps : Prop :=
  ∀ (f : RI) (s : State), 1 ≤ dtOf f → dtOf f ≤ 8 → satOf f = false →
    let t := dtOf f
    let x := typeVal t (aOf s f)
    let y := typeVal t (bOf s f)
    let gives (q m : Int) : Prop :=
      Gives (.div f) (guardOf f) s 20 ⟨.s, dOf f⟩ (typeFit false t q) ∧ Gives (.divb f) (guardOf f) s 20 ⟨.s, dOf f⟩ (typeFit false t q) ∧
      Gives (.rem f) (guardOf f) s 20 ⟨.s, dOf f⟩ (typeFit false t m) ∧ Gives (.remb f) (guardOf f) s 20 ⟨.s, dOf f⟩ (typeFit false t m)
    if y = 0 then gives (-1) x
    else if t ≤ 4 ∧ x = -2 ^ (typeBits t - 1) ∧ y = -1 then gives x 0
    else ∃ q m : Int, x = q * y + m ∧ |m| < |y| ∧ 0 ≤ m * x ∧ gives q m

/-- R149: the shifts, for every count of 64 bits. -/
def Obligations.ShiftsAtEveryCount : Prop :=
  ∀ (f : RI) (s : State), 1 ≤ dtOf f → dtOf f ≤ 8 →
    let t := dtOf f
    let n := typeBits t
    let a := aOf s f
    let c := (countOf s f).toNat
    let X := typeVal ((t - 1) % 4 + 1) a
    Gives (.shl f) (guardOf f) s 1 ⟨.s, dOf f⟩ (typeFit (satOf f) t (typeVal t a * 2 ^ c)) ∧
    (satOf f = false →
      Gives (.shr f) (guardOf f) s 1 ⟨.s, dOf f⟩ (typeFit false t ((a.toNat % 2 ^ n / 2 ^ c : Nat) : Int)) ∧
      Gives (.sra f) (guardOf f) s 1 ⟨.s, dOf f⟩ (typeFit false t (X / 2 ^ c)) ∧
      ∃ r : Word, Gives (.rot f) (guardOf f) s 1 ⟨.s, dOf f⟩ (typeExt t r) ∧ ∀ i < n, r.getLsbD ((i + c) % n) = a.getLsbD i)

/-- R147: CLZ, CTZ and POPC count zeros and ones of the N-bit pattern; BSWAP reverses its bytes. -/
def Claims.countsAndByteReversal : Prop :=
  ∀ (f : RI) (s : State), 1 ≤ dtOf f → dtOf f ≤ 8 → satOf f = false →
    let t := dtOf f
    let n := typeBits t
    let a := oneOf s f
    (∃ k ≤ n, Gives (.clz f) (guardOf f) s 1 ⟨.s, dOf f⟩ (BitVec.ofNat 64 k) ∧ (∀ i < k, a.getLsbD (n - 1 - i) = false) ∧
      (k < n → a.getLsbD (n - 1 - k) = true)) ∧
    (∃ k ≤ n, Gives (.ctz f) (guardOf f) s 1 ⟨.s, dOf f⟩ (BitVec.ofNat 64 k) ∧ (∀ i < k, a.getLsbD i = false) ∧
      (k < n → a.getLsbD k = true)) ∧
    Gives (.popc f) (guardOf f) s 1 ⟨.s, dOf f⟩ (BitVec.ofNat 64 ((List.range n).countP fun i => a.getLsbD i)) ∧
    ∃ r : Word, Gives (.bswap f) (guardOf f) s 1 ⟨.s, dOf f⟩ (typeExt t r) ∧
      ∀ i < n / 8, r.extractLsb' (8 * i) 8 = a.extractLsb' (n - 8 - 8 * i) 8

/-- R150: BFX, BFI and EXT, bit by bit. -/
def Claims.fieldOperationsBitByBit : Prop :=
  ∀ (f : RI) (s : State), dtOf f = 4 ∨ dtOf f = 8 →
    let signed := decide (dtOf f = 4)
    let a := aOf s f
    let (pos, len, old) := match f with
      | .r f => ((s.rs f.b.toNat).toNat % 64, min ((s.rs f.c.toNat).toNat % 128) 64, s.rs f.d.toNat)
      | .i f => (f.imm.toNat % 64, min (f.imm.toNat / 256 % 128) 64, s.rs f.d.toNat)
    let bit (j : Nat) := if j < 64 then a.getLsbD j else signed && a.getLsbD 63
    (∃ r : Word, Gives (.bfx f) (guardOf f) s 1 ⟨.s, dOf f⟩ r ∧
      ∀ i < 64, r.getLsbD i = if len = 0 then false else if i < len then bit (pos + i) else signed && bit (pos + len - 1)) ∧
    (∃ r : Word, Gives (.bfi f) (guardOf f) s 1 ⟨.s, dOf f⟩ r ∧
      ∀ i < 64, r.getLsbD i = if pos ≤ i ∧ i < pos + len then a.getLsbD (i - pos) else old.getLsbD i) ∧
    ∃ r : Word, Gives (.ext f) (guardOf f) s 1 ⟨.s, dOf f⟩ r ∧
      ∀ i < 64, r.getLsbD i = if i ≤ pos then a.getLsbD i else signed && a.getLsbD pos

/-- Counts, byte reversal and bit fields of S complete, with their values bit by bit. -/
def Obligations.BitOperations : Prop := Claims.countsAndByteReversal ∧ Claims.fieldOperationsBitByBit

/-- R151, R152: SEL takes one of two operands by a predicate bit; MOVI, its long form and MOVH write immediates; NOP writes nothing
(R131). -/
def Claims.selectAndImmediates : Prop :=
  (∀ (f : RForm) (s : State), 1 ≤ f.dt.toNat → f.dt.toNat ≤ 8 →
    Gives (.sel (.r f)) (f.pred, f.pneg) s 1 ⟨.s, f.d.toNat⟩
      (typeExt f.dt.toNat (if (s.rp f.c.toNat).getLsbD 0 then s.rs f.a.toNat else s.rs f.b.toNat))) ∧
  (∀ (f : IForm) (s : State), 1 ≤ f.dt.toNat → f.dt.toNat ≤ 8 →
    Gives (.sel (.i f)) (f.pred, f.pneg) s 1 ⟨.s, f.d.toNat⟩
      (typeExt f.dt.toNat (if (s.rp (f.imm.toNat / 2 ^ 27)).getLsbD 0 then s.rs f.a.toNat
        else immWord f.dt.toNat 27 (f.imm.setWidth 27)))) ∧
  (∀ (f : IForm) (s : State), 1 ≤ f.dt.toNat → f.dt.toNat ≤ 8 →
    Gives (.movi f) (f.pred, f.pneg) s 1 ⟨.s, f.d.toNat⟩ (typeExt f.dt.toNat (immWord f.dt.toNat 32 f.imm))) ∧
  (∀ (f : LForm) (s : State), Gives (.moviLong f) (f.pred, f.pneg) s 1 ⟨.s, f.d.toNat⟩ (f.imm.signExtend 64)) ∧
  (∀ (f : IForm) (s : State),
    Gives (.movh f) (f.pred, f.pneg) s 1 ⟨.s, f.d.toNat⟩ (f.imm ++ (s.rs f.d.toNat).extractLsb' 0 32)) ∧
  ∀ (c : Sys2Proof.Class) (s : State), exec (.nop c) s = .next s

/-- R153: CMP and TST set every bit of p[D] when the condition holds, and clear every bit when it does not. -/
def Claims.comparesWriteWholePredicates : Prop :=
  (∀ (f : RForm) (s : State), 1 ≤ f.dt.toNat → f.dt.toNat ≤ 8 → f.sub.toNat ≤ 5 →
    ∃ r : Word, Gives (.cmp (.r f)) (f.pred, f.pneg) s 1 ⟨.p, f.d.toNat⟩ r ∧ (r = BitVec.allOnes 64 ∨ r = 0) ∧
      (r = BitVec.allOnes 64 ↔
        cmpHolds f.sub.toNat (typeVal f.dt.toNat (s.rs f.a.toNat)) (typeVal f.dt.toNat (s.rs f.b.toNat)))) ∧
  (∀ (f : IForm) (s : State), 1 ≤ f.dt.toNat → f.dt.toNat ≤ 8 → f.imm.toNat / 2 ^ 29 ≤ 5 →
    ∃ r : Word, Gives (.cmp (.i f)) (f.pred, f.pneg) s 1 ⟨.p, f.d.toNat⟩ r ∧ (r = BitVec.allOnes 64 ∨ r = 0) ∧
      (r = BitVec.allOnes 64 ↔
        cmpHolds (f.imm.toNat / 2 ^ 29) (typeVal f.dt.toNat (s.rs f.a.toNat))
          (typeVal f.dt.toNat (immWord f.dt.toNat 29 (f.imm.setWidth 29))))) ∧
  (∀ (f : RI) (s : State), 1 ≤ dtOf f → dtOf f ≤ 8 →
    ∃ r : Word, Gives (.tst f) (guardOf f) s 1 ⟨.p, dOf f⟩ r ∧ (r = BitVec.allOnes 64 ∨ r = 0) ∧
      (r = BitVec.allOnes 64 ↔
        ((typeExt (dtOf f) (aOf s f &&& bOf s f) ≠ 0) ↔
          ¬ (match f with
            | .r f => f.sub.getLsbD 0
            | .i _ => false) = true)))

/-- Selection, immediates and comparisons of S complete, and a comparison writes the whole predicate. -/
def Obligations.SelectsImmediatesAndCompares : Prop := Claims.selectAndImmediates ∧ Claims.comparesWriteWholePredicates

/-- R126, R132, R159: LEA writes a[BASE] + s[IDX] + sext(DISP) on a new issue, its last address advanced by STEP bytes on a re-issue, and
the captured address at a replay; ADDA and SUBA add and subtract modulo 2^64. -/
def Claims.addressArithmetic : Prop :=
  (∀ (f : MForm) (s : State),
    let ea := match s.ctx.now.cap with
      | some c => c.ea
      | none => if s.isNew then s.ra f.base.toNat + s.rs f.idx.toNat + f.disp.signExtend 64 else s.slot.ea + f.step.signExtend 64
    Accesses (.lea f) f s ea fun s => s.postReg 1 ⟨.a, f.d.toNat⟩ ea) ∧
  ∀ (f : RI) (s : State),
    let (x, y) := match f with
      | .r f => (s.ra f.a.toNat, s.rs f.b.toNat)
      | .i f => (s.ra f.a.toNat, f.imm.signExtend 64)
    Gives (.adda f) (guardOf f) s 1 ⟨.a, dOf f⟩ (x + y) ∧ Gives (.suba f) (guardOf f) s 1 ⟨.a, dOf f⟩ (x - y)

/-- R161: SPCST casts a pointer between spaces; one that does not qualify becomes the hole pointer. -/
def Claims.spaceCast : Prop :=
  ∀ (f : RI) (s : State), s.ctx.core < 512 → s.ddie < 256 →
    let (p, code) := match f with
      | .r f => (s.ra f.a.toNat, f.sub.toNat % 4)
      | .i f => (s.ra f.a.toNat, f.imm.toNat % 4)
    let top := p.extractLsb' 56 8
    let named := p.extractLsb' 47 9
    let me : BitVec 9 := BitVec.ofNat 9 s.ctx.core
    let hole : Word := 0xFF00000000000000
    let r : Word := match code with
      | 0 => if top = 0x80 then (if named = 0x1FF then top ++ me ++ p.extractLsb' 0 47 else p) else hole
      | 1 => if top = 0x80 ∧ (named = 0x1FF ∨ named = me) then top ++ (0x1FF : BitVec 9) ++ p.extractLsb' 0 47 else hole
      | 2 => if p.extractLsb' 48 16 = 0 then (0x84 : BitVec 8) ++ BitVec.ofNat 8 s.ddie ++ p.extractLsb' 0 48 else hole
      | _ => if top = 0x84 ∧ (p.extractLsb' 48 8).toNat = s.ddie then (p.extractLsb' 0 48).setWidth 64 else hole
    Gives (.spcst f) (guardOf f) s 1 ⟨.a, dOf f⟩ r

/-- R162: AWIN gives the fields of the covering window entry, and zero on a miss or for a pointer that is not global. -/
def Claims.windowLookup : Prop :=
  ∀ (f : RI) (s : State),
    let p := match f with
      | .r f => s.ra f.a.toNat + s.rs f.b.toNat
      | .i f => s.ra f.a.toNat + f.imm.signExtend 64
    ∃ r : Word, Gives (.awin f) (guardOf f) s 1 ⟨.s, dOf f⟩ r ∧
      (p.extractLsb' 48 16 ≠ 0 → r = 0) ∧
      ((∀ w ∈ s.ctx.windows, ¬ covers w p.toNat) → r = 0) ∧
      ∀ (i : Nat) (w : WinEntry), p.extractLsb' 48 16 = 0 → i < 64 → s.ctx.windows[i]? = some w → covers w p.toNat →
        (∀ j < i, ∀ v, s.ctx.windows[j]? = some v → ¬ covers v p.toNat) →
        r.getLsbD 63 = true ∧ r.extractLsb' 54 9 = 0 ∧ r.extractLsb' 48 6 = BitVec.ofNat 6 i ∧ r.extractLsb' 44 4 = 0 ∧
        r.extractLsb' 40 4 = w.perm ∧ r.extractLsb' 36 4 = w.scope ∧ r.extractLsb' 32 4 = w.tier ∧
        (r.extractLsb' 0 32).toNat = min ((w.vbase.toNat + w.npage.toNat) * 4096 - p.toNat) 0xFFFFFFFF

/-- The pointer operations complete, for every pointer. -/
def Obligations.PointerOperations : Prop := Claims.addressArithmetic ∧ Claims.spaceCast ∧ Claims.windowLookup

/-- R160: SPTST tests the classes of a pointer against a mask. -/
def Obligations.SpaceTest : Prop :=
  ∀ (f : RI) (s : State),
    let (p, m) := match f with
      | .r f => (s.ra f.a.toNat, f.sub.toNat)
      | .i f => (s.ra f.a.toNat, f.imm.toNat)
    let top := p.extractLsb' 56 8
    let named := (p.extractLsb' 47 9).toNat
    let holds := (m.testBit 0 ∧ p.msb = false) ∨ (m.testBit 1 ∧ top = 0x80) ∨ (m.testBit 2 ∧ top = 0x81) ∨
      (m.testBit 3 ∧ top = 0x82) ∨ (m.testBit 4 ∧ top = 0x84) ∨ (m.testBit 5 ∧ top = 0x88) ∨
      (m.testBit 6 ∧ p.msb = true ∧ top ∉ [0x80, 0x81, 0x82, 0x84, 0x88]) ∨
      (m.testBit 7 ∧ top = 0x80 ∧ (named = 0x1FF ∨ named = s.ctx.core))
    ∃ r : Word, Gives (.sptst f) (guardOf f) s 1 ⟨.p, dOf f⟩ r ∧ (holds → r = BitVec.allOnes 64) ∧ (¬ holds → r = 0)

/-- R163: the predicate operations. -/
def Obligations.PredicateOperations : Prop :=
  ∀ (f : RForm) (s : State),
    let g := (f.pred, f.pneg)
    let a := s.rp f.a.toNat
    let b := s.rp f.b.toNat
    let d : Reg := ⟨.p, f.d.toNat⟩
    Gives (.pand f) g s 1 d (a &&& b) ∧ Gives (.por f) g s 1 d (a ||| b) ∧ Gives (.pxor f) g s 1 d (a ^^^ b) ∧
    Gives (.pnot f) g s 1 d (~~~a) ∧ Gives (.pmov f) g s 1 d a ∧ Gives (.psetReg f) g s 1 d (s.rs f.a.toNat) ∧
    Gives (.pany f) g s 1 d (if a = 0 then 0 else BitVec.allOnes 64) ∧
    (f.sub.toNat ≤ 64 → ∃ r : Word, Gives (.pset f) g s 1 d r ∧ ∀ i < 64, r.getLsbD i = decide (i < f.sub.toNat)) ∧
    Gives (.pcnt f) g s 1 ⟨.s, f.d.toNat⟩ (BitVec.ofNat 64 ((List.range 64).countP fun i => a.getLsbD i)) ∧
    ∃ k ≤ 64, Gives (.pfirst f) g s 1 ⟨.s, f.d.toNat⟩ (BitVec.ofNat 64 k) ∧ (∀ i < k, a.getLsbD i = false) ∧
      (k < 64 → a.getLsbD k = true)

/-- R73, R86, R165: a taken branch, relative or through a register, sends dispatch to its target, stalls every slot for 2 cycles, and
closes the levels whose bodies it leaves; BRC that is not taken only lets dispatch go on. No register and no byte of memory changes. -/
def Claims.branchesReachTheirTarget : Prop :=
  let left (s t : State) (target : Word) : Prop := ∃ n ≤ s.ctx.pipe.activeCount,
    t.ctx.pipe.levels = s.ctx.pipe.levels.drop n ∧
    (∀ l ∈ s.ctx.pipe.levels.take n, ¬ (l.first ≤ target ∧ target ≤ l.last)) ∧
    (n < s.ctx.pipe.activeCount → ∀ l, s.ctx.pipe.levels[n]? = some l → l.first ≤ target ∧ target ≤ l.last)
  let goes (i : Instr) (s : State) (target : Word) : Prop := ∃ t, exec i s = .next t ∧
    t.ctx.pipe.redirect = some (.goto target) ∧ t.ctx.pipe.blocked = false ∧ (∀ x ∈ t.ctx.pipe.slots, x.cool = 2) ∧
    t.ctx.pipe.marks = s.ctx.pipe.marks ∧ left s t target ∧ SameRegs s t ∧ SameControl s t ∧ SameMemory s t
  (∀ (f : LForm) (s : State), goes (.br f) s (s.ctx.now.issue.addr + 4 * f.imm.signExtend 64)) ∧
  (∀ (f : LForm) (s : State),
    let taken := (s.rp (f.d.toNat % 32)).getLsbD 0 ^^ f.d.getLsbD 5
    if taken then goes (.brc f) s (s.ctx.now.issue.addr + 4 * f.imm.signExtend 64)
    else exec (.brc f) s = .next { s with ctx := { s.ctx with pipe := { s.ctx.pipe with blocked := false } } }) ∧
  ∀ (f : RForm) (s : State), (s.ra f.a.toNat).toNat % 4 = 0 → goes (.bri f) s (s.ra f.a.toNat)

/-- R86, R165: CALL and CALLI write the address of the following bundle to the link register, due after 1 cycle, go to their target and
suspend the open levels; RET goes to its register and makes them active again. No level closes. -/
def Claims.callsAndReturns : Prop :=
  let goes (i : Instr) (s : State) (target : Word) (marks : List Nat) (u : State) : Prop := ∃ t, exec i s = .next t ∧
    t.ctx.pipe.redirect = some (.goto target) ∧ t.ctx.pipe.blocked = false ∧ (∀ x ∈ t.ctx.pipe.slots, x.cool = 2) ∧
    t.ctx.pipe.levels = s.ctx.pipe.levels ∧ t.ctx.pipe.marks = marks ∧
    t.ctx.pipe.slots.map SlotState.flights = u.ctx.pipe.slots.map SlotState.flights ∧
    SameRegs s t ∧ SameControl s t ∧ SameMemory s t
  let call (i : Instr) (s : State) (d : Nat) (target : Word) : Prop :=
    goes i s target (s.ctx.pipe.levels.length :: s.ctx.pipe.marks) (s.postReg 1 ⟨.a, d⟩ s.ctx.now.issue.next)
  (∀ (f : LForm) (s : State), call (.call f) s f.d.toNat (s.ctx.now.issue.addr + 4 * f.imm.signExtend 64)) ∧
  ∀ (f : RForm) (s : State), (s.ra f.a.toNat).toNat % 4 = 0 →
    call (.calli f) s f.d.toNat (s.ra f.a.toNat) ∧ goes (.ret f) s (s.ra f.a.toNat) s.ctx.pipe.marks.tail s

/-- R144, R165: BRI, CALLI and RET with a target that is no multiple of 4 raise the illegal-encoding trap with cause 0x0C at their own
issue; the slot stops and nothing else happens. -/
def Claims.misalignedTargetsTrap : Prop :=
  ∀ (f : RForm) (s : State), (s.ra f.a.toNat).toNat % 4 ≠ 0 →
    ∀ i ∈ [Instr.bri f, Instr.calli f, Instr.ret f], ∃ t r, exec i s = .next t ∧ t.ctx.raised = s.ctx.raised ++ [r] ∧
      r.cls = 0x01 ∧ r.cause = 0x0C ∧ r.idx = s.ctx.now.issue.idx ∧ r.slot = s.k.val ∧ r.completed = false ∧
      t.ctx.pipe.redirect = s.ctx.pipe.redirect ∧ t.ctx.pipe.slots.map SlotState.flights = s.ctx.pipe.slots.map SlotState.flights ∧
      SameRegs s t ∧ SameControl s t ∧ SameMemory s t

/-- The control transfers of S complete: where dispatch goes on, what becomes of the open levels, and what traps. On these points it
follows choices of the model: logs 127, 128, 129, 130. That a branch closes a level only among the active ones (log 129) is the model's
choice. -/
def Obligations.ControlTransfers : Prop := Claims.branchesReachTheirTarget ∧ Claims.callsAndReturns ∧ Claims.misalignedTargetsTrap

/-- R166, R167, R169, R170: LOOP opens a level with T = s[D] + CNT trips, or skips its body when T is 0; LBRK, when taken, closes the
min(n, k) innermost active levels and goes on after the last bundle of the outermost closed; LCNT reads the trips left or done; HALT stops
dispatch. On these points it follows choices of the model: logs 20, 127, 128, 129. -/
def Obligations.HardwareLoopsAndHalt : Prop :=
  (∀ (f : LForm) (s : State),
    let b := s.ctx.now.issue.addr
    let last := b + 4 * (f.imm.extractLsb' 24 18).setWidth 64
    let T := s.rs f.d.toNat + (f.imm.extractLsb' 0 13).setWidth 64
    let p := s.ctx.pipe
    let l : Level := { loop := b, trips := T, lc := T, first := s.ctx.now.issue.next, last := last
                       epi := (f.imm.extractLsb' 13 6).toNat, lp := (f.imm.extractLsb' 19 5).toNat, treg := f.d.toNat }
    exec (.loop f) s = .next { s with ctx := { s.ctx with pipe :=
      if T = 0 then { p with blocked := false, redirect := some (.after last) }
      else { p with blocked := false, opening := some l } } }) ∧
  (∀ (f : RForm) (s : State) (l : Level),
    let n := min (f.sub.toNat % 8) s.ctx.pipe.activeCount
    let p := s.ctx.pipe
    let taken := (s.rp f.a.toNat).getLsbD 0 ^^ f.sub.getLsbD 3
    ((taken = false ∨ n = 0) → exec (.lbrk f) s = .next { s with ctx := { s.ctx with pipe := { p with blocked := false } } }) ∧
    (taken = true → n ≠ 0 → p.levels[n - 1]? = some l →
      exec (.lbrk f) s = .next { s with ctx := { s.ctx with pipe :=
        { p with blocked := false, levels := p.levels.drop n, redirect := some (.after l.last) } } })) ∧
  (∀ (f : RForm) (s : State),
    let n := f.sub.toNat % 8
    let ls := s.ctx.now.issue.levels
    (ls.length ≤ n → Gives (.lcnt f) (f.pred, f.pneg) s 1 ⟨.s, f.d.toNat⟩ 0) ∧
    ∀ l, n < ls.length → ls[ls.length - 1 - n]? = some l →
      Gives (.lcnt f) (f.pred, f.pneg) s 1 ⟨.s, f.d.toNat⟩ (if f.sub.getLsbD 3 then l.trips - l.lc else l.lc)) ∧
  ∀ (f : RForm) (s : State),
    exec (.halt f) s = .next { s with ctx := { s.ctx with pipe := { s.ctx.pipe with halt := true, blocked := false } } }

/-- R40, R42: rounding a magnitude m·2^e to a multiple of 2^q gives a neighbour of it: the nearest with ties to even, the next toward
zero, up or down; it is inexact exactly when it differs. -/
def Claims.roundedNeighbours : Prop :=
  ∀ (neg : Bool) (rnd m sh : Nat) (e : Int),
    let r (md : Fp.Mode) := (Fp.roundUnit md neg rnd m e (e + sh)).1
    (∀ md, ((Fp.roundUnit md neg rnd m e (e + sh)).2 = true ↔ ¬ 2 ^ sh ∣ m) ∧ (2 ^ sh ∣ m → r md * 2 ^ sh = m) ∧
      m < r md * 2 ^ sh + 2 ^ sh ∧ r md * 2 ^ sh < m + 2 ^ sh) ∧
    r .rz * 2 ^ sh ≤ m ∧
    (if neg then r .rup * 2 ^ sh ≤ m ∧ m ≤ r .rdn * 2 ^ sh else m ≤ r .rup * 2 ^ sh ∧ r .rdn * 2 ^ sh ≤ m) ∧
    2 * m ≤ 2 * (r .rne * 2 ^ sh) + 2 ^ sh ∧ 2 * (r .rne * 2 ^ sh) ≤ 2 * m + 2 ^ sh ∧
    (2 * m % 2 ^ (sh + 1) = 2 ^ sh → r .rne % 2 = 0)

/-- R44, R47, R48: the tables of overflow and of special sources, with the patterns and values of each format written out: infinities and
NaNs as the destination has them, saturation with SAT, ±M with inexact where the mode rounds a magnitude above M toward zero, and overflow
where it does not; no overflow and nothing invalid up to M. -/
def Claims.overflowAndSpecialTables : Prop :=
  ∀ row ∈ ([(Fp.f32, 31, 0x7FC00000, 0x7F800000, 0x7F7FFFFF, 2 ^ 128 - 2 ^ 104, 2 ^ 104, true),
      (Fp.f16, 15, 0x7E00, 0x7C00, 0x7BFF, 65504, 32, true), (Fp.bf16, 15, 0x7FC0, 0x7F80, 0x7F7F, 2 ^ 128 - 2 ^ 120, 2 ^ 120, true),
      (Fp.e5m2, 7, 0x7E, 0x7C, 0x7B, 57344, 8192, true), (Fp.e4m3, 7, 0x7F, 0x7F, 0x7E, 448, 32, false),
      (Fp.e3m2, 5, 0, 0x1F, 0x1F, 28, 4, true), (Fp.e2m3, 5, 0, 0x1F, 0x1F, 15 / 2, 1 / 2, true),
      (Fp.e2m1, 3, 0, 7, 7, 6, 2, true)] : List (Fp.Fmt × Nat × Nat × Nat × Nat × ℚ × ℚ × Bool)),
    ∀ (md : Fp.Mode) (sat : Bool) (rnd : Nat),
      let (t, signBit, nan, inf, top, big, u, odd) := row
      let signed (neg : Bool) (p : Nat) : Nat := if neg then p + 2 ^ signBit else p
      let narrow : Prop := t = Fp.e3m2 ∨ t = Fp.e2m3 ∨ t = Fp.e2m1
      let above (neg : Bool) : Nat × Fp.Flags := (signed neg (if sat then top else inf), if ¬ narrow ∨ sat then Fp.ovf ||| Fp.nx else Fp.ovf ||| Fp.nx ||| Fp.iv)
      (∀ sig, Fp.round t md sat rnd (.nan sig) = if narrow then (0, Fp.iv) else (nan, if sig then Fp.iv else 0)) ∧
      (∀ neg, Fp.round t md sat rnd (.inf neg) =
        if narrow then (signed neg top, Fp.iv)
        else if t = Fp.e4m3 then (if sat then (signed neg top, 0) else (signed neg nan, Fp.iv)) else (signed neg inf, 0)) ∧
      (∀ neg e, Fp.round t md sat rnd (.fin neg 0 e) = (signed neg 0, 0)) ∧
      ∀ (neg : Bool) (m : Nat) (e : Int), m ≠ 0 →
        let x : ℚ := (m : ℚ) * (2 : ℚ) ^ e
        let r := Fp.round t md sat rnd (.fin neg m e)
        let down : Prop := md = .rz ∨ (md = .rup ∧ neg = true) ∨ (md = .rdn ∧ neg = false)
        (x ≤ big → r.2 &&& 7 = 0) ∧ (big < x → down → r = (signed neg top, Fp.nx)) ∧
        (big < x → md = .rup ∨ md = .rdn → ¬ down → r = above neg) ∧
        (md = .rne → big + u / 2 < x ∨ (x = big + u / 2 ∧ odd = true) → r = above neg) ∧
        (md = .rne → x < big + u / 2 ∨ (x = big + u / 2 ∧ odd = false) → r.2 &&& 7 = 0) ∧
        (md = .rsto → big + u ≤ x → r = above neg)

/-- One rounding: the neighbour, and the tables of R47 and R48. -/
def Obligations.RoundingPicksTheRightNeighbour : Prop := Claims.roundedNeighbours ∧ Claims.overflowAndSpecialTables

/-- R40, R154, R155: on finite operands FADD, FSUB, FMUL and FFMA round the exact rational result once; a sum that is zero is −0 only when
both addends are, or under .rdn when their signs differ (R41). The immediate form takes IMM for B (FFMA: a × IMM + d) and rounds .rne.
Overflow is raised whenever the rounded result exceeds the largest finite magnitude, whatever the mode (R45). Value and flags are due
after 4 cycles. -/
def Claims.floatResultsAreExactThenRounded : Prop :=
  ∀ (f : RI) (s : State), 9 ≤ dtOf f → dtOf f ≤ 11 →
    let t := Fp.ofCode (dtOf f)
    let (md, a, b, c) := match f with
      | .r f => (Fp.Mode.ofCode f.rm, s.rs f.a.toNat, s.rs f.b.toNat, s.rs f.c.toNat)
      | .i f => (Fp.Mode.rne, s.rs f.a.toNat, f.imm.setWidth 64, s.rs f.d.toNat)
    let x := Fp.decode t (a.toNat % 2 ^ t.width)
    let y := Fp.decode t (b.toNat % 2 ^ t.width)
    let z := Fp.decode t (c.toNat % 2 ^ t.width)
    let zero (p q : Bool) := if p = q then p else decide (md = .rdn)
    let gives (i : Instr) (q : ℚ) (neg : Bool) : Prop := ∃ v fl, IsExact v q neg ∧ ArithFlags t md v fl ∧
      Issues i (guardOf f) s (s.postFp 4 ⟨.s, dOf f⟩ (BitVec.ofNat 64 (Fp.round t md false 0 v).1) fl)
    ∀ p q r : ℚ, ratVal x = some p → ratVal y = some q → ratVal z = some r →
      gives (.fadd f) (p + q) (zero x.sign y.sign) ∧ gives (.fsub f) (p - q) (zero x.sign (!y.sign)) ∧
      gives (.fmul f) (p * q) (x.sign ^^ y.sign) ∧ gives (.ffma f) (p * q + r) (zero (x.sign ^^ y.sign) z.sign)

/-- R41, R44, R155: the special cases of the scalar operations. A NaN operand gives the canonical NaN, and invalid when it signals; finite
nonzero / 0 is an infinity with SDZ; 0/0 and ∞/∞ are NaN with SIV; √−0 is −0, and the root of a negative number NaN with SIV; ∞ × 0 is
invalid in FFMA even beside a NaN addend; FMIN and FMAX take the other operand of one NaN, and −0 is below +0. FSQRT and FDIV otherwise
round the value that R155 names. -/
def Claims.floatSpecialCases : Prop :=
  ∀ (f : RI) (s : State), 9 ≤ dtOf f → dtOf f ≤ 11 →
    let t := Fp.ofCode (dtOf f)
    let (md, b', c') := match f with
      | .r f => (Fp.Mode.ofCode f.rm, s.rs f.b.toNat, s.rs f.c.toNat)
      | .i f => (Fp.Mode.rne, f.imm.setWidth 64, s.rs f.d.toNat)
    let a := (aOf s f).toNat % 2 ^ t.width
    let b := b'.toNat % 2 ^ t.width
    let x := Fp.decode t a
    let y := Fp.decode t b
    let z := Fp.decode t (c'.toNat % 2 ^ t.width)
    let u := Fp.decode t ((oneOf s f).toNat % 2 ^ t.width)
    let gives (i : Instr) (v : Nat) (fl : Fp.Flags) : Prop :=
      Issues i (guardOf f) s (s.postFp 4 ⟨.s, dOf f⟩ (BitVec.ofNat 64 v) fl)
    let signal := if x.isSig || y.isSig then Fp.iv else 0
    ((x.isNaN || y.isNaN) = true → ∀ i ∈ [Instr.fadd f, .fsub f, .fmul f, .fdiv f], gives i t.canonNaN signal) ∧
    (u.isNaN = true → gives (.fsqrt f) t.canonNaN (if u.isSig then Fp.iv else 0)) ∧
    (∀ n m e k j, x = .fin n m e → y = .fin k 0 j →
      if m = 0 then gives (.fdiv f) t.canonNaN Fp.iv else gives (.fdiv f) (t.signed (n ^^ k) t.infPat) Fp.dz) ∧
    (∀ n k, x = .inf n → y = .inf k → gives (.fdiv f) t.canonNaN Fp.iv) ∧
    (∀ e, u = .fin true 0 e → gives (.fsqrt f) (t.signed true 0) 0) ∧
    (∀ m e, u = .fin true (m + 1) e → gives (.fsqrt f) t.canonNaN Fp.iv) ∧
    (u = .inf true → gives (.fsqrt f) t.canonNaN Fp.iv) ∧
    (∀ n k j, x = .inf n → y = .fin k 0 j → ∃ fl : Fp.Flags, gives (.ffma f) t.canonNaN (Fp.iv ||| fl)) ∧
    (z.isNaN = true → ∃ fl : Fp.Flags, gives (.ffma f) t.canonNaN fl) ∧
    (x.isNaN = false → y.isNaN = false → gives (.fdiv f) (rounded t md (Fp.div x y)).1 (rounded t md (Fp.div x y)).2) ∧
    gives (.fsqrt f) (rounded t md (Fp.sqrt u)).1 (rounded t md (Fp.sqrt u)).2 ∧
    (∀ n, x = .inf n → y = .inf (!n) → gives (.fadd f) t.canonNaN Fp.iv) ∧
    ∃ lo hi, Chooses t a b lo hi ∧ gives (.fmin f) lo.1 lo.2 ∧ gives (.fmax f) hi.1 hi.2

/-- R44, R155: an infinity of one operand is the sum's, the difference's or, with the product's sign, the product's; ∞ − ∞ and 0 × ∞ are
the canonical NaN with SIV. FFMA is NaN with a NaN operand, and SIV when one signals or the product is 0 × ∞; it is infinite with its
product or its addend, and ∞ + (−∞) is NaN with SIV. -/
def Claims.floatInfinities : Prop :=
  ∀ (f : RI) (s : State), 9 ≤ dtOf f → dtOf f ≤ 11 →
    let t := Fp.ofCode (dtOf f)
    let (b', c') := match f with
      | .r f => (s.rs f.b.toNat, s.rs f.c.toNat)
      | .i f => (f.imm.setWidth 64, s.rs f.d.toNat)
    let x := Fp.decode t ((aOf s f).toNat % 2 ^ t.width)
    let y := Fp.decode t (b'.toNat % 2 ^ t.width)
    let z := Fp.decode t (c'.toNat % 2 ^ t.width)
    let gives (i : Instr) (v : Nat) (fl : Fp.Flags) : Prop :=
      Issues i (guardOf f) s (s.postFp 4 ⟨.s, dOf f⟩ (BitVec.ofNat 64 v) fl)
    let inf (n : Bool) : Nat := t.signed n t.infPat
    let infinite (v : Fp.FVal) : Prop := v = .inf v.sign
    (∀ n, (x = .inf n ∧ y.isNaN = false ∧ y ≠ .inf (!n)) ∨ (y = .inf n ∧ x.isNaN = false ∧ x ≠ .inf (!n)) → gives (.fadd f) (inf n) 0) ∧
    (∀ n, x = .inf n → y.isNaN = false → if y = .inf n then gives (.fsub f) t.canonNaN Fp.iv else gives (.fsub f) (inf n) 0) ∧
    (∀ n, y = .inf n → x.isNaN = false → x ≠ .inf n → gives (.fsub f) (inf (!n)) 0) ∧
    (x.isNaN = false → y.isNaN = false → infinite x ∨ infinite y →
      if x.isZero || y.isZero then gives (.fmul f) t.canonNaN Fp.iv ∧ gives (.ffma f) t.canonNaN Fp.iv
      else gives (.fmul f) (inf (x.sign ^^ y.sign)) 0 ∧ (z.isNaN = false →
        if z = .inf (!(x.sign ^^ y.sign)) then gives (.ffma f) t.canonNaN Fp.iv else gives (.ffma f) (inf (x.sign ^^ y.sign)) 0)) ∧
    ((x.isNaN || y.isNaN) = true → gives (.ffma f) t.canonNaN (if x.isSig || y.isSig || z.isSig then Fp.iv else 0)) ∧
    (x.isNaN = false → y.isNaN = false → z.isNaN = true → ¬ ((infinite x ∧ y.isZero = true) ∨ (infinite y ∧ x.isZero = true)) →
      gives (.ffma f) t.canonNaN (if z.isSig then Fp.iv else 0)) ∧
    ∀ (p q : ℚ) (n : Bool), ratVal x = some p → ratVal y = some q → z = .inf n → gives (.ffma f) (inf n) 0

/-- R40, R155: the values that FDIV and FSQRT round, of nonzero finite operands: at least 2^64 units of their last place, the exact
quotient or root when the last bit is 0, and strictly within one unit of it when that bit is 1, so that rounding them once is rounding it
once. -/
def Claims.quotientsAndRootsAreSticky : Prop :=
  (∀ (n n' : Bool) (m m' : Nat) (e e' : Int), m ≠ 0 → m' ≠ 0 →
    let exact : ℚ := (m : ℚ) * (2 : ℚ) ^ e / ((m' : ℚ) * (2 : ℚ) ^ e')
    ∃ q k, Fp.div (.fin n m e) (.fin n' m' e') = (.fin (n ^^ n') q k, 0) ∧ 2 ^ 64 ≤ q ∧
      (q % 2 = 0 → (q : ℚ) * (2 : ℚ) ^ k = exact) ∧
      (q % 2 = 1 → ((q : ℚ) - 1) * (2 : ℚ) ^ k < exact ∧ exact < ((q : ℚ) + 1) * (2 : ℚ) ^ k)) ∧
  ∀ (m : Nat) (e : Int), m ≠ 0 →
    let exact : ℚ := (m : ℚ) * (2 : ℚ) ^ e
    ∃ r k, Fp.sqrt (.fin false m e) = (.fin false r k, 0) ∧ 2 ^ 64 ≤ r ∧
      (r % 2 = 0 → ((r : ℚ) * (2 : ℚ) ^ k) ^ 2 = exact) ∧
      (r % 2 = 1 → (((r : ℚ) - 1) * (2 : ℚ) ^ k) ^ 2 < exact ∧ exact < (((r : ℚ) + 1) * (2 : ℚ) ^ k) ^ 2)

/-- The scalar float operations complete on every operand. On these points it follows choices of the model: logs 41, 45. -/
def Obligations.FloatArithmetic : Prop := Claims.floatResultsAreExactThenRounded ∧ Claims.floatSpecialCases ∧ Claims.floatInfinities ∧ Claims.quotientsAndRootsAreSticky

/-- R156: FCMP writes the whole predicate by the table of conditions; −0 equals +0, a NaN satisfies only NE and UN, and a signalling NaN
sets SIV. The immediate form tests a < IMM. -/
def Claims.floatCompareTable : Prop :=
  ∀ (f : RI) (s : State), 9 ≤ dtOf f → dtOf f ≤ 11 →
    let t := Fp.ofCode (dtOf f)
    let (cond, b) := match f with
      | .r f => (f.sub.toNat % 8, s.rs f.b.toNat)
      | .i f => (2, f.imm.setWidth 64)
    let x := Fp.decode t ((aOf s f).toNat % 2 ^ t.width)
    let y := Fp.decode t (b.toNat % 2 ^ t.width)
    let gives (holds : Bool) : Prop := Issues (.fcmp f) (guardOf f) s
      (s.postFp 4 ⟨.p, dOf f⟩ (if holds then BitVec.allOnes 64 else 0) (if x.isSig || y.isSig then Fp.iv else 0))
    (FloatHolds cond x y → gives true) ∧ (¬ FloatHolds cond x y → gives false)

/-- R158: FCLASS sets exactly the bit of its operand's class and raises no flag. -/
def Claims.floatClass : Prop :=
  ∀ (f : RI) (s : State), 9 ≤ dtOf f → dtOf f ≤ 11 →
    let t := Fp.ofCode (dtOf f)
    let a := (oneOf s f).toNat % 2 ^ t.width
    let x := Fp.decode t a
    let sign := 2 ^ (t.exp + t.frac)
    ∃ k ≤ 9, Issues (.fclass f) (guardOf f) s (s.postFp 4 ⟨.s, dOf f⟩ (BitVec.ofNat 64 (2 ^ k)) 0) ∧
      (k = 0 ↔ x = .inf true) ∧ (k = 7 ↔ x = .inf false) ∧ (k = 8 ↔ x = .nan true) ∧ (k = 9 ↔ x = .nan false) ∧
      (k = 3 ↔ a = sign) ∧ (k = 4 ↔ a = 0) ∧ (k = 5 ↔ 0 < a ∧ a < 2 ^ t.frac) ∧
      (k = 2 ↔ sign < a ∧ a < sign + 2 ^ t.frac) ∧ (k = 1 → x.sign = true) ∧ (k = 6 → x.sign = false)

/-- Comparison and classification of floats complete on every operand. -/
def Obligations.FloatComparesAndClasses : Prop := Claims.floatCompareTable ∧ Claims.floatClass

/-- R43, R47 to R49, R157: FCVT rounds the exact value of its source once. To an integer it takes the neighbour that the mode names,
clamped with SIV outside the range, a NaN giving 0; .rsto draws from RSEEDS, which it advances. On these points it follows choices of the
model: logs 41, 45. That a conversion that does not act leaves RSEEDS as it was (log 45) is the model's choice. -/
def Obligations.FloatConversions : Prop :=
  ∀ (f : RI) (s : State), 1 ≤ dtOf f → dtOf f ≤ 11 →
    (match f with
      | .r f => 1 ≤ f.st.toNat ∧ f.st.toNat ≤ 11 ∧ (f.dt.toNat ≤ 8 → 9 ≤ f.st.toNat) ∧ f.rm.toNat ≤ 4
      | .i _ => True) →
    let md := match f with
      | .r f => Fp.Mode.ofCode f.rm
      | .i _ => Fp.Mode.rne
    let seed := Fp.advance (s.rcr 0x00D)
    let s' : State := if md = .rsto then { s with ctx := { s.ctx with rseeds := if s.ctx.crNow.contains 0x00D then s.ctx.rseeds else seed } } else s
    ∃ (x : Fp.FVal) (v : Word) (fl : Fp.Flags),
      (match f with
        | .r f => IsOperand f.st.toNat (s.rs f.a.toNat) x
        | .i f => x = Fp.decode Fp.f32 f.imm.toNat) ∧
      Converted (dtOf f) md (satOf f) (Fp.rnd seed 0) x v fl ∧
      Issues (.fcvt f) (guardOf f) s (s'.postFp 4 ⟨.s, dOf f⟩ v fl)

/-- R197, R198, R202: the checks of an access, in their order, for every space and the place of its first byte. On these points it follows
choices of the model: log 63. -/
def Obligations.PointerChecksInOrder : Prop :=
  ∀ (s : State) (x : Access) (ea : Word), 0 < x.size → x.size ≤ 4096 →
    let top := ea.extractLsb' 56 8
    let va := (ea.extractLsb' 0 48).toNat
    let named := (ea.extractLsb' 47 9).toNat
    let refused : Prop :=
      (ea.msb = true ∧ top ∉ [0x80, 0x81, 0x82, 0x84, 0x88]) ∨
      (ea.msb = false ∧ ea.extractLsb' 48 15 ≠ 0) ∨ (top = 0x80 ∧ ea.extractLsb' 21 26 ≠ 0) ∨
      (top = 0x81 ∧ ea.extractLsb' 24 27 ≠ 0) ∨ (top = 0x82 ∧ ea.extractLsb' 26 28 ≠ 0) ∨
      (top = 0x84 ∧ s.diePresent (ea.extractLsb' 48 8).toNat = false) ∨ (x.pocketOnly = true ∧ top ≠ 0x80)
    let misaligned : Prop := x.aligned = true ∧ ea.toNat % x.size ≠ 0
    let stored (off size : Nat) (p : Place) : Prop :=
      (size < off + x.size → s.check x ea = .error ⟨5, 0x22, 0⟩) ∧
      (off + x.size ≤ size → misaligned → s.check x ea = .error ⟨6, 0x22, 1⟩) ∧
      (off + x.size ≤ size → ¬ misaligned → s.check x ea = .ok p)
    let mapped : Prop :=
      ((∀ w ∈ s.ctx.windows, ¬ covers w va) → s.check x ea = .error ⟨4, 0x21, 0⟩) ∧
      ∀ w, s.ctx.windows.find? (fun w => decide (covers w va)) = some w →
        let p : Place := if top = 0x84 then .remote (ea.extractLsb' 48 8).toNat s.ctx.asn (w.dbase.toNat * 4096 + va - w.vbase.toNat * 4096)
          else .virt s.ctx.asn (w.dbase.toNat * 4096 + va - w.vbase.toNat * 4096)
        if w.allows x.perm then stored (va - w.vbase.toNat * 4096) (w.npage.toNat * 4096) p
        else s.check x ea = .error ⟨4, 0x21, 0⟩
    (refused → s.check x ea = .error ⟨1, 0x24, 0⟩) ∧
    (¬ refused →
      (top = 0x88 → s.ctx.priv = false → s.check x ea = .error ⟨2, 0x02, 2⟩) ∧
      (top = 0x80 → named ≠ 0x1FF → named ≠ s.ctx.core → s.check x ea = .error ⟨3, 0x23, 0⟩) ∧
      (top = 0x80 → named = 0x1FF ∨ named = s.ctx.core →
        stored (ea.extractLsb' 0 21).toNat pocketSize (.port (pocketKey s.ctx.core (ea.extractLsb' 0 21).toNat))) ∧
      (top = 0x81 → stored (ea.extractLsb' 0 24).toNat (2 ^ 24)
        (.port (basketKey (ea.extractLsb' 51 5).toNat (ea.extractLsb' 0 24).toNat))) ∧
      (top = 0x82 → stored (ea.extractLsb' 0 26).toNat (2 ^ 26)
        (.port (hamperKey (ea.extractLsb' 54 2).toNat (ea.extractLsb' 0 26).toNat))) ∧
      (ea.msb = false ∨ top = 0x84 → mapped))

/-- R226 to R230: the scalar accesses and VLDL. A load of the pocket is due after 5 cycles, and waits while CHK finds a tile not full; a
store of the pocket is performed after 5 cycles, and any other leaves then; a landing load takes an entry due at its distance, or waits
for one, and its request leaves after 5 cycles. A failed check raises its error and does nothing else. -/
def Claims.scalarAccesses : Prop :=
  ∀ (f : MForm) (s : State),
    let t := f.dt.toNat
    let n := typeBytes t
    let reg : Reg := if t = 0 then ⟨.a, f.d.toNat⟩ else ⟨.s, f.d.toNat⟩
    let landing (ea : Word) (n : Nat) (dst : LandDst) : State → State := Checked ⟨.read, n, false, false⟩ ea fun p s =>
      if s.ctx.landings.length < 16 then
        let (id, s) := s.takeLanding (f.disp.extractLsb' 7 10).toNat (some dst) none
        s.post 5 [] (some (.send (s.newReq ea p (.read n) 0 (some id))))
      else s.stall
    t ≤ 11 →
    (let ea := stdAddr s f n
     Accesses (.ld f) f s ea (Checked ⟨.read, n, false, true⟩ ea fun p s =>
       if f.chk && !s.ctx.tilesFull (s.pocketOff p) n then s.stall else s.post 5 [] (some (.ld reg t (s.pocketOff p) n)))) ∧
    (let ea := stdAddr s f n
     Accesses (.st f) f s ea (Checked ⟨.write, n, false, false⟩ ea fun p s =>
       let bytes := Bits.natLe n (if t = 0 then s.ra f.d.toNat else s.rs f.d.toNat).toNat
       if s.inPocket p then s.post 5 [] (some (.st [(s.pocketOff p, bytes)]))
       else s.post 5 [] (some (.send (s.newReq ea p (.write bytes) 0 none))))) ∧
    Accesses (.ldl f) f s (landAddr s f n) (landing (landAddr s f n) n ⟨reg, t, false⟩) ∧
    Accesses (.vldl f) f s (landAddr s f 256) (landing (landAddr s f 256) 256 ⟨⟨.v, f.d.toNat⟩, 0, false⟩)

/-- R192 to R195: the vector accesses. When every active lane's word, at its address rounded down to 4, passes its checks, the access
covers exactly those lanes, VLD and VST of EA + 4i, the indexed forms of EA + 4·Lane(vi, i); otherwise the lowest-ordered failed check
decides, at its lowest lane. No guard stops the address from stepping. -/
def Claims.vectorAccesses : Prop :=
  ∀ (f : MForm) (s : State),
    let whole := stdAddr s f 256
    let base := baseAddr s f 4
    let addr (ea : Word) (i : Nat) : Word := (ea + BitVec.ofNat 64 (4 * i)) &&& ~~~3
    let lane (ea : Word) (i : Nat) : Word := (ea + 4 * ((s.rv f.idx.toNat).extractLsb' (32 * i) 32).setWidth 64) &&& ~~~3
    let at' (ea : Word) : State := s.mapSlot fun x => { x with ea := ea }
    let goes (i : Instr) (ea : Word) (perm : Perm) (a : Nat → Word) (lat : Nat) (chk : Bool)
        (m : List (Nat × Nat) → MemOp) : Prop :=
      let u := at' ea
      let on := (List.range 64).filter fun i => (u.guardVal f.pred f.pneg).getLsbD i
      let off (i : Nat) : Nat := ((a i).extractLsb' 0 21).toNat
      ((∀ l ∈ on, ∃ p, u.check ⟨perm, 4, false, true⟩ (a l) = .ok p) →
        exec i s = .next (if chk && !((on.map fun i => (i, off i)).all fun x => u.ctx.tilesFull x.2 4) then u.stall
          else u.post lat [] (some (m (on.map fun i => (i, off i)))))) ∧
      ∀ l b, l ∈ on → u.check ⟨perm, 4, false, true⟩ (a l) = .error b →
        (∀ l' ∈ on, ∀ b', u.check ⟨perm, 4, false, true⟩ (a l') = .error b' → b.order < b'.order ∨ (b.order = b'.order ∧ l ≤ l')) →
        exec i s = .next (u.raise b.cls b.cause 0 (a l))
    let word (i : Nat) : List Byte := Bits.natLe 4 ((s.rv f.d.toNat).extractLsb' (32 * i) 32).toNat
    goes (.vld f) whole .read (addr whole) 5 f.chk (fun ls => .vld f.d.toNat ls) ∧
    goes (.vldg f) base .read (lane base) 8 f.chk (fun ls => .vld f.d.toNat ls) ∧
    goes (.vst f) whole .write (addr whole) 5 false (fun ls => .st (ls.map fun x => (x.2, word x.1))) ∧
    goes (.vsts f) base .write (lane base) 8 false (fun ls => .st (ls.map fun x => (x.2, word x.1))) ∧
    goes (.vhadd f) base .write (lane base) 8 false
      (fun ls => .vhadd f.dt.toNat (ls.map fun x => (x.2, (s.rv f.d.toNat).extractLsb' (32 * x.1) 32)))

/-- The loads and stores complete at issue: what each leaves to be done, with which address, or which failed check decides. On these
points it follows choices of the model: logs 9, 11, 12. -/
def Obligations.LoadsAndStores : Prop := Claims.scalarAccesses ∧ Claims.vectorAccesses

/-- R4, R212, R213, R226 to R228: a load that is performed gives the little-endian number of its bytes, extended by its type: each byte
memory's own, or one that a write replaced, or one of a write under way that its context may see; memory's own when nothing else is to be
seen. A store that comes after no later one of its context puts its bytes, least significant first, at its offsets, its context sees them,
and every other byte of memory reads as before. -/
def Claims.pocketScalars : Prop :=
  ∀ (s : State) (k : Slot) (f : Flight), Mem.wf s.mem = true →
    (∀ (r : Reg) (t off : Nat), t ≤ 11 → s.poison = [] →
      let n := typeBytes t
      ∃ w : Word, s.performOp k f (.ld r t off n) = (s, [.reg r (if 1 ≤ t ∧ t ≤ 8 then typeExt t w else w)]) ∧
        (∀ i < n,
          let key := pocketKey s.ctx.core (off + i)
          let b := w.extractLsb' (8 * i) 8
          b = Mem.byte s.mem key ∨ (¬ s.plainly (s.originOf f.idx k.val) ∧ ((∃ p ∈ s.history, p.old key = some b) ∨
            ∃ v, (.ctx s.ctx.uid, key, v) ∈ s.views ∧ (v = .free b ∨ ∃ x, v = .coming b x)))) ∧ w.toNat < 2 ^ (8 * n)) ∧
    ∀ (n off : Nat) (w : Word), (∀ p ∈ s.history, p.later (s.originOf f.idx k.val) = false) →
      let t := (s.performOp k f (.st [(off, Bits.natLe n w.toNat)])).1
      (s.performOp k f (.st [(off, Bits.natLe n w.toNat)])).2 = [] ∧ SameRegs s t ∧ SameControl s t ∧ Mem.wf t.mem = true ∧
      (∀ i < n, Mem.byte t.mem (pocketKey s.ctx.core off + i) = w.extractLsb' (8 * i) 8) ∧
      (∀ u, t.see (s.originOf f.idx k.val) u (pocketKey s.ctx.core off) n = Bits.natLe n w.toNat) ∧
      ∀ a, a < pocketKey s.ctx.core off ∨ pocketKey s.ctx.core off + n ≤ a → Mem.byte t.mem a = Mem.byte s.mem a

/-- R193 to R195: a vector load that is performed puts the word at each active lane's offset into that lane and changes no other; a vector
store writes its lanes' words in ascending order, so that the highest lane of one address prevails; VHADD adds each active lane's addend
to the word at its offset, integers modulo 2^32, floats one after another in ascending order. Every other byte of memory reads as before.
(The bytes are memory's when nothing else is to be seen, log 11.) -/
def Claims.pocketVectors : Prop :=
  ∀ (s : State) (k : Slot) (f : Flight), Mem.wf s.mem = true → s.poison = [] → s.plainly (s.originOf f.idx k.val) = true →
    let pk (off : Nat) : Nat := pocketKey s.ctx.core off
    (∀ (d : Nat) (ls : List (Nat × Nat)), (∀ l ∈ ls, l.1 < 64) → ls.Pairwise (fun x y => x.1 ≠ y.1) →
      ∃ v mask : Vec, s.performOp k f (.vld d ls) = (s, [.vec d v mask]) ∧
        (∀ l ∈ ls, ∀ j < 4, v.extractLsb' (32 * l.1 + 8 * j) 8 = Mem.byte s.mem (pk l.2 + j)) ∧
        ∀ b < 2048, mask.getLsbD b = ls.any fun l => l.1 = b / 32) ∧
    (∀ ws : List (Nat × List Byte),
      let t := (s.performOp k f (.st ws)).1
      (s.performOp k f (.st ws)).2 = [] ∧ SameRegs s t ∧ SameControl s t ∧ Mem.wf t.mem = true ∧
      ∀ a, Mem.byte t.mem a =
        match ws.reverse.find? fun w => pk w.1 ≤ a && a < pk w.1 + w.2.length with
        | some w => w.2.getD (a - pk w.1) 0
        | none => Mem.byte s.mem a) ∧
    ∀ (ty : Nat) (ls : List (Nat × W32)), (∀ l ∈ ls, l.1 % 4 = 0) →
      let t := (s.performOp k f (.vhadd ty ls)).1
      let lanes (off : Nat) : List Nat := (ls.filter fun l => l.1 = off).map fun l => l.2.toNat
      SameRegs s t ∧ Mem.wf t.mem = true ∧
      (∀ off, off % 4 = 0 → Mem.readNat t.mem (pk off) 4 =
        if ty = 9 then (lanes off).foldl (fun w x => (rounded Fp.f32 .rne (Fp.add .rne (Fp.decode Fp.f32 w) (Fp.decode Fp.f32 x))).1)
          (Mem.readNat s.mem (pk off) 4)
        else (Mem.readNat s.mem (pk off) 4 + (lanes off).sum) % 2 ^ 32) ∧
      ∀ a, (∀ l ∈ ls, a < pk l.1 ∨ pk l.1 + 4 ≤ a) → Mem.byte t.mem a = Mem.byte s.mem a

/-- What performed loads and stores of the pocket put into registers and memory. On these points it follows choices of the model: log 11.
That a checked load sees the bytes of memory, where another may see older ones (log 11), is the model's choice. -/
def Obligations.PocketBytesAreLittleEndian : Prop := Claims.pocketScalars ∧ Claims.pocketVectors

/-- R263 to R265: an atomic takes a landing entry due one cycle after its slot time and sends its request after 5 cycles, with its
operation, size and operands; it waits while no entry is free. -/
def Claims.atomicsAtIssue : Prop :=
  ∀ (f : MForm) (s : State),
    let t := f.dt.toNat
    let pair := f.disp.getLsbD 10
    let n := if pair then 16 else typeBytes t
    let ea := shortAddr s f n
    let aop := (f.disp.extractLsb' 11 3).toNat
    let wide (k : Nat) : Nat := if pair then (s.rs k).toNat + (s.rs (k + 1)).toNat * 2 ^ 64 else (s.rs k).toNat
    let goes (i : Instr) (op : AtomOp) (v cmp : Nat) : Prop :=
      Accesses i f s ea (Checked ⟨.atomic, n, true, false⟩ ea fun p s =>
        if s.ctx.landings.length < 16 then
          let (id, s) := s.takeLanding 1 (some ⟨⟨.s, f.d.toNat⟩, t, pair⟩) none
          s.post 5 [] (some (.send (s.newReq ea p (.atom op t n v cmp) (f.disp.extractLsb' 14 3) (some id))))
        else s.stall)
    t ≤ 11 →
    (aop ≤ 6 → goes (.atom f) ([AtomOp.add, .and, .or, .xor, .min, .max, .xchg].getD aop .xchg) (wide f.idx.toNat) 0) ∧
    (aop ≤ 2 → goes (.atomf f) ([AtomOp.fadd, .fmin, .fmax].getD aop .fmax) (s.rs f.idx.toNat).toNat 0) ∧
    goes (.cas f) .cas (wide f.idx.toNat) (wide f.d.toNat) ∧ goes (.amaxr f) .swapZero 0 0

/-- R263, R264, R408: what an atomic does to its bytes: it answers the old value and leaves the new one, and no other byte of memory
changes. It comes after no access that follows it in its context. The old value is that of memory, or bytes that its agent may still see
(R212). ATOMF adds as FADD in .rne does and chooses as FMIN and FMAX do. -/
def Claims.atomicsAtMemory : Prop :=
  ∀ (s : State) (o : Origin) (op : AtomOp) (ty n key v cmp : Nat), Mem.wf s.mem = true → s.poison = [] → n ≤ 16 →
    (∀ p ∈ s.history, p.later o = false) →
    ∃ old new : Nat, ∃ t : State, s.performAt o (.atom op ty n v cmp) [(key, n)] = (t, Bits.natLe n old, false) ∧
      (∀ i < n,
        let b : Byte := BitVec.ofNat 8 (old / 256 ^ i)
        b = Mem.byte s.mem (key + i) ∨ (¬ s.plainly o ∧ ((∃ p ∈ s.history, p.old (key + i) = some b) ∨
          ∃ w, (o.agent, key + i, w) ∈ s.views ∧ (w = .free b ∨ ∃ x, w = .coming b x)))) ∧ old < 256 ^ n ∧
      (∀ i < n, Mem.byte t.mem (key + i) = BitVec.ofNat 8 (new / 256 ^ i)) ∧
      (∀ a, a < key ∨ key + n ≤ a → Mem.byte t.mem a = Mem.byte s.mem a) ∧ SameRegs s t ∧
      (op = .add → new = (old + v) % 256 ^ n) ∧ (op = .xchg → new = v % 256 ^ n) ∧ (op = .swapZero → new = 0) ∧
      (op = .cas → new = if old = cmp % 256 ^ n then v % 256 ^ n else old) ∧
      (op = .and → ∀ i, new.testBit i = (old.testBit i && v.testBit i)) ∧
      (op = .or → ∀ i < 8 * n, new.testBit i = (old.testBit i || v.testBit i)) ∧
      (op = .xor → ∀ i < 8 * n, new.testBit i = (old.testBit i ^^ v.testBit i)) ∧
      (n = typeBytes ty → 1 ≤ ty → ty ≤ 8 →
        let x := typeVal ty (BitVec.ofNat 64 old)
        let y := typeVal ty (BitVec.ofNat 64 v)
        (op = .min → new = if x ≤ y then old else v % 256 ^ n) ∧ (op = .max → new = if y ≤ x then old else v % 256 ^ n)) ∧
      (n = typeBytes ty → 9 ≤ ty → ty ≤ 11 →
        let t := Fp.ofCode ty
        let x := Fp.decode t old
        let y := Fp.decode t (v % 256 ^ n)
        (op = .fadd →
          ((x.isNaN || y.isNaN) = true → new = t.canonNaN) ∧
          (∀ a b, x = .inf a → y = .inf b → new = if a = b then t.signed a t.infPat else t.canonNaN) ∧
          (∀ a q, (x = .inf a ∧ ratVal y = some q) ∨ (y = .inf a ∧ ratVal x = some q) → new = t.signed a t.infPat) ∧
          ∀ p q, ratVal x = some p → ratVal y = some q →
            ∃ z, IsExact z (p + q) (x.sign && y.sign) ∧ new = (Fp.round t .rne false 0 z).1) ∧
        ∃ lo hi, Chooses t old (v % 256 ^ n) lo hi ∧ (op = .fmin → new = lo.1) ∧ (op = .fmax → new = hi.1))

/-- The atomics complete: an entry and a request at issue, one read and one write at memory. On these points it follows choices of the
model: logs 9, 113. -/
def Obligations.Atomics : Prop := Claims.atomicsAtIssue ∧ Claims.atomicsAtMemory

/-- R266 to R270: BIND enters a binding once, or records an overflow beside 32 others; UNBND removes the bindings that it names; REL
leaves a release that its later bundles' writes do not wait for; ACQ asks for the object's value and waits. -/
def Claims.syncObjects : Prop :=
  ∀ (f : MForm) (s : State),
    let ea := shortAddr s f 8
    let x : Access := ⟨.atomic, 8, true, false⟩
    let obj := normObj s.ctx.core ea
    let base := s.ra f.d.toNat
    let len := BitVec.ofNat 64 (min (min (s.rs f.idx.toNat).toNat (2 ^ 40)) (2 ^ 64 - base.toNat))
    let b : Binding := ⟨obj, base, len, f.disp.extractLsb' 14 3⟩
    Accesses (.bind f) f s ea (Checked x ea fun _ s =>
      if len = 0 ∨ b ∈ s.ctx.bindings then s
      else if 32 ≤ s.ctx.bindings.length then { s with ctx := { s.ctx with bovf := true } }
      else { s with ctx := { s.ctx with bindings := s.ctx.bindings ++ [b] } }) ∧
    Accesses (.unbnd f) f s ea (Checked x ea fun _ s =>
      let kept := s.ctx.bindings.filter fun c => !(c.obj == obj && (s.rs f.idx.toNat == 0 || (c.base == base && c.len == len)))
      { s with ctx := { s.ctx with bindings := kept, bovf := s.ctx.bovf && kept != [] } }) ∧
    Accesses (.rel f) f s ea (Checked x ea fun p s =>
      let r := s.newReq ea p (.atom .add 8 8 1 0) (f.disp.extractLsb' 14 3) none
      { s with ctx := { s.ctx with releases := s.ctx.releases ++
        [.rel s.ctx.now.issue.start r ⟨s.ctx.bindings, s.ctx.bovf, s.knownTo (.ctx s.ctx.uid)⟩] } }) ∧
    (∀ p, let u := s.mapSlot fun x => { x with ea := ea }
      u.acts f.pred f.pneg = true → u.check x ea = .ok p → s.reqs = [] → s.resps = [] →
      ∃ t r, exec (.acq f) s = .next t ∧
        t.ctx = (u.waitIn (.acq r.id p ea (s.rs f.idx.toNat) f.d.toNat (f.disp.extractLsb' 14 3))).ctx ∧
        t.reqs = [r] ∧ r.uid = s.ctx.uid ∧ r.place = p ∧ r.act = .read 8 ∧ r.land = none ∧ SameMemory s t)

/-- R216, R220, R272 to R275: FENCE passes when nothing of its context is under way, and waits while a write of an earlier bundle is; its
context then comes after every write performed at its scope by an agent that shares it, but for the scopes of windows (R203). WAITTL
passes once DONE has reached its number, and the writes of the operations numbered so far then come before what follows; it traps at a
poisoned or an unissued number, and waits otherwise; TLRD reads a counter, and with sel 3 clears its lowest poisoned number. -/
def Claims.fencesAndTimelines : Prop :=
  ∀ (f : RI) (s : State), Ready s → s.acts (guardOf f).1 (guardOf f).2 = true →
    let m := ((subOf f).extractLsb' 0 4).toNat
    let c := s.ctx.tcval m
    let n := countOf s f
    let poison := c.poisoned.headD 0
    let me : Agent := .ctx s.ctx.uid
    let scope := ((subOf f).extractLsb' 0 3).toNat
    (Quiet s → ∃ t, exec (.fence f) s = .next t ∧ t.ctx = s.ctx ∧ SameMemory s t ∧
      ∀ w ∈ s.history, w.agent ≠ me → ∀ h ∈ w.shared, 0 < scope →
        ∀ a ∈ s.narrow s.ctx scope w ⟨w.num, h.part, 0⟩, a.1 ≤ h.scope → h.seat.shares s.ctx.seat a.1 = true →
          { a.2 with issue := s.ctx.now.issue.start } ∈ t.knownTo me) ∧
    (WriteOnItsWay s → Waits (.fence f) s (.fence ((subOf f).extractLsb' 0 3))) ∧
    (n.toNat ≤ c.done → ∃ t, exec (.waittl f) s = .next t ∧ t.ctx = s.ctx ∧ SameMemory s t ∧
      ∀ w ∈ s.history, ∀ k, w.agent = .engine s.ctx.uid m k → k ≤ n.toNat →
        ⟨w.num, none, s.ctx.now.issue.start⟩ ∈ t.knownTo me) ∧
    (c.done < n.toNat → poison ≠ 0 → poison ≤ n.toNat →
      exec (.waittl f) s = .next (s.raise 0x09 0 (BitVec.ofNat 64 m) (BitVec.ofNat 64 poison))) ∧
    (c.done < n.toNat → poison = 0 ∨ n.toNat < poison →
      if c.issued < n.toNat then exec (.waittl f) s = .next (s.raise 0x09 0 (BitVec.ofNat 64 (2 ^ 62 + m)) n)
      else Waits (.waittl f) s (.waittl m n)) ∧
    Gives (.tlrd f) (guardOf f) s 2 ⟨.s, dOf f⟩
      (BitVec.ofNat 64 (match ((subOf f).extractLsb' 4 2).toNat with
        | 0 => c.done
        | 1 => c.issued
        | _ => poison)) ∧
    ∃ t, exec (.tlrdClear f) s = .next t ∧ t.ctx.pipe = (s.postReg 2 ⟨.s, dOf f⟩ (BitVec.ofNat 64 poison)).ctx.pipe ∧
      (∀ k, k ≠ m → t.ctx.tcval k = s.ctx.tcval k) ∧ (t.ctx.tcval m).poisoned = c.poisoned.tail ∧
      (c.poisoned ≠ [] → (t.ctx.tcval m).record = none ∧ (c.early = [] → (t.ctx.tcval m).done = if poison = c.done + 1 then poison else c.done)) ∧
      t.ctx.sreg = s.ctx.sreg ∧ SameControl s t ∧ SameMemory s t

/-- The operations on synchronisation objects and timelines complete or wait. On these points it follows choices of the model: logs 33,
114, 115, 116. -/
def Obligations.Synchronisation : Prop := Claims.syncObjects ∧ Claims.fencesAndTimelines

/-- R276 to R278: BAR arrives once its context's earlier writes are performed. The arrival that completes the count advances the phase and
passes with the phase arrived in; an earlier one waits for the next phase. WAITB passes when the phase is beyond its operand. A count of
zero is the team's size. What passes comes after the writes that the arrivals of its phase released. -/
def Claims.teamBarriers : Prop :=
  ∀ (f : RI) (s : State), Ready s → s.acts (guardOf f).1 (guardOf f).2 = true →
    let b := ((subOf f).extractLsb' 0 4).toNat
    let v := countOf s f
    let team := (s.ctx.grid, s.ctx.team)
    let x := s.barrier team b
    let k := if x.arrived = 0 then (if v.toNat % 2 ^ 16 = 0 then s.ctx.teamSize else v.toNat % 2 ^ 16) else x.count
    (Quiet s → k ≤ x.arrived + 1 → x.phase + 1 < 2 ^ 64 → ∃ t, exec (.bar f) s = .next t ∧
      t.ctx = (s.post 0 [.reg ⟨.s, dOf f⟩ (BitVec.ofNat 64 x.phase)]).ctx ∧ SameMemory s t ∧
      t.barrier team b = { x with count := k, arrived := 0, phase := x.phase + 1 } ∧
      (∀ r ∈ s.released, r.gate = .arrival team b → r.number ≤ x.phase → Acquired s t r) ∧
      ∀ team' b', (team', b') ≠ (team, b) → t.barrier team' b' = s.barrier team' b') ∧
    (Quiet s → x.arrived + 1 < k → x.phase < 2 ^ 64 →
      ∃ t, exec (.bar f) s = .next t ∧ t.ctx = (s.waitIn (.bar b v.toNat (dOf f) (some (BitVec.ofNat 64 x.phase)))).ctx ∧
        SameMemory s t ∧ t.barrier team b = { x with count := k, arrived := x.arrived + 1 }) ∧
    (WriteOnItsWay s → Waits (.bar f) s (.bar b v.toNat (dOf f) none)) ∧
    (if v.toNat < x.phase then ∃ t, exec (.waitb f) s = .next t ∧ t.ctx = s.ctx ∧ SameMemory s t ∧
        ∀ r ∈ s.released, r.gate = .arrival team b → r.number ≤ v.toNat → Acquired s t r
      else Waits (.waitb f) s (.waitb b v))

/-- R277 to R279: an ungated ARV takes a landing entry for the phase and leaves its arrival to the release of its earlier writes; a gated
one is kept with its counter and number when that number is issued, and does nothing when it is not. A full buffer makes the slot try
again. -/
def Claims.arrivalsAreLeftBehind : Prop :=
  (∀ (f : RI) (s : State),
    let b := ((subOf f).extractLsb' 0 4).toNat
    Issues (.arv f) (guardOf f) s
      (if s.ctx.landings.length < 16 then
        let (id, u) := s.takeLanding 12 (some ⟨⟨.s, dOf f⟩, 0, false⟩) none true
        { u with ctx := { u.ctx with releases := s.ctx.releases ++
          [.arv s.ctx.now.issue.start b (countOf s f).toNat (some id) ⟨s.ctx.bindings, s.ctx.bovf, s.knownTo (.ctx s.ctx.uid)⟩] } }
      else s.stall)) ∧
  ∀ (f : RForm) (s : State),
    let m := (f.sub.extractLsb' 5 4).toNat
    let n := (s.rs f.c.toNat).toNat
    Issues (.arvGated f) (f.pred, f.pneg) s
      (if (s.ctx.tcval m).issued < n then s
      else if 8 ≤ s.ctx.gated.length then s.stall
      else { s with ctx := { s.ctx with gated := s.ctx.gated ++
        [⟨(f.sub.extractLsb' 0 4).toNat, (s.rs f.b.toNat).toNat, m, n, s.ctx.now.issue.start,
          ⟨s.ctx.bindings, s.ctx.bovf, s.knownTo (.ctx s.ctx.uid)⟩⟩] } })

/-- R62, R63, R280: SSTEP counts its context's superstep once its earlier writes are performed; the CORE level passes at once, any other
waits until no member of the set is unplaced and each has counted as far or is over: SSTEP_COMPLETION ends that wait, and leaves any other
alone. -/
def Claims.supersteps : Prop :=
  (∀ (f : RI) (s : State), Ready s →
    let l := (subOf f).extractLsb' 0 3
    let k := s.ctx.sstepCount l.toNat + 1
    let counted : State := { s with ctx := { s.ctx with ssteps := s.ctx.ssteps.setIfInBounds l.toNat k } }
    (Quiet s → ∃ t, exec (.sstep f) s = .next t ∧ SameMemory s t ∧
      t.ctx = if l = 0 then counted.ctx else (counted.waitIn (.sstep l (some k))).ctx) ∧
    (WriteOnItsWay s → Waits (.sstep f) s (.sstep l none))) ∧
  ∀ (l : BitVec 3) (s : State) (k : Nat), (s.ctx.slot 0).wait = some (.sstep l (some k)) →
    if l = 0 ∨ (s.unplaced s.ctx l.toNat = false ∧ ∀ x ∈ s.ctx :: s.others, x.run ≠ .empty → inSet s s.ctx l.toNat x = true →
        x.run = .halted ∨ x.run = .stopped ∨ k ≤ x.sstepCount l.toNat)
    then ∃ t, exec (.sstepCompletion l) s = .next t ∧ (t.ctx.slot 0).wait = none ∧ (t.ctx.slot 0).skip = true ∧ SameRegs s t ∧
      SameControl s t ∧ SameMemory s t
    else exec (.sstepCompletion l) s = .next s

/-- Barriers and supersteps count arrivals, and pass when the count is complete. On these points it follows choices of the model: log 76.
-/
def Obligations.BarriersAndSupersteps : Prop := Claims.teamBarriers ∧ Claims.arrivalsAreLeftBehind ∧ Claims.supersteps

/-- R281: WAITTL and WAITB with ARM set the lowest free arm entry, which fires at once, latching event 0, when its condition holds
already; with no entry free the slot tries again. -/
def Claims.interruptArms : Prop :=
  ∀ (f : RI) (s : State), s.acts (guardOf f).1 (guardOf f).2 = true →
    let m := ((subOf f).extractLsb' 0 4).toNat
    let n := countOf s f
    let c := s.ctx.tcval m
    let poison := c.poisoned.headD 0
    let reached := decide (n.toNat ≤ c.done)
    let failed := decide (poison ≠ 0 ∧ poison ≤ n.toNat)
    let passed := decide (n.toNat < (s.barrier (s.ctx.grid, s.ctx.team) m).phase)
    ((∀ a ∈ s.ctx.arms, a ≠ none) → exec (.waittlArm f) s = .next s.stall ∧ exec (.waitbArm f) s = .next s.stall) ∧
    ∀ i : Nat, s.ctx.arms[i]? = some none → (∀ j < i, s.ctx.arms[j]? ≠ some none) →
      (∃ t, exec (.waittlArm f) s = .next t ∧ t.ctx.arms[i]? = some (some (⟨false, m, n, reached || failed, failed && !reached⟩ : Arm)) ∧
        ((reached || failed) = true → t.ctx.wfeLatch.getLsbD 0 = true) ∧ SameRegs s t ∧ SameControl s t ∧ SameMemory s t) ∧
      ∃ t, exec (.waitbArm f) s = .next t ∧ t.ctx.arms[i]? = some (some (⟨true, m, n, passed, false⟩ : Arm)) ∧
        (passed = true → t.ctx.wfeLatch.getLsbD 0 = true) ∧ SameRegs s t ∧ SameControl s t ∧ SameMemory s t

/-- R282 to R284, R337: a due completion interrupt at the end of a bundle saves the address of the next bundle in UIPC, sets ACT and the
arm's fields, frees the arm, exchanges the bank and dispatches at UIVEC. UIRET outside a handler, or with levels open that the handler
opened, traps; otherwise it clears ACT, exchanges the bank again and goes on at UIPC. -/
def Claims.completionInterrupts : Prop :=
  (∀ (s u : State) (a : Arm) (n : Nat), n < 8 → s.ctx.deliveryDue = true → s.ctx.run = .running → s.ctx.raised = [] → s.ctx.atBoundary = true →
    s.ctx.arms[n]? = some (some a) → a.fired = true → a.num < 16 →
    (∀ j < n, ∀ b, s.ctx.arms[j]? = some (some b) → b.fired = false) →
    s.endBundle = some u → u.ctx.arms = s.ctx.arms → u.ctx.crNow = [] →
    ∃ t, exec .completionInterruptDelivery s = .next t ∧
      t.ctx.uistat.getLsbD 31 = true ∧ (t.ctx.uistat.extractLsb' 26 4).toNat = a.num ∧ t.ctx.uistat.getLsbD 25 = a.kind ∧
      t.ctx.uistat.getLsbD 24 = a.pois ∧ (t.ctx.uistat.extractLsb' 0 3).toNat = n ∧ t.ctx.uistat.getLsbD 30 = u.ctx.uistat.getLsbD 30 ∧
      t.ctx.uipc = u.ctx.pipe.pc ∧ t.ctx.arms[n]? = some none ∧ t.ctx.pipe.pc = u.ctx.uivec &&& ~~~3 ∧
      t.ctx.uiShadow = (u.ctx.foldPview.swapBank u.ctx.uiShadow).2 ∧ SameMemory u t) ∧
  ∀ (f : RI) (s : State),
    (s.ctx.uistat.getLsbD 31 = false → exec (.uiret f) s = .next (s.raise 0x02 4)) ∧
    (s.ctx.uistat.getLsbD 31 = true →
      if s.ctx.pipe.base < s.ctx.pipe.levels.length then exec (.uiret f) s = .next (s.raiseIllegal 0x0B)
      else ∀ saved ret, s.ctx.uiSaved = some (saved, ret) → s.ctx.crNow = [] → ∃ t, exec (.uiret f) s = .next t ∧
        t.ctx.uistat.getLsbD 31 = false ∧ t.ctx.uistat.getLsbD 30 = (s.ctx.uistat.getLsbD 30 && !s.ctx.uiclear) ∧ t.ctx.uiSaved = none ∧
        t.ctx.uiShadow = (s.ctx.swapBank s.ctx.uiShadow).2 ∧ t.ctx.sreg = (s.ctx.swapBank s.ctx.uiShadow).1.sreg ∧
        t.ctx.pipe.levels = saved.levels ∧ t.ctx.pipe.marks = saved.marks ∧
        t.ctx.pipe.pc = (if s.ctx.uipc = ret then saved.pc else s.ctx.uipc) ∧ SameMemory s t)

/-- Completion interrupts are armed, delivered and returned from. On these points it follows choices of the model: logs 30, 127. -/
def Obligations.ArmsAndCompletionInterrupts : Prop := Claims.interruptArms ∧ Claims.completionInterrupts

/-- R408 to R414: RATOM, RSTK and RSTD take a remote pointer only. RATOM waits while 64 are unacknowledged and else counts one more; RSTK
opens the lowest free ticket of its die, whose handle goes into k, or waits for one; RSTD carries the valid handles of its mask. Each
request leaves after 5 cycles. -/
def Claims.remoteAccesses : Prop :=
  ∀ (f : MForm) (s : State),
    let t := f.dt.toNat
    let n := typeBytes t
    let data (s : State) : Nat := (if t = 0 then s.ra f.d.toNat else s.rs f.d.toNat).toNat
    let remote (x : Access) (ea : Word) (act : Place → State → State) (s : State) : State :=
      if ea.extractLsb' 56 8 ≠ 0x84 then s.raise 0x24 0 0 ea else Checked x ea act s
    let aop := (f.disp.extractLsb' 11 3).toNat
    let op := if 9 ≤ t then [AtomOp.fadd, .fmin, .fmax].getD aop .fmax else [AtomOp.add, .and, .or, .xor, .min, .max].getD aop .max
    let short := shortAddr s f n
    let base := stepped s f n (s.ra f.base.toNat)
    t ≤ 11 →
    Accesses (.ratom f) f s short (remote ⟨.atomic, n, true, false⟩ short fun p s =>
      if 64 ≤ s.ctx.ratoms then s.stall
      else
        let r := s.newReq short p (.atom op t n ((s.rs f.d.toNat).toNat % 2 ^ (8 * n)) 0) 4 none
        let u := s.post 5 [] (some (.send { r with ratom := true, mergeable := inRwin s.ctx.rwin (short.extractLsb' 0 48).toNat
                                                   hold := (s.ctx.rwin.extractLsb' 48 6).toNat }))
        { u with ctx := { u.ctx with ratoms := s.ctx.ratoms + 1 } }) ∧
    Accesses (.rstk f) f s short (remote ⟨.write, n, false, false⟩ short fun p s =>
      match (List.range 1024).find? fun e => !(s.ticket s.ddie e).pending with
      | none => s.stall
      | some e =>
        let u := { s.ticket s.ddie e with pending := true, dests := [] }
        let s := s.setTicket u
        let h : Word := BitVec.ofNat 64 (2 ^ 63 + u.gen.toNat * 2 ^ 32 + u.entry % 1024)
        (s.postReg 1 ⟨.k, f.idx.toNat⟩ h).post 5 []
          (some (.send { s.newReq short p (.write (Bits.natLe n (data s))) 4 none with ticket := some h }))) ∧
    Accesses (.rstd f) f s base (remote ⟨.write, n, false, false⟩ base fun p s =>
      let mask := f.disp.extractLsb' 1 16
      let handles := (((List.range 16).filter fun i => mask.getLsbD i).map fun i => s.rk i).filter fun h => h.getLsbD 63
      s.post 5 [] (some (.send { s.newReq base p (.write (Bits.natLe n (data s))) 4 none with isRstd := true, kmask := handles })))

/-- R412, R417: TKWT passes when no handle of its range names a pending ticket, and waits otherwise; TKRD gives 0 for no handle, 1 for a
pending ticket, 2 for a landed one; TKCLR clears the range. -/
def Claims.ticketReads : Prop :=
  ∀ (f : RForm) (s : State),
    let n := (f.sub.extractLsb' 0 4).toNat + 1
    let hs := (List.range n).map fun i => s.rk (f.a.toNat + i)
    let pending (h : Word) : Bool :=
      let e := s.ticket s.ddie (h.extractLsb' 0 10).toNat
      h.getLsbD 63 && e.pending && e.gen == h.extractLsb' 32 16
    let h := s.rk f.a.toNat
    (Ready s → s.acts f.pred f.pneg = true →
      if hs.any pending then Waits (.tkwt f) s (.tkwt hs) else exec (.tkwt f) s = .next s) ∧
    Gives (.tkrd f) (f.pred, f.pneg) s 2 ⟨.s, f.d.toNat⟩ (if h.getLsbD 63 = false then 0 else if pending h then 1 else 2) ∧
    Issues (.tkclr f) (f.pred, f.pneg) s (s.post 1 ((List.range n).map fun i => Eff.reg ⟨.k, f.a.toNat + i⟩ 0))

/-- Remote accesses and the operations on tickets complete or wait. On these points it follows choices of the model: logs 113, 135, 147.
That RSTK opens the lowest free ticket (log 147) is the model's choice. -/
def Obligations.RemoteOperations : Prop := Claims.remoteAccesses ∧ Claims.ticketReads

/-- R315, R318, R336, R451: TRAP raises class 0x0B with its code and, as OPND0, the register it came from, and counts as completed; DBRK
with DBG freezes the context for the debugger, without it raises class 0x0C, or does nothing when that trap would be unhandled. -/
def Obligations.SoftwareTraps : Prop :=
  ∀ (f : RI) (s : State),
    let code : BitVec 16 := match f with
      | .r f => (s.rs f.a.toNat).extractLsb' 0 16
      | .i f => f.imm.extractLsb' 0 16
    let go : State := { s with ctx := { s.ctx with pipe := { s.ctx.pipe with blocked := false } } }
    let raises (i : Instr) (cls : Byte) : Prop := ∃ r : Raised, exec i s = .next { go with ctx := { go.ctx with raised := s.ctx.raised ++ [r] } } ∧
      r.cls = cls ∧ r.cause = 0 ∧ r.code = code ∧ r.completed = true ∧ r.late = false ∧ r.idx = s.ctx.now.issue.idx ∧
      r.slot = s.k.val ∧ r.site.addr = s.ctx.now.issue.addr ∧ r.site.mpc = s.ctx.now.issue.mpc ∧ r.site.rep = s.ctx.now.issue.rep ∧
      (s.ctx.now.issue.ops[s.k.val]? = some (some i) → ∀ g, f = .r g → g.a.toNat ≠ 0 → (r.opnds[0]?.getD 0).setWidth 64 = s.rs g.a.toNat)
    raises (.trap f) 0x0B ∧
    (if s.ctx.ctxstat.getLsbD 7 then ∃ t, exec (.dbrk f) s = .next t ∧ t.ctx.dbgCode = some code ∧ t.ctx.run = .freezing ∧
        t.ctx.raised = s.ctx.raised ∧ SameRegs s t ∧ SameMemory s t
    else if s.ctx.trapvec &&& ~~~3 = 0 ∨ s.ctx.traprec.getLsbD 0 = false ∨ s.ctx.ctxstat.getLsbD 2 = true then
      exec (.dbrk f) s = .next go
    else raises (.dbrk f) 0x0C)

/-- R317, R318, R320, R333: a handled trap writes its record to the tile that TRAPREC names, saves PRIV and EN, sets PRIV and TACT, clears
EN, exchanges the shadow bank, and dispatches at TRAPVEC with every slot aligned; OPND0 to OPND5 are the operands that were captured; no
other byte of memory changes. On these points it follows choices of the model: logs 37, 47, 91, 118, 119, 120, 121. -/
def Obligations.TrapEntrySavesAndRedirects : Prop :=
  ∀ (s : State) (r : Raised), Mem.wf s.mem = true → s.ctx.raised = [r] → r.late = false → r.cls.toNat < 0x21 →
    s.ctx.trapvec &&& ~~~3 ≠ 0 → s.ctx.traprec.getLsbD 0 = true → s.ctx.ctxstat.getLsbD 2 = false → s.ctx.trapReady r = true → s.ctx.crNow = [] →
    let key := pocketKey s.ctx.core ((s.ctx.traprec.extractLsb' 12 9).toNat * 4096)
    let c := s.ctx.foldPview
    ∃ t, exec .trapEntry s = .next t ∧
      t.ctx.ctxstat.getLsbD 1 = true ∧ t.ctx.ctxstat.getLsbD 2 = true ∧ t.ctx.ctxstat.getLsbD 3 = s.ctx.ctxstat.getLsbD 1 ∧
      t.ctx.ctxstat.getLsbD 4 = s.ctx.uistat.getLsbD 30 ∧ (∀ i, i ∉ [1, 2, 3, 4] → t.ctx.ctxstat.getLsbD i = s.ctx.ctxstat.getLsbD i) ∧
      (∀ i < 64, t.ctx.uistat.getLsbD i = (i != 30 && s.ctx.uistat.getLsbD i)) ∧
      t.ctx.pipe.pc = s.ctx.trapvec &&& ~~~3 ∧ t.ctx.pipe.levels = s.ctx.pipe.levels ∧
      (∀ x ∈ t.ctx.pipe.slots, x.pos = s.ctx.pipe.count ∧ x.wait = none ∧ x.cap = none) ∧
      (∃ saved : Pipe, t.ctx.trapped = some (saved, r) ∧ saved.pc = s.ctx.pipe.pc ∧ saved.queue = s.ctx.pipe.queue) ∧
      t.ctx.raised = [] ∧ t.ctx.landings = [] ∧
      t.ctx.trapShadow = (c.swapBank s.ctx.trapShadow).2 ∧ t.ctx.sreg = (c.swapBank s.ctx.trapShadow).1.sreg ∧
      t.ctx.areg = (c.swapBank s.ctx.trapShadow).1.areg ∧ t.ctx.preg = (c.swapBank s.ctx.trapShadow).1.preg ∧
      t.ctx.vreg = s.ctx.vreg ∧ t.ctx.zreg = s.ctx.zreg ∧
      (Mem.readNat t.mem key 8 = r.cls.toNat * 2 ^ 56 + r.cause.toNat * 2 ^ 48 + r.slot % 8 * 2 ^ 45 + r.smask.toNat * 2 ^ 38 +
        r.site.rep % 64 * 2 ^ 32 + r.code.toNat) ∧
      wordAt t.mem (key + 8) = r.site.addr ∧ wordAt t.mem (key + 16) = r.site.mpc ∧ wordAt t.mem (key + 32) = r.site.word ∧
      wordAt t.mem (key + 40) = r.site.ea ∧ wordAt t.mem (key + 48) = r.detail ∧ wordAt t.mem (key + 56) = r.addr ∧
      wordAt t.mem (key + 128) = r.site.guard ∧
      (r.cls ≠ 0x08 → ∀ i < 6, Mem.readNat t.mem (key + 256 + 256 * i) 256 = (r.opnds.getD i 0).toNat) ∧
      ∀ a, a < key ∨ key + 1792 ≤ a → Mem.byte t.mem a = Mem.byte s.mem a

/-- R282, R317, R419: a shadow bank exchanges s56 to s63, a24 to a31 and p24 to p31 with the context's registers, and no others. -/
def Claims.shadowBanksExchange : Prop :=
  ∀ (c : Ctx) (bank : List (Reg × Word)), bank.map Prod.fst = shadowZero.map Prod.fst →
    let d := (c.swapBank bank).1
    let out := (c.swapBank bank).2
    (∀ i < 8, bank[i]? = some (⟨.s, 56 + i⟩, d.sval (56 + i)) ∧ out[i]? = some (⟨.s, 56 + i⟩, c.sval (56 + i)) ∧
      bank[8 + i]? = some (⟨.a, 24 + i⟩, d.aval (24 + i)) ∧ out[8 + i]? = some (⟨.a, 24 + i⟩, c.aval (24 + i)) ∧
      bank[16 + i]? = some (⟨.p, 24 + i⟩, d.preg[24 + i]?.getD 0) ∧ out[16 + i]? = some (⟨.p, 24 + i⟩, c.preg[24 + i]?.getD 0)) ∧
    (∀ n < 56, d.sreg[n]? = c.sreg[n]?) ∧ (∀ n < 24, d.areg[n]? = c.areg[n]? ∧ d.preg[n]? = c.preg[n]?) ∧
    d.vreg = c.vreg ∧ d.zreg = c.zreg ∧ d.ctxstat = c.ctxstat

/-- R142, R144, R321: ERET in a handler that has left levels open, or (mode 2) to a target that is no multiple of 4, is an illegal
encoding, whatever the level; otherwise it traps at user level and outside a handler. Else it restores PRIV and EN, clears TACT, exchanges
the bank and goes back: to the saved sequencer, past the trapping operation in mode 1, or to the target, everything captured discarded, in
mode 2. -/
def Claims.returnFromTrap : Prop :=
  ∀ (f : RI) (g : RForm) (s : State),
    let t := s.ra g.a.toNat
    let priv := s.ctx.ctxstat.getLsbD 1
    let tact := s.ctx.ctxstat.getLsbD 2
    let left := decide (s.ctx.pipe.base < s.ctx.pipe.levels.length)
    let back (u : State) : Prop :=
      u.ctx.ctxstat.getLsbD 1 = s.ctx.ctxstat.getLsbD 3 ∧ u.ctx.ctxstat.getLsbD 2 = false ∧
      (∀ i, i ∉ [1, 2] → u.ctx.ctxstat.getLsbD i = s.ctx.ctxstat.getLsbD i) ∧
      u.ctx.uistat.getLsbD 30 = s.ctx.ctxstat.getLsbD 4 ∧ u.ctx.trapped = none ∧
      u.ctx.trapShadow = (s.ctx.swapBank s.ctx.trapShadow).2 ∧ u.ctx.sreg = (s.ctx.swapBank s.ctx.trapShadow).1.sreg ∧
      u.ctx.areg = (s.ctx.swapBank s.ctx.trapShadow).1.areg ∧ u.ctx.preg = (s.ctx.swapBank s.ctx.trapShadow).1.preg ∧
      SameMemory s u
    let misplaced (i : Instr) : Bool := decide (i = .eretRedirect g) && decide (t.toNat % 4 ≠ 0)
    (∀ i ∈ [Instr.eretResume f, .eretSkip f, .eretRedirect g],
      ((tact && left) = true → exec i s = .next (s.raiseIllegal 0x0B)) ∧
      ((tact && left) = false → misplaced i = true → exec i s = .next (s.raiseIllegal 0x0C)) ∧
      ((tact && left) = false → misplaced i = false → priv = false → exec i s = .next (s.raise 0x02 1)) ∧
      (misplaced i = false → priv = true → tact = false → exec i s = .next (s.raise 0x02 4))) ∧
    ∀ (saved : Pipe) (r : Raised), s.ctx.trapped = some (saved, r) → priv = true → tact = true → left = false → s.ctx.crNow = [] →
      (∃ u, exec (.eretResume f) s = .next u ∧ back u ∧ u.ctx.pipe.pc = saved.pc ∧ u.ctx.pipe.levels = saved.levels ∧
        u.ctx.pipe.skipNext = saved.skipNext) ∧
      (∃ u, exec (.eretSkip f) s = .next u ∧ back u ∧ u.ctx.pipe.pc = saved.pc ∧ u.ctx.pipe.levels = saved.levels ∧
        u.ctx.pipe.skipNext = (saved.skipNext || r.cls == 0x01) ∧
        ∀ x, saved.slots[r.slot]? = some x → r.slot < 7 → ∃ y, u.ctx.pipe.slots[r.slot]? = some y ∧ y.skip = x.cap.isSome) ∧
      (t.toNat % 4 = 0 → ∃ u, exec (.eretRedirect g) s = .next u ∧ back u ∧ u.ctx.pipe.pc = t ∧ u.ctx.landings = [] ∧
        u.ctx.replay = [] ∧ u.ctx.pipe.levels = saved.levels ∧ (∀ x ∈ u.ctx.pipe.slots, x.pos = s.ctx.pipe.count))

/-- A return from a trap restores the status, exchanges the bank and goes back. On these points it follows choices of the model: logs 29,
122, 127. -/
def Obligations.TrapReturns : Prop := Claims.shadowBanksExchange ∧ Claims.returnFromTrap

/-- R334, R335, R431: CRD reads each control register, due after 2 cycles (what comes from outside the team as an input item of record
mode); user level may not read TRAPVEC, TRAPREC, FAULTREC and WTBASE. CWR writes after 2 cycles what its level may write; another write is
a privilege trap of cause 3 at user level and ignored at privileged level; one of WTBASE waits for the update. -/
def Claims.controlRegisterAccess : Prop :=
  ∀ (f : RI) (s : State),
    let c := s.ctx
    let user := c.ctxstat.getLsbD 1 = false
    let rd := match f with
      | .r f => f.sub.toNat
      | .i f => f.imm.toNat % 1024
    let (wr, v) := match f with
      | .r f => (f.sub.toNat, s.rs f.a.toNat)
      | .i f => (f.d.toNat * 64 + f.a.toNat, f.imm.setWidth 64)
    let hidden := [0x020, 0x021, 0x022, 0x024]
    let userWrites := [0x008, 0x009, 0x00A, 0x00B, 0x00D, 0x010, 0x011, 0x012, 0x014, 0x015, 0x016, 0x018]
    let writes := if user then userWrites else userWrites ++ [0x001, 0x019, 0x01A, 0x01B, 0x020, 0x021, 0x022, 0x023, 0x024]
    (∀ p ∈ [(0x000, c.ctxid), (0x001, c.ctxstat), (0x002, BitVec.ofNat 64 (s.ddie * 2 ^ 16 + c.core % 512)), (0x004, c.domc),
        (0x005, c.domd), (0x006, c.domp), (0x007, c.domf), (0x008, c.fpst), (0x009, c.rseed0), (0x00A, c.rseed1), (0x00B, c.rseedm),
        (0x00C, c.bndst), (0x00D, c.rseeds), (0x010, c.uivec), (0x011, c.uipc), (0x012, c.uistatNow), (0x014, c.bcap), (0x015, c.chst),
        (0x016, c.ldra), (0x018, c.geomode), (0x019, c.rwin), (0x01A, c.tkexp), (0x01B, c.cflim), (0x020, c.trapvec),
        (0x021, c.traprec), (0x022, c.faultrec), (0x023, c.preq), (0x024, c.wtbase), (0x030, s.prmstNow), (0x031, c.trstat)],
      p.1 = rd → ¬ (user ∧ rd ∈ hidden) → s.captured ⟨.cr, rd⟩ = none → Issues (.crd f) (guardOf f) s
        (s.post 2 [if rd ∈ [0x002, 0x023, 0x030] then .outside rd (dOf f) p.2 else .reg ⟨.s, dOf f⟩ p.2])) ∧
    (user → rd ∈ hidden → Issues (.crd f) (guardOf f) s (s.raise 0x02 3)) ∧
    (wr ∈ writes → wr ≠ 0x024 → Issues (.cwr f) (guardOf f) s (s.post 2 [.cwr wr v])) ∧
    (wr ∈ writes → wr = 0x024 → Issues (.cwr f) (guardOf f) s
      (let u := s.waitIn (.wtbase v false)
       { u with ctx := { u.ctx with wtbase := (v &&& ~~~0x3FF) ||| 1 } })) ∧
    (wr ∉ writes → Issues (.cwr f) (guardOf f) s (if user then s.raise 0x02 3 else s))

/-- R43, R46, R284, R306, R320, R322 to R324, R333, R335, R407: what a write that falls due stores in each control register; no general
register and no byte of memory changes. -/
def Claims.controlRegisterWritesStore : Prop :=
  ∀ (v : Word) (s : State),
    let does (i : Instr) (c : Ctx) : Prop := exec i s = .next { s with ctx := c }
    let c := s.ctx
    let seed : Word := if v = 0 then 0x9E3779B97F4A7C15 else v
    let lg := (v.extractLsb' 54 6).toNat
    let reg (n : Nat) : Instr := .controlRegisterWrite (BitVec.ofNat 10 n) v
    does (.fpstWrite v) { c with fpst := (v.extractLsb' 0 13).setWidth 64 } ∧
    does (.rseedWrite 0 v) { c with rseed0 := seed } ∧ does (.rseedWrite 1 v) { c with rseed1 := seed } ∧
    does (.rseedWrite 2 v) { c with rseedm := seed } ∧ does (.rseedWrite 3 v) { c with rseeds := seed } ∧
    does (.uistatWrite v) (if v.getLsbD 30 then { c with uistat := c.uistat ||| 0x40000000, uiclear := false }
      else if c.uistat.getLsbD 31 then { c with uiclear := true } else { c with uistat := c.uistat &&& ~~~0x40000000 }) ∧
    does (reg 0x001) { c with ctxstat := (c.ctxstat &&& ~~~0x1A) ||| (v &&& 0x1A) } ∧
    does (reg 0x010) { c with uivec := v &&& ~~~3 } ∧ does (reg 0x011) { c with uipc := v } ∧
    does (reg 0x014) { c with bcap := v &&& 0x000103FFFFFFFFFF } ∧ does (reg 0x016) { c with ldra := v &&& ~~~3 } ∧
    does (reg 0x018) { c with geomode := v &&& 0xFFFFFFFFFFFF0001 } ∧ does (reg 0x01B) { c with cflim := v &&& 0xF } ∧
    does (reg 0x020) { c with trapvec := v &&& ~~~3 } ∧ does (reg 0x022) { c with faultrec := v &&& ~~~0xFF } ∧
    does (reg 0x021) { c with traprec := BitVec.ofNat 64 (min (v.extractLsb' 12 9).toNat 383 * 4096 + (v.extractLsb' 0 1).toNat) } ∧
    does (reg 0x01A) { c with tkexp :=
      (0 : BitVec 12) ++ (if v.extractLsb' 32 20 = 0 then 100000 else v.extractLsb' 32 20) ++ (0 : BitVec 12) ++
        (if v.extractLsb' 0 20 = 0 then 1000 else v.extractLsb' 0 20) } ∧
    does (reg 0x019) { c with rwin := (0 : BitVec 4) ++ (if 16 ≤ lg ∧ lg ≤ 40 then v.extractLsb' 54 6 else 0) ++ v.extractLsb' 16 38 ++
      (0 : BitVec 16) } ∧
    does (reg 0x015) { c with chst := v &&& chstMask }

/-- Control registers are read and written with the privilege and the meaning of each. On these points it follows choices of the model:
logs 22, 48, 125. That CORELOC, PREQ and PRMST are values from outside the team (log 22), and where a write of WTBASE waits (log 125), are
the model's choice. -/
def Obligations.ControlRegisters : Prop := Claims.controlRegisterAccess ∧ Claims.controlRegisterWritesStore

/-- R338, R339, R428: WFE gives the events that are set and clears the latched ones, or waits, its timeout (when not 0) running; when that
has passed, WFE_TIMEOUT ends the wait with bit 3 beside the events. YIELD begins a new quantum, or sends its team out when a team of equal
or higher effective priority waits for the die. -/
def Claims.eventsAndYield : Prop :=
  (∀ (f : RI) (s : State), Ready s →
    let ev : Word := ((s.ctx.wfeLatch &&& 5) ||| ((s.ctx.preq.extractLsb' 0 1).setWidth 3 <<< 1)).setWidth 64
    let n := (countOf s f).toNat
    Issues (.wfe f) (guardOf f) s
      (if ev = 0 then s.waitIn (.wfe (dOf f) (if n = 0 then none else some (n - 1)))
      else
        let u : State := { s with ctx := { s.ctx with wfeLatch := s.ctx.wfeLatch &&& ~~~ (ev.setWidth 3) } }
        u.post 0 [.reg ⟨.s, dOf f⟩ ev])) ∧
  (∀ (s : State) (d : Nat), (s.ctx.slot 0).wait = some (.wfe d (some 0)) → ∃ t, exec .wfeTimeout s = .next t ∧
    (t.ctx.slot 0).wait = none ∧ (t.ctx.slot 0).skip = true ∧ SameMemory s t ∧
    (t.ctx.slot 0).flights = (s.ctx.slot 0).flights ++
      [⟨(s.ctx.slot 0).time, (s.ctx.slot 0).pos, Site.none, s.ctx.uiAct, [.reg ⟨.s, d⟩ (s.ctx.wfeEvents ||| 8)], none⟩]) ∧
  ∀ (f : RI) (s : State) (t : Team),
    let go : State := { s with ctx := { s.ctx with pipe := { s.ctx.pipe with blocked := false } } }
    (s.teamOf s.ctx = none → exec (.yield f) s = .next go) ∧
    (s.teamOf s.ctx = some t →
      (s.rivalWaits t.die t.eff = false → exec (.yield f) s = .next
        { go with teams := s.teams.map fun u => if u.grid = t.grid ∧ u.num = t.num then { u with since := s.clock } else u }) ∧
      (s.rivalWaits t.die t.eff = true → ∃ u, exec (.yield f) s = .next u ∧
        (∀ x ∈ u.teams, x.grid = t.grid → x.num = t.num → x.leaving = true) ∧ SameMemory s u))

/-- R428 to R430: PRMT refuses a class outside 0 to 3 with all ones; a class not above the held one is held at once when the array is idle
and no slot has an array operation of an earlier bundle still to issue; a higher one waits for the governor, which answers in order of
arrival, and whose grant counts it against the budget, and whose refusal answers bit 63, the estimate and the held class. THROTTLE_CHANGE
sets the state of a die. -/
def Claims.permitsAndThrottle : Prop :=
  (∀ (f : RI) (s : State), Ready s →
    let held := (s.ctx.prmst.extractLsb' 0 2).toNat
    let v : Word := match f with
      | .r f => s.rs f.a.toNat
      | .i f => (f.imm.extractLsb' 0 2).setWidth 64
    (3 < v.toNat → Gives (.prmt f) (guardOf f) s 1 ⟨.s, dOf f⟩ (BitVec.allOnes 64)) ∧
    (v.toNat ≤ held → s.ctx.arrayBusy = false → (∀ x ∈ s.ctx.pipe.slots, s.ctx.now.issue.idx ≤ x.pos) → s.acts (guardOf f).1 (guardOf f).2 = true →
      ∃ t, exec (.prmt f) s = .next t ∧ t.ctx.prmst.extractLsb' 0 2 = v.extractLsb' 0 2 ∧
        t.ctx.prmst.extractLsb' 2 62 = s.ctx.prmst.extractLsb' 2 62 ∧ t.budget = s.budget - held + v.toNat ∧
        t.ctx.pipe = (s.postReg 1 ⟨.s, dOf f⟩ v).ctx.pipe ∧ SameRegs s t ∧ SameMemory s t) ∧
    (v.toNat ≤ 3 → held < v.toNat ∨ s.ctx.arrayBusy = true →
      Issues (.prmt f) (guardOf f) s ({ s with fresh := s.fresh + 1 }.waitIn (.prmt (dOf f) v.toNat (s.fresh + 1))))) ∧
  (∀ (s : State) (d cls n : Nat), s.input.uid = s.ctx.uid → (s.ctx.slot 0).wait = some (.prmt d cls n) → cls ≤ 3 →
    let held := (s.ctx.prmst.extractLsb' 0 2).toNat
    let answer (w : Word) (t : State) : Prop := (t.ctx.slot 0).wait = none ∧ (t.ctx.slot 0).flights = (s.ctx.slot 0).flights ++
      [⟨(s.ctx.slot 0).time, (s.ctx.slot 0).pos, Site.none, s.ctx.uiAct, [.reg ⟨.s, d⟩ w], none⟩]
    let earlier : Prop := ∃ c ∈ s.others, c.die = s.ctx.die ∧ c.run.alive = true ∧ ∃ m < n, c.asks = some m
    (held < cls → earlier → exec .governorAnswer s = .next s) ∧
    (held < cls → ¬ earlier →
      (s.input.flag = true → ∃ t, exec .governorAnswer s = .next t ∧ answer (BitVec.ofNat 64 cls) t ∧
        (t.ctx.prmst.extractLsb' 0 2).toNat = cls ∧ t.budget = s.budget - held + cls) ∧
      (s.input.flag = false → ∃ t, exec .governorAnswer s = .next t ∧ t.ctx.prmst = s.ctx.prmst ∧ t.budget = s.budget ∧
        answer (BitVec.ofNat 64 (2 ^ 63 + min s.input.n (2 ^ 24 - 1) * 2 ^ 16 + held)) t))) ∧
  ∀ s : State, exec .throttleChange s = .next { s with throttle := s.throttle.setIfInBounds s.input.die (BitVec.ofNat 2 s.input.n) }

/-- Waiting for events, yielding and power permits. On these points it follows choices of the model: logs 36, 49, 109. -/
def Obligations.EventsPermitsAndThrottle : Prop := Claims.eventsAndYield ∧ Claims.permitsAndThrottle

/-- R198, R202, R205, R206, R232, R233: what a probe finds at one byte. A failed check gives cause 2 to 5 by its place in R198; a byte of
a pocket, basket or hamper is well; one of a page is well when the page is resident and may be used as the intent needs, waits when it is
absent, migrating or to be copied, and fails with cause 6 when there is no entry or no right; a remote one fails with cause 7 when its die
cannot be reached. -/
def Claims.probeFindings : Prop :=
  ∀ (s : State) (intent : Nat) (x : Word), intent ≤ 2 → s.denied = [] →
    let a : Access := ⟨[Perm.read, .write, .atomic].getD intent .read, 1, false, false⟩
    let w := decide (0 < intent)
    let page (ref : PageRef) : Prop :=
      (s.findPage ref = none → s.probePage ref w = .bad 6) ∧
      ∀ p, s.findPage ref = some p →
        let sound := frameHole (p.frameOf ref) = false ∧ (ref.pkg = 0 → s.frameDown (p.frameOf ref) = false)
        let usable := w = false ∨ (p.writable = true ∧ frameFlash (p.frameOf ref) = false)
        (p.state = .absent → s.probePage ref w = .wait) ∧ (p.state = .migrating → sound → s.probePage ref w = .wait) ∧
        (p.state = .resident → sound → usable → s.probePage ref w = .ok) ∧
        (p.state = .resident → sound → ¬ usable → s.probePage ref w = if p.cow then .wait else .bad 6) ∧
        (p.state ≠ .absent → ¬ sound → s.probePage ref w = .bad 6)
    (∀ b, s.check a x = .error b →
      (b.order = 1 → s.probeByte intent x = .bad 2) ∧ (b.order = 2 → s.probeByte intent x = .bad 3) ∧
      (b.order = 4 → s.probeByte intent x = .bad 4) ∧ (b.order = 3 ∨ b.order = 5 → s.probeByte intent x = .bad 5)) ∧
    (∀ k, s.check a x = .ok (.port k) → s.probeByte intent x = .ok) ∧
    (∀ asn d, s.check a x = .ok (.virt asn d) →
      s.probeByte intent x = s.probePage ⟨0, asn, d / 4096⟩ w ∧ page ⟨0, asn, d / 4096⟩) ∧
    ∀ die asn d, s.check a x = .ok (.remote die asn d) →
      if s.reachable s.ddie die then s.probeByte intent x = s.probePage ⟨s.pkgOf die, asn, d / 4096⟩ w ∧ page ⟨s.pkgOf die, asn, d / 4096⟩
      else s.probeByte intent x = .bad 7

/-- R231 to R234: PRB whose guard is false passes; reserved bits or intent 3 trap with cause 1; a probe of LEN bytes all of which are
well, 0 bytes among them, passes, and the pages that hold them are marked; the first byte that is not well makes it wait, or trap with its
cause and address, the pages before it marked. -/
def Claims.probes : Prop :=
  ∀ (f : MForm) (s : State), Ready s →
    let ea := stdAddr s f 4096
    let u := s.mapSlot fun x => { x with ea := ea }
    let v := s.rs f.d.toNat
    let len := (v.extractLsb' 0 32).toNat
    let intent := (v.extractLsb' 32 2).toNat
    let at' (j : Nat) : Word := ea + BitVec.ofNat 64 j
    let marked (n : Nat) (t : State) : Prop :=
      t.pages.length = s.pages.length ∧ ∀ (i : Nat) (p : Page), s.pages[i]? = some p → ∃ q, t.pages[i]? = some q ∧ q = { p with probed := q.probed } ∧
        ((∃ j < n, ∃ ref, u.probedPage intent (at' j) = some ref ∧ p.covers ref = true) → q.probed = some s.clock) ∧
        (¬ (∃ j < n, ∃ ref, u.probedPage intent (at' j) = some ref ∧ p.covers ref = true) → q.probed = p.probed)
    let go (u : State) : State := { u with ctx := { u.ctx with pipe := { u.ctx.pipe with blocked := false } } }
    (u.acts f.pred f.pneg = false → exec (.prb f) s = .next (go u)) ∧
    (u.acts f.pred f.pneg = true → (v.extractLsb' 34 30 ≠ 0 ∨ intent = 3) →
      exec (.prb f) s = .next (u.raise 0x03 1 (BitVec.ofNat 64 intent) ea)) ∧
    (u.acts f.pred f.pneg = true → v.extractLsb' 34 30 = 0 → intent ≠ 3 → s.ctx.now.issue.ops[s.k.val]? = some (some (.prb f)) →
      ((∀ j < len, u.probeByte intent (at' j) = .ok) →
        ∃ t, exec (.prb f) s = .next t ∧ t.ctx = (go u).ctx ∧ marked len t ∧ SameMemory s t) ∧
      ∀ n < len, (∀ j < n, u.probeByte intent (at' j) = .ok) →
        (u.probeByte intent (at' n) = .wait →
          ∃ t, exec (.prb f) s = .next t ∧ t.ctx = (u.waitIn (.prb ea)).ctx ∧ marked n t ∧ SameMemory s t) ∧
        ∀ c, u.probeByte intent (at' n) = .bad c → ∃ t, exec (.prb f) s = .next t ∧
          t.ctx = (u.raise 0x03 c (BitVec.ofNat 64 intent) (at' n)).ctx ∧ marked n t ∧ SameMemory s t)

/-- R420, R421: LAUNCH traps at user level and waits while a write of its context is on its way. Otherwise a record that can be read is
accepted, and s[D] gets an identifier that no live grid bears, or refused with its lowest cause and bit 63, and nothing else happens; a
record that cannot be read is refused with cause 1. -/
def Claims.launches : Prop :=
  ∀ (f : RI) (s : State), Ready s →
    let (a, d) : Word × Nat := match f with
      | .r f => (s.ra f.a.toNat, f.d.toNat)
      | .i f => (s.ra f.a.toNat + f.imm.signExtend 64, f.d.toNat)
    let answers (v : Word) (t : State) : Prop := exec (.launch f) s = .next t ∧ t.ctx.pipe = (s.postReg 1 ⟨.s, d⟩ v).ctx.pipe ∧
      SameRegs s t ∧ SameControl s t ∧ SameMemory s t
    let refused (cause : Nat) : Prop := ∃ t, exec (.launch f) s = .next t ∧
      t = { s.postReg 1 ⟨.s, d⟩ (BitVec.ofNat 64 (2 ^ 63 + cause)) with history := t.history }
    (s.ctx.ctxstat.getLsbD 1 = false → exec (.launch f) s = .next (s.raise 0x02 1)) ∧
    (s.ctx.ctxstat.getLsbD 1 = true → WriteOnItsWay s → Waits (.launch f) s (.launch a d false)) ∧
    (s.ctx.ctxstat.getLsbD 1 = true → Quiet s →
      (a.toNat % 64 ≠ 0 ∨ s.launchBytes false 8 a.toNat = .bad → refused 1) ∧
      (a.toNat % 64 = 0 → ∀ bs, s.launchBytes false 8 a.toNat = .ok bs →
        let ws := (List.range 64).map fun i => Bits.leWord ((bs.drop (8 * i)).take 8)
        let img := (ws.getD 2 0).toNat
        (img % 1024 ≠ 0 ∨ s.launchBytes false 16 img = .bad → refused 1) ∧
        (img % 1024 = 0 → ∀ im, s.launchBytes false 16 img = .ok im →
          let cause := s.launchCause ws im true
          (cause ≠ 0 → refused cause) ∧
          (cause = 0 → (∀ g ∈ s.grids, g.deps.length ≤ 4) → ∃ t id, id < 2 ^ 24 ∧ (∀ g ∈ s.grids, g.id ≠ id) ∧ answers (BitVec.ofNat 64 id) t ∧
            (depsOf ws = [] → (∀ g ∈ s.grids, g.eligible = true) → t.grids.map Grid.id = s.grids.map Grid.id ++ [id])))))

/-- R142, R327, R328: SAVE to an address that is not global or no multiple of 64 KiB is an illegal encoding, at either level; otherwise it
traps at user level. It sends the header and the sections that its mask selects, as they stand, at their offsets, and waits; when they are
performed it goes on. A header that fails its check is the context error of that check. -/
def Claims.saves : Prop :=
  ∀ (f : RI) (s : State), Ready s →
    let (a, mask) : Word × Nat := match f with
      | .r f => (s.ra f.a.toNat, f.sub.toNat % 16)
      | .i f => (s.ra f.a.toNat, f.imm.toNat % 16)
    let pc := ((s.endBundle).map fun s => s.ctx.pipe.pc).getD s.ctx.now.issue.next
    let part (i : Nat) (x : Nat × List Byte) : List (Nat × List Byte) := if mask.testBit i then [x] else []
    let secs : List (Nat × List Byte) := (0, s.imageHead mask pc s.ctx.pipe.mpc) :: (part 0 (0x100, s.imageRegs (s.fresh * 65536)) ++
      part 1 (0x10000, s.ctx.imageTiles) ++ part 2 (0x30000, Mem.read s.mem (trayKey s.ctx.core 0 0) (2 ^ 18)) ++
      part 3 (0x70000, Mem.read s.mem (pocketKey s.ctx.core 0) (2 ^ 21)))
    let place (x : Nat × List Byte) := s.check ⟨.write, x.2.length, false, false⟩ (a + BitVec.ofNat 64 x.1)
    (a.msb = true ∨ a.toNat % 65536 ≠ 0 → exec (.save f) s = .next (s.raiseIllegal 0x04)) ∧
    (a.msb = false → a.toNat % 65536 = 0 → s.ctx.ctxstat.getLsbD 1 = false → exec (.save f) s = .next (s.raise 0x02 1)) ∧
    (a.msb = false → a.toNat % 65536 = 0 → s.ctx.ctxstat.getLsbD 1 = true →
      (s.reqs = [] → s.resps = [] → (∀ x ∈ secs, ∃ p, place x = .ok p) → ∃ t, exec (.save f) s = .next t ∧
        (t.ctx.slot s.k).wait = ((s.waitIn (.save a mask true)).ctx.slot s.k).wait ∧ SameRegs s t ∧ SameMemory s t ∧
        t.reqs.length = secs.length ∧
        (∀ (i : Nat) (x : Nat × List Byte), secs[i]? = some x → ∃ r, t.reqs[i]? = some r ∧ r.act = .write x.2 ∧ r.uid = s.ctx.uid ∧ r.scope = 3 ∧
          place x = .ok r.place) ∧
        (Quiet s → let v := State.pollSave { t with reqs := [] }
          v.ctx.pipe.blocked = false ∧ (v.ctx.slot s.k).wait = ((s.endWait []).ctx.slot s.k).wait ∧ SameRegs s v ∧ SameMemory s v)) ∧
      ∀ b, place (0, s.imageHead mask pc s.ctx.pipe.mpc) = .error b → ∃ t r, exec (.save f) s = .next t ∧ t.ctx.raised = s.ctx.raised ++ [r] ∧
        r.cls = b.cls ∧ r.cause = b.cause ∧ r.addr = a ∧ t.reqs = s.reqs ∧ SameRegs s t ∧ SameMemory s t)

/-- PRB, LAUNCH and SAVE complete, wait or trap, as the state and the operands decide. On these points it follows choices of the model:
logs 77, 112. -/
def Obligations.ProbeLaunchAndSave : Prop := Claims.probeFindings ∧ Claims.probes ∧ Claims.launches ∧ Claims.saves

/-- R323 to R326, R333: a pre-emption request of a running context sets REQ and FRZ and begins the freeze form when FRZ forbids the drain
or no loop can drain; one that comes while STATE is not 0 has no effect. A freezing context whose work is captured stands frozen in STATE
3, and is out of its core when its team leaves and no other member is left on one; RESUME clears REQ and STATE, leaves FRZ, and lets it
run, unless it has stopped for its team. DEBUGGER_ATTACH sets DBG. On these points it follows choices of the model: logs 24, 50, 53, 110.
That the limit of a drain is 20 microseconds of the throttle state at the test (log 110) is the model's choice. -/
def Obligations.PreemptionAndResume : Prop :=
  let state (c : Ctx) : Nat := (c.preq.extractLsb' 2 2).toNat
  (∀ (s : State) (frz : Bool),
    (state s.ctx ≠ 0 → exec (.preemptionRequest s.ctx.uid frz) s = .next s) ∧
    (state s.ctx = 0 → s.ctx.run = .running → s.ctx.raised = [] → frz = true ∨ s.ctx.canDrain = false →
      ∃ t, exec (.preemptionRequest s.ctx.uid frz) s = .next t ∧ t.ctx.preq.getLsbD 0 = true ∧ t.ctx.preq.getLsbD 1 = frz ∧
        state t.ctx = 2 ∧ t.ctx.preq.getLsbD 4 = false ∧ t.ctx.run = .freezing ∧ SameRegs s t ∧ SameMemory s t) ∧
    (state s.ctx = 0 → s.ctx.run = .running → s.ctx.raised = [] → frz = false → s.ctx.canDrain = true →
      ∃ t, exec (.preemptionRequest s.ctx.uid frz) s = .next t ∧ t.ctx.preq.getLsbD 0 = true ∧ state t.ctx = 1 ∧
        t.ctx.run = .draining ∧ SameRegs s t ∧ SameMemory s t)) ∧
  (∀ (s : State) (v : Word),
    (state s.ctx ≠ 0 → v.getLsbD 0 = true → exec (.preqWrite v) s = .next s) ∧
    (v.getLsbD 0 = false → exec (.preqWrite v) s = .next { s with ctx := { s.ctx with
      preq := (s.ctx.preq &&& ~~~3) ||| (v &&& 2) } }) ∧
    (state s.ctx = 0 → v.getLsbD 0 = true → v.getLsbD 1 = true → s.ctx.run = .running → s.ctx.raised = [] →
      ∃ t, exec (.preqWrite v) s = .next t ∧ t.ctx.run = .freezing ∧ state t.ctx = 2 ∧ t.ctx.preq.getLsbD 0 = true)) ∧
  (∀ s : State, if s.ctx.run = .draining ∧ 20 * s.usCycles s.ctx.die ≤ s.ctx.drainFor
    then ∃ t, exec .drainTimeout s = .next t ∧ t.ctx.run = .freezing ∧ state t.ctx = 2 ∧ SameRegs s t ∧ SameMemory s t
    else exec .drainTimeout s = .next s) ∧
  (∀ s : State, s.ctx.run = .freezing → s.ctx.array = none → s.ctx.chain = none → s.reqs = [] → s.resps = [] →
    (∀ x ∈ s.ctx.pipe.slots, x.wait = none ∧ ∀ f ∈ x.flights, f.mem.any MemOp.isWrite = false) →
    let keeps := s.ctx.dbgCode.isSome || s.ctx.preq.getLsbD 1
    let mate (c : Ctx) : Prop := c ∈ s.others ∧ c.grid = s.ctx.grid ∧ c.team = s.ctx.team ∧ c.run ≠ .empty
    ∃ t, exec .freeze s = .next t ∧ state t.ctx = 3 ∧ t.ctx.landings = [] ∧
      t.ctx.replay.length = s.ctx.replay.length + s.ctx.landings.length ∧ SameRegs s t ∧
      (s.teamLeaves s.ctx.grid s.ctx.team = false ∨ keeps = true ∨ (∃ c, mate c ∧ c.run.over = false ∧ (c.run = .frozen → c.keepsCore = true)) →
        t.ctx.run = .frozen ∧ SameMemory s t) ∧
      (s.teamLeaves s.ctx.grid s.ctx.team = true → keeps = false → (∀ c, ¬ mate c) → t.ctx.run = .swapped ∧
        ∀ x ∈ t.teams, x.grid = s.ctx.grid → x.num = s.ctx.team → x.resident = false ∧ x.swapped = true ∧ x.leaving = false)) ∧
  (∀ (s : State) (ok : Bool), s.ctx.run = .frozen →
    (s.teamLeaves s.ctx.grid s.ctx.team = true → s.ctx.keepsCore = false → exec (.resume s.ctx.uid ok) s = .next s) ∧
    (s.teamLeaves s.ctx.grid s.ctx.team = false → ∃ t, exec (.resume s.ctx.uid ok) s = .next t ∧ t.ctx.run = .running ∧
      t.ctx.preq.getLsbD 0 = false ∧ t.ctx.preq.getLsbD 1 = s.ctx.preq.getLsbD 1 ∧ state t.ctx = 0 ∧
      t.ctx.replay = s.ctx.replay.filter (fun e => e.saved) ∧ t.ctx.dbgCode = none ∧ SameRegs s t ∧ SameMemory s t)) ∧
  ∀ s : State, s.input.uid = s.ctx.uid → ∃ t, exec .debuggerAttach s = .next t ∧ t.ctx.ctxstat.getLsbD 7 = s.input.flag ∧
    (∀ i, i ≠ 7 → t.ctx.ctxstat.getLsbD i = s.ctx.ctxstat.getLsbD i) ∧ SameRegs s t ∧ SameMemory s t

/-- R166, R318, R322: a context that has executed HALT, or that a host command ends, is over once its results are written, its commands
have started and its writes are performed. A context error stops its context: the record goes to its die's steward error queue and, where
FAULTREC names an address that passes the checks of a store, there; an unhandled trap is class 0x28 (0x27 for a poisoned counter). In both
cases the context's team and grid, which stand listed, end with their last member and their last team. On these points it follows choices
of the model: log 111. -/
def Obligations.ContextsEnd : Prop :=
  (∀ s : State, TeamStands s → s.ctx.run = .halting ∨ (s.ctx.run = .running ∧ s.ctx.pipe.halt = true ∧ s.ctx.raised = [] ∧
      ∀ x ∈ s.ctx.pipe.slots, x.pos = s.ctx.pipe.count) →
    s.ctx.landings = [] → s.ctx.releases = [] → s.ctx.array = none → (∀ x ∈ s.ctx.pipe.slots, x.flights = []) →
    (∀ c ∈ s.cmds, c.uid = s.ctx.uid → c.started = true) → (∀ r ∈ s.reqs, r.uid = s.ctx.uid → r.isWrite = false) →
    (∀ r ∈ s.resps, r.uid = s.ctx.uid → r.write = false) →
    ∃ t, exec .contextHaltComplete s = .next t ∧ IsOver s t .halted ∧ SameRegs s t ∧ SameControl s t ∧ SameMemory s t) ∧
  (∀ s : State, s.ctx.run = .running → s.ctx.pipe.halt = false → exec .contextHaltComplete s = .next s) ∧
  ∀ (s : State) (r : Raised), TeamStands s → s.ctx.run = .running ∨ s.ctx.run = .freezing → s.ctx.raised = [r] →
    r.late = true ∨ (s.ctx.trapReady r = true ∧ (0x21 ≤ r.cls.toNat ∨ s.ctx.unhandled = true)) →
    let far := s.ctx.faultrec &&& ~~~0xFF
    let e := if 0x21 ≤ r.cls.toNat then r else if r.cls = 0x09 then { r with cls := 0x27, cause := 0 } else { r with cls := 0x28, cause := r.cls }
    ∃ t q, exec .contextErrorStop s = .next t ∧ IsOver s t .stopped ∧ t.ctx.raised = [] ∧ SameRegs s t ∧
      t.errq = s.errq ++ [q] ∧ q.die = s.ctx.die ∧ q.kind = 0x01 ∧ q.ctxid = s.ctx.ctxid ∧ q.body = (s.ctx.recordHead e).take 136 ∧
      (far = 0 ∨ (∃ b, s.check ⟨.write, 256, false, false⟩ far = .error b) → t.reqs = s.reqs) ∧
      (∀ p, far ≠ 0 → s.check ⟨.write, 256, false, false⟩ far = .ok p → ∃ w, t.reqs = s.reqs ++ [w] ∧ w.act = .write (s.ctx.recordHead e) ∧
        w.place = p ∧ w.ea = far ∧ w.uid = s.ctx.uid ∧ w.scope = 4) ∧ SameMemory s t

/-- R205, R329, R330: an update of the window table waits while another is in progress or waits before it, and while its image is parked.
Then an image that is unreadable or breaks R200 changes no table and leaves STATUS 2; a good one is sent to every member of the team, each
of which takes it at its acknowledgment; the last completes the update with STATUS 0. A core on which nothing runs can be gated, and keeps
a pending table until it wakes. On these points it follows choices of the model: log 125. -/
def Obligations.WindowTableUpdates : Prop :=
  (∀ (s : State) (v : Word), let a := (v &&& ~~~0x3FF).toNat
    let status (t : State) : Nat := (t.ctx.wtbase.extractLsb' 0 2).toNat
    let turn : Prop := s.wtUpdate = none ∧ (s.wtQueue = [] ∨ s.wtQueue.head? = some (s.ctx.uid, v))
    (¬ turn ∨ s.wtImage v = .park → exec (.wtbaseWrite v) s = .next s) ∧
    (∀ bs, s.wtImage v = .ok bs → bs.length = 1024 ∧ ∀ i < 16, ∃ k, s.launchKey false (a + 64 * i) = .ok k ∧
      (bs.drop (64 * i)).take 64 = Mem.read s.mem k 64) ∧
    (turn → s.wtImage v = .bad ∨ (∃ bs, s.wtImage v = .ok bs ∧ imageRefused bs = true) →
      ∃ t, exec (.wtbaseWrite v) s = .next t ∧ status t = 2 ∧ t.ctx.windows = s.ctx.windows ∧
        t.others.map Ctx.windows = s.others.map Ctx.windows ∧ t.wtUpdate = none ∧ t.wtQueue = s.wtQueue.tail ∧ SameMemory s t) ∧
    (turn → ∀ bs, s.wtImage v = .ok bs → imageRefused bs = false →
      ∃ t, exec (.wtbaseWrite v) s = .next t ∧ status t = 1 ∧ t.ctx.windows = s.ctx.windows ∧ t.wtQueue = s.wtQueue.tail ∧
        t.wtUpdate = some (s.ctx.uid, winEntries bs,
          ((s.ctx :: s.others).filter fun c => c.grid == s.ctx.grid && c.team == s.ctx.team && c.run != .empty).map Ctx.uid) ∧
        SameMemory s t)) ∧
  (∀ (s : State) (ws : List WinEntry), s.wtUpdate = some (s.ctx.uid, ws, [s.ctx.uid]) → s.input.uid = s.ctx.uid → s.gatedCores = [] →
    ∃ t, exec .windowTableAck s = .next t ∧ t.ctx.windows = ws ∧ t.wtUpdate = none ∧ (t.ctx.wtbase.extractLsb' 0 2).toNat = 0 ∧ SameMemory s t) ∧
  (∀ s : State, (∀ g ∈ s.gatedCores, g.1 ≠ s.input.n) →
    exec .corePowerGate s = .next (if (s.ctx :: s.others).any fun c => decide (c.core = s.input.n) &&
        [Run.running, .halting, .draining, .freezing].contains c.run then s
      else { s with gatedCores := (s.input.n, none) :: s.gatedCores })) ∧
  ∀ (s : State) (n : Nat) (ws : List WinEntry) (rest : List (Nat × Option (List WinEntry))), s.input.n = n →
    s.gatedCores = (n, some ws) :: rest → s.ctx.core = n → s.ctx.run ≠ .empty →
    ∃ t, exec .coreWake s = .next t ∧ t.ctx.windows = ws ∧ (∀ g ∈ t.gatedCores, g.1 ≠ n) ∧ SameMemory s t

/-- R40, R44, R45, R172 to R175: VADD, VSUB, VMUL, VFMA, VFMS and VFNMA on every operand. They round the exact result of each element
once; an infinite operand gives an infinity of its or the product's sign; a NaN operand, 0 × ∞ and the sum of opposite infinities give the
canonical NaN; the addend's or the product's sign is inverted before the rounding; the flags are those of R45. Due after 4 cycles. -/
def Claims.vectorArithmetic : Prop :=
  ∀ (f : RI) (s : State), 9 ≤ dtOf f → dtOf f ≤ 11 →
    let t := Fp.ofCode (dtOf f)
    let w := t.width
    let md := modeOf f
    let x (e : Nat) := Fp.decode t (elA s w f e)
    let y (e : Nat) := Fp.decode t (elB s w f e)
    let z (e : Nat) := Fp.decode t (elC s w f e)
    let zero (p q : Bool) := if p = q then p else decide (md = .rdn)
    let round (r : Nat × Fp.Flags) (q : ℚ) (neg : Bool) : Prop := ∃ v, IsExact v q neg ∧ r.1 = (Fp.round t md false 0 v).1 ∧ ArithFlags t md v r.2
    let inf (n : Bool) : Nat × Fp.Flags := (t.signed n t.infPat, 0)
    let nan (sig : Bool) : Nat × Fp.Flags := (t.canonNaN, if sig then Fp.iv else 0)
    let infinite (v : Fp.FVal) : Bool := v == .inf v.sign
    let two (i : Instr) (prod flip : Bool) (val : ℚ → ℚ → ℚ) (neg : Bool → Bool → Bool) : Prop :=
      ∃ r, GivesElems i s s 4 (dOf f) w (lanesOf s (guardOf f)) (ivpOf f) r ∧ ∀ e < 2048 / w,
        let b := flip ^^ (y e).sign
        ((x e).isNaN ∨ (y e).isNaN → r e = nan ((x e).isSig || (y e).isSig)) ∧
        ((x e).isNaN = false → (y e).isNaN = false →
          (prod = true → (infinite (x e) || infinite (y e)) = true →
            r e = if (x e).isZero || (y e).isZero then nan true else inf ((x e).sign ^^ (y e).sign)) ∧
          (prod = false → infinite (x e) = true → r e = if infinite (y e) && b != (x e).sign then nan true else inf (x e).sign) ∧
          (prod = false → infinite (x e) = false → infinite (y e) = true → r e = inf b)) ∧
        ∀ p q, ratVal (x e) = some p → ratVal (y e) = some q → round (r e) (val p q) (neg (x e).sign (y e).sign)
    let three (i : Instr) (np nz : Bool) (val : ℚ → ℚ → ℚ → ℚ) (neg : Bool → Bool → Bool) : Prop :=
      ∃ r, GivesElems i s s 4 (dOf f) w (lanesOf s (guardOf f)) (ivpOf f) r ∧ ∀ e < 2048 / w,
        let a := np ^^ (x e).sign ^^ (y e).sign
        let b := nz ^^ (z e).sign
        let bad := (infinite (x e) && (y e).isZero) || (infinite (y e) && (x e).isZero)
        ((x e).isNaN ∨ (y e).isNaN → r e = nan ((x e).isSig || (y e).isSig || (z e).isSig)) ∧
        ((x e).isNaN = false → (y e).isNaN = false →
          (bad = true → r e = nan true) ∧ (bad = false → (z e).isNaN = true → r e = nan (z e).isSig) ∧
          (bad = false → (z e).isNaN = false →
            ((infinite (x e) || infinite (y e)) = true → r e = if infinite (z e) && b != a then nan true else inf a) ∧
            ((infinite (x e) || infinite (y e)) = false → infinite (z e) = true → r e = inf b))) ∧
        ∀ p q c, ratVal (x e) = some p → ratVal (y e) = some q → ratVal (z e) = some c →
          round (r e) (val p q c) (neg ((x e).sign ^^ (y e).sign) (z e).sign)
    two (.vadd f) false false (· + ·) zero ∧ two (.vsub f) false true (· - ·) (fun p q => zero p !q) ∧
    two (.vmul f) true false (· * ·) (· ^^ ·) ∧ three (.vfma f) false false (fun p q c => p * q + c) zero ∧
    three (.vfms f) false true (fun p q c => p * q - c) (fun p q => zero p !q) ∧
    three (.vfnma f) true false (fun p q c => -(p * q) + c) (fun p q => zero (!p) q)

/-- R155, R174: VMIN and VMAX choose by the rules of FMIN and FMAX; VABS clears and VNEG inverts the sign bit; VCPS takes the sign of b.
-/
def Claims.vectorSignsAndChoices : Prop :=
  ∀ (f : RI) (s : State), 9 ≤ dtOf f → dtOf f ≤ 11 →
    let t := Fp.ofCode (dtOf f)
    let w := t.width
    let g := lanesOf s (guardOf f)
    let half := 2 ^ (w - 1)
    (∃ lo hi, GivesElems (.vmin f) s s 4 (dOf f) w g (ivpOf f) lo ∧ GivesElems (.vmax f) s s 4 (dOf f) w g (ivpOf f) hi ∧
      ∀ e < 2048 / w, Chooses t (elA s w f e) (elB s w f e) (lo e) (hi e)) ∧
    GivesBits (.vabs f) s 4 (dOf f) w g (fun e => elOne s w f e % half) ∧
    GivesBits (.vneg f) s 4 (dOf f) w g (fun e => elOne s w f e + half) ∧
    GivesBits (.vcps f) s 4 (dOf f) w g (fun e => elA s w f e % half + elB s w f e / half * half)

/-- R50, R51, R176: the seeds. For |x| in [2^E · (1 + T/128), 2^E · (1 + (T+1)/128)) the result is formed from the middle of that range,
rounded to 12 significant bits; special operands give the values of R51. Due after 6 cycles. -/
def Claims.vectorSeeds : Prop :=
  ∀ (f : RForm) (s : State),
    let x (e : Nat) := Fp.decode Fp.f32 (Bits.elem (s.rv f.a.toNat) 32 e)
    let g := lanesOf s (f.pred, f.pneg)
    let out (neg : Bool) (k : Nat) (e : Int) := Fp.round Fp.f32 .rne false 0 (.fin neg k e)
    let inf := 0x7F800000
    let nan := 0x7FC00000
    let sign := 0x80000000
    ∃ rcps rsqs exp2 log2 : Nat → Nat × Fp.Flags,
      GivesElems (.vrcps f) s s 6 f.d.toNat 32 g f.sub rcps ∧ GivesElems (.vrsqs f) s s 6 f.d.toNat 32 g f.sub rsqs ∧
      GivesElems (.vexp2s f) s s 6 f.d.toNat 32 g f.sub exp2 ∧ GivesElems (.vlog2s f) s s 6 f.d.toNat 32 g f.sub log2 ∧
      ∀ e < 64,
        (∀ sig, x e = .nan sig → ∀ r ∈ [rcps e, rsqs e, exp2 e, log2 e], r = (nan, if sig then Fp.iv else 0)) ∧
        (x e = .inf false → rcps e = (0, 0) ∧ rsqs e = (0, 0) ∧ exp2 e = (inf, 0) ∧ log2 e = (inf, 0)) ∧
        (x e = .inf true → rcps e = (sign, 0) ∧ rsqs e = (nan, Fp.iv) ∧ exp2 e = (0, 0) ∧ log2 e = (nan, Fp.iv)) ∧
        (ratVal (x e) = some 0 → log2 e = (sign + inf, Fp.dz) ∧
          ∀ r ∈ [rcps e, rsqs e], r = (if (x e).sign then sign + inf else inf, Fp.dz)) ∧
        (∀ q, ratVal (x e) = some q → q < 0 → rsqs e = (nan, Fp.iv) ∧ log2 e = (nan, Fp.iv)) ∧
        (∀ (q : ℚ) (E : Int) (T : Nat), ratVal (x e) = some q → q ≠ 0 → T < 128 →
          2 ^ E * (1 + (T : ℚ) / 128) ≤ |q| → |q| < 2 ^ E * (1 + (T + 1 : ℚ) / 128) →
          let m : ℚ := 1 + (2 * T + 1 : ℚ) / 256
          (∃ k : Nat, 2048 ≤ k ∧ k < 4096 ∧ |1 / m - k / 4096| ≤ 1 / 8192 ∧ rcps e = out (x e).sign k (-12 - E)) ∧
          (0 < q → ∃ k : Nat, 2048 ≤ k ∧ k < 4096 ∧ rsqs e = out false k (-12 - E / 2) ∧
            let m' := if E % 2 = 1 then 2 * m else m
            ((2 * k - 1 : ℚ) / 8192) ^ 2 * m' ≤ 1 ∧ 1 ≤ ((2 * k + 1 : ℚ) / 8192) ^ 2 * m') ∧
          (0 < q → ∃ k : Nat, log2 e = out (decide (E < 0)) (E * 4096 + k).natAbs (-12) ∧
            (k = 0 ∨ (2 : ℚ) ^ (2 * k - 1) ≤ m ^ 8192) ∧ m ^ 8192 ≤ (2 : ℚ) ^ (2 * k + 1))) ∧
        ∀ (q : ℚ) (n : Int) (G : Nat), ratVal (x e) = some q → n = ⌊q⌋ → G = ⌊Int.fract q * 128⌋₊ →
          ∃ k : Nat, 2048 ≤ k ∧ k ≤ 4096 ∧ exp2 e = out false k (n - 11) ∧
            ((2 * k - 1 : ℚ) / 4096) ^ 256 ≤ 2 ^ (2 * G + 1) ∧ 2 ^ (2 * G + 1) ≤ ((2 * k + 1 : ℚ) / 4096) ^ 256

/-- The vector float operations complete, element by element, in the active lanes. On these points it follows choices of the model: logs
41, 45, 132. -/
def Obligations.VectorFloats : Prop := Claims.vectorArithmetic ∧ Claims.vectorSignsAndChoices ∧ Claims.vectorSeeds

/-- R43, R47 to R49, R76, R172, R177 to R179: VCVT, VPACK and VUNPK convert element by element, rounding once; the places of narrow
elements, with v[D] as it was at issue in every other place of VPACK's result; the random values of .rsto by element number. On these
points it follows choices of the model: logs 40, 45. -/
def Obligations.VectorConversions : Prop :=
  ∀ (f : RForm) (s : State), s.k = 1 ∨ s.k = 2 →
    let dt := f.dt.toNat
    let st := f.st.toNat
    let md := Fp.Mode.ofCode f.rm
    let g := lanesOf s (f.pred, f.pneg)
    let s' := drawn s md
    let q := f.sub.toNat % 8
    let l := f.sub.getLsbD 3
    (dt ∈ [9, 10, 11, 3, 7, 2, 6] → st ∈ [9, 10, 11, 3, 7, 2, 6] → dt ≠ st → 9 ≤ dt ∨ 9 ≤ st →
      let hs := f.sub.toNat % 2
      let hd := f.sub.toNat / 2 % 2
      ∃ r, GivesElems (.vcvt f) s s' 3 f.d.toNat (wOf dt) g f.sub r ∧ ∀ e < 2048 / wOf dt,
        let converts (j : Nat) : Prop := ∃ x v fl, IsOperand st (BitVec.ofNat 64 (Bits.elem (s.rv f.a.toNat) (wOf st) j)) x ∧
          Converted dt md f.sat (rndOf s j) x v fl ∧ r e = (v.toNat % 2 ^ wOf dt, fl)
        if wOf dt = wOf st then converts e
        else if wOf st = 16 then converts (2 * e + hs)
        else if e % 2 = hd then converts (e / 2)
        else r e = (Bits.elem (s.rv f.d.toNat) 16 e, 0)) ∧
    (dt ∈ [1, 5, 12, 13, 14, 15, 16] → st ∈ [0, 9, 3, 7] → q < 4 ∨ dt = 16 →
      let n := narrowBits dt
      let filled := if n = 6 ∧ l = false then 8 else n
      ∃ (r : Nat → Nat × Fp.Flags) (v : Vec) (fl : Fp.Flags) (inv : Word),
        exec (.vpack f) s = .next (s'.post 4 ([.vec f.d.toNat v (BitVec.allOnes 2048), .flags (flagsV fl)] ++
          if f.sub.getLsbD 9 then [.reg ⟨.p, (f.sub.extractLsb' 4 5).toNat⟩ inv] else [])) ∧
        (∀ i < 64, g.getLsbD i = true → ∀ j < filled, v.getLsbD (narrowAt dt q l i + j) = ((r i).1 % 2 ^ n).testBit j) ∧
        (∀ b < 2048, (∀ i < 64, g.getLsbD i = true → b < narrowAt dt q l i ∨ narrowAt dt q l i + filled ≤ b) →
          v.getLsbD b = (s.rv f.d.toNat).getLsbD b) ∧
        (∀ j < 5, fl.getLsbD j = true ↔ ∃ i < 64, g.getLsbD i = true ∧ (r i).2.getLsbD j = true) ∧
        (∀ i < 64, inv.getLsbD i = true ↔ g.getLsbD i = true ∧ (r i).2.getLsbD 0 = true) ∧
        ∀ i < 64,
          let x := Bits.elem (s.rv f.a.toNat) 32 i
          if st = 0 then r i = (x % 2 ^ n, 0)
          else if 9 ≤ st ∨ 9 ≤ dt then
            ∃ y v fl, IsOperand st (BitVec.ofNat 64 x) y ∧ Converted dt md f.sat (rndOf s i) y v fl ∧ r i = (v.toNat % 2 ^ n, fl)
          else r i = ((typeFit f.sat dt (elVal st x)).toNat % 2 ^ 8, 0)) ∧
    ((st ∈ [12, 13, 14, 15, 16] ∧ (dt = 9 ∨ dt = 7)) ∨ (st = 1 ∧ (dt = 3 ∨ dt = 9)) ∨ (st = 5 ∧ (dt = 7 ∨ dt = 9)) →
      q < 4 ∨ st = 16 →
      ∃ r, GivesElems (.vunpk f) s s 4 f.d.toNat 32 g f.sub r ∧ ∀ i < 64,
        let x := (s.rv f.a.toNat).extractLsb' (narrowAt st q l i) (narrowBits st)
        if dt = 9 then ∃ y, IsOperand st (x.setWidth 64) y ∧ r i = Fp.round Fp.f32 .rne false 0 y
        else if 9 ≤ st then r i = (x.toNat, 0)
        else r i = ((BitVec.ofInt 32 (elVal st x.toNat)).toNat, 0))

/-- R173, R180: VCMP writes all 64 bits of a predicate: bit i tells that lane i is active and the condition holds in every element of the
lane, in any, or in its first, as comb says. -/
def Claims.vectorCompare : Prop :=
  ∀ (f : RForm) (s : State),
    let t := f.dt.toNat
    let w := wOf t
    let n := 32 / w
    let g := lanesOf s (f.pred, f.pneg)
    let cond := f.sub.toNat % 8
    let comb := f.sub.toNat / 8 % 4
    t ∈ [9, 10, 11, 3, 7, 2, 6, 1, 5] → comb ≤ 2 → 9 ≤ t ∨ cond < 6 →
    let x (e : Nat) := Bits.elem (s.rv f.a.toNat) w e
    let y (e : Nat) := Bits.elem (s.rv f.b.toNat) w e
    let val (p : Nat) := Fp.decode (Fp.ofCode t) p
    let holds (e : Nat) : Prop := if 9 ≤ t then FloatHolds cond (val (x e)) (val (y e)) else cmpHolds cond (elVal t (x e)) (elVal t (y e))
    ∃ (r : Word) (fl : Fp.Flags), exec (.vcmp f) s = .next (s.post 4 [.reg ⟨.p, f.d.toNat⟩ r, .flags (flagsV fl)]) ∧
      (∀ i < 64, r.getLsbD i = true ↔ g.getLsbD i = true ∧
        match comb with
        | 0 => ∀ h < n, holds (i * n + h)
        | 1 => ∃ h < n, holds (i * n + h)
        | _ => holds (i * n)) ∧
      ((∃ e < 2048 / w, g.getLsbD (e / n) = true ∧ 9 ≤ t ∧ ((val (x e)).isSig ∨ (val (y e)).isSig)) → fl = Fp.iv) ∧
      ((¬ ∃ e < 2048 / w, g.getLsbD (e / n) = true ∧ 9 ≤ t ∧ ((val (x e)).isSig ∨ (val (y e)).isSig)) → fl = 0)

/-- R181, R182: selection, copies, broadcast, iota and the permutations move bits; no flag is raised. -/
def Claims.vectorMoves : Prop :=
  (∀ (f : RForm) (s : State),
    let g := lanesOf s (f.pred, f.pneg)
    let t := f.dt.toNat
    let w := wOf t
    let a (w e : Nat) := Bits.elem (s.rv f.a.toNat) w e
    let b (w e : Nat) := Bits.elem (s.rv f.b.toNat) w e
    let n := if f.sub.getLsbD 6 then (s.rs f.b.toNat).toNat % 64 else f.sub.toNat % 64
    GivesBits (.vsel f) s 4 f.d.toNat 32 g (fun i => if (s.rp f.c.toNat).getLsbD i then a 32 i else b 32 i) ∧
    GivesBits (.vmov f) s 4 f.d.toNat 32 g (a 32) ∧
    (t ∈ [3, 7, 2, 6] → GivesBits (.viota f) s 4 f.d.toNat w g
      (fun e => (s.rs f.a.toNat + (f.sub.extractLsb' 0 8).signExtend 64 * BitVec.ofNat 64 e).toNat)) ∧
    (f.sub.toNat % 128 ≤ 64 → GivesBits (.vshf f) s 4 f.d.toNat 32 g
      (fun i => if i + f.sub.toNat % 128 < 64 then a 32 (i + f.sub.toNat % 128) else b 32 (i + f.sub.toNat % 128 - 64))) ∧
    (t = 7 ∨ t = 6 → GivesBits (.vperm f) s 4 f.d.toNat w g (fun e => a w (b w e % (2048 / w)))) ∧
    GivesBits (.vrot f) s 4 f.d.toNat 32 g (fun i => a 32 ((i + n) % 64))) ∧
  ∀ (f : RI) (s : State), dtOf f ∈ [9, 10, 11, 3, 7, 2, 6, 1, 5] →
    GivesBits (.vbcst f) s 4 (dOf f) (wOf (dtOf f)) (lanesOf s (guardOf f)) fun _ =>
      match f with
      | .r f => (s.rs f.a.toNat).toNat
      | .i f => f.imm.toNat

/-- Vector comparisons and moves complete. -/
def Obligations.VectorComparesAndMoves : Prop := Claims.vectorCompare ∧ Claims.vectorMoves

/-- R55, R146, R183, R184: VRED and VSCAN. Inactive lanes enter the identity; a float reduction runs the pairwise tree and a float scan
its doubling steps, each rounded once; an integer result is that of the active elements, exact, through Fit once. On these points it
follows choices of the model: log 44. -/
def Obligations.VectorReductions : Prop :=
  ∀ (f : RForm) (s : State),
    let t := f.dt.toNat
    let w := wOf t
    let k := if w = 32 then 6 else 7
    let op := f.sub.toNat % 8
    let excl := f.sub.getLsbD 3
    let g := lanesOf s (f.pred, f.pneg)
    let a (e : Nat) := Bits.elem (s.rv f.a.toNat) w e
    let on (e : Nat) := g.getLsbD (e * w / 32)
    let red (v : Vec) (fl : Fp.Flags) : Prop :=
      exec (.vred f) s = .next (s.post 8 [.vec f.d.toNat v (BitVec.allOnes 2048), .flags (flagsV fl)])
    (9 ≤ t → t ≤ 11 → op ≤ 2 → f.rm.toNat ≤ 3 →
      let fm := Fp.ofCode t
      let md := Fp.Mode.ofCode f.rm
      let ident := match op with
        | 0 => fm.signed true 0
        | 1 => fm.signed true fm.infPat
        | _ => fm.infPat
      let join (x y : Nat × Fp.Flags) : Nat × Fp.Flags :=
        let r := match op with
          | 0 => rounded fm md (Fp.add md (Fp.decode fm x.1) (Fp.decode fm y.1))
          | 1 => fpMinMax true fm x.1 y.1
          | _ => fpMinMax false fm x.1 y.1
        (r.1, x.2 ||| y.2 ||| r.2)
      let x (e : Nat) : Nat × Fp.Flags := (if on e then a e else ident, 0)
      (∃ v, red v (pairTree join k x 0).2 ∧ ∀ e < 2048 / w, Bits.elem v w e = (pairTree join k x 0).1 % 2 ^ w) ∧
      GivesElems (.vscan f) s s 10 f.d.toNat w g 0 fun e =>
        if excl then (if e = 0 then (ident, 0) else scanFrom join k 1 x (e - 1)) else scanFrom join k 1 x e) ∧
    (t ∈ [3, 7, 2, 6] → op ≤ 5 →
      let of (l : List Nat) : Word := typeFit f.sat t <|
        let xs := (l.filter on).map fun e => elVal t (a e)
        match op with
        | 0 => xs.sum
        | 1 => xs.foldl max (typeRange t).1
        | 2 => xs.foldl min (typeRange t).2
        | 3 => typeVal t (xs.foldl (fun r x => r &&& BitVec.ofInt 64 x) (BitVec.allOnes 64))
        | 4 => typeVal t (xs.foldl (fun r x => r ||| BitVec.ofInt 64 x) 0)
        | _ => typeVal t (xs.foldl (fun r x => r ^^^ BitVec.ofInt 64 x) 0)
      (∃ v, red v 0 ∧ ∀ e < 2048 / w, Bits.elem v w e = (of (List.range (2048 / w))).toNat % 2 ^ w) ∧
      GivesElems (.vscan f) s s 10 f.d.toNat w g 0 fun e => ((of (List.range (if excl then e else e + 1))).toNat, 0))

/-- R36, R146, R149, R185: the integer operations of the V slots, element by element. -/
def Claims.vectorIntegers : Prop :=
  ∀ (f : RI) (s : State), dtOf f ∈ [1, 2, 3, 5, 6, 7] →
    let t := dtOf f
    let w := wOf t
    let a := elA s w f
    let b := elB s w f
    let u := elOne s w f
    let c (e : Nat) : Nat := match f with
      | .r _ => b e
      | .i f => f.imm.toNat
    let gives (i : Instr) (r : Nat → Nat) : Prop := GivesBits i s 4 (dOf f) w (lanesOf s (guardOf f)) r
    let fit (r : Nat → Int) (e : Nat) : Nat := (typeFit (satOf f) t (r e)).toNat
    gives (.viadd f) (fit fun e => elVal t (a e) + elVal t (b e)) ∧ gives (.visub f) (fit fun e => elVal t (a e) - elVal t (b e)) ∧
    gives (.vimul f) (fit fun e => elVal t (a e) * elVal t (b e)) ∧
    gives (.vshl f) (fit fun e => elVal t (a e) * 2 ^ c e) ∧
    (satOf f = false →
      gives (.vand f) (fun e => a e &&& b e) ∧ gives (.vor f) (fun e => a e ||| b e) ∧ gives (.vxor f) (fun e => a e ^^^ b e) ∧
      gives (.vshr f) (fun e => a e >>> c e) ∧ gives (.vsra f) (fun e => ((BitVec.ofNat w (a e)).sshiftRight (c e)).toNat) ∧
      gives (.vpopc f) (fun e => (List.range w).countP fun j => (u e).testBit j) ∧
      ∃ n : Nat → Nat, gives (.vclz f) n ∧ ∀ e < 2048 / w, n e ≤ w ∧ u e < 2 ^ (w - n e) ∧ (n e < w → 2 ^ (w - n e - 1) ≤ u e))

/-- R186, R187: VORD maps patterns to keys that order as their values do, and back; VDIG takes a digit. -/
def Claims.vectorKeysAndDigits : Prop :=
  ∀ (f : RForm) (s : State),
    let t := f.dt.toNat
    let w := wOf t
    let g := lanesOf s (f.pred, f.pneg)
    let a (e : Nat) := Bits.elem (s.rv f.a.toNat) w e
    let key (p : Nat) : Nat :=
      let k := if 9 ≤ t then (if p < 2 ^ (w - 1) then p + 2 ^ (w - 1) else 2 ^ w - 1 - p)
        else if t ≤ 4 then (p + 2 ^ (w - 1)) % 2 ^ w else p
      if f.sub.getLsbD 1 then 2 ^ w - 1 - k else k
    (t ∈ [9, 10, 11, 3, 2, 7, 6] →
      (f.sub.getLsbD 0 = false → GivesBits (.vord f) s 4 f.d.toNat w g fun e => key (a e)) ∧
      (f.sub.getLsbD 0 = true → ∃ p : Nat → Nat, GivesBits (.vord f) s 4 f.d.toNat w g p ∧
        ∀ e < 2048 / w, p e < 2 ^ w ∧ key (p e) = a e) ∧
      ∀ p q : Nat, p < 2 ^ w → q < 2 ^ w → f.sub.getLsbD 1 = false →
        (if 9 ≤ t then ∃ x y, extVal (Fp.decode (Fp.ofCode t) p) = some x ∧ extVal (Fp.decode (Fp.ofCode t) q) = some y ∧ x < y
          else elVal t p < elVal t q) → key p < key q) ∧
    (t = 7 ∨ t = 6 → f.sub.toNat % 32 < w → GivesBits (.vdig f) s 4 f.d.toNat w g fun e =>
      a e / 2 ^ (f.sub.toNat % 32) % 2 ^ (f.sub.toNat / 32 % 16))

/-- The vector integer operations, sort keys and digits complete, element by element. -/
def Obligations.VectorIntegersAndKeys : Prop := Claims.vectorIntegers ∧ Claims.vectorKeysAndDigits

/-- R38, R39, R47, R48, R76, R172, R188 to R191: VAMAX gives the largest magnitude of each block; VQNT its scale byte and the codes, each
a nearest code under .rne and a neighbour in every mode, the extreme code beyond the range, with the flags of R47, R48 and R190; VDQNT the
exact value of a code under its scale. The rest of a destination is as it was at issue. On these points it follows choices of the model:
log 131. -/
def Obligations.VectorQuantisation : Prop :=
  ∀ (f : RForm) (s : State), s.k = 1 ∨ s.k = 2 →
    let t := f.dt.toNat
    let g := lanesOf s (f.pred, f.pneg)
    let q := f.sub.toNat % 8
    (9 ≤ t → t ≤ 11 →
      let w := wOf t
      let blocks := if w = 32 then 2 else 4
      let x (e : Nat) := Fp.decode (Fp.ofCode t) (Bits.elem (s.rv f.a.toNat) w e)
      let on (b e : Nat) : Prop := 32 * b ≤ e ∧ e < 32 * b + 32 ∧ g.getLsbD (e * w / 32) = true
      ∃ (v : Vec) (fl : Fp.Flags), exec (.vamax f) s = .next (s.post 4 [.vec f.d.toNat v (BitVec.allOnes 2048), .flags (flagsV fl)]) ∧
        (∀ b < 2048, 32 * blocks ≤ b → v.getLsbD b = (s.rv f.d.toNat).getLsbD b) ∧
        (fl = Fp.iv ∨ fl = 0) ∧ (fl = Fp.iv ↔ ∃ b < blocks, ∃ e, on b e ∧ (x e).isSig = true) ∧
        ∀ b < blocks,
          let r := Bits.elem v 32 b
          ((∃ e, on b e ∧ (x e).isNaN = true) → r = 0x7FC00000) ∧
          ((∀ e, on b e → (x e).isNaN = false) →
            ((∃ e n, on b e ∧ x e = .inf n) → r = 0x7F800000) ∧
            ((∀ e, on b e → ∃ p, ratVal (x e) = some p) → ∃ m, ratVal (Fp.decode Fp.f32 r) = some m ∧ 0 ≤ m ∧
              (m = 0 ∨ ∃ e p, on b e ∧ ratVal (x e) = some p ∧ m = |p|) ∧ ∀ e p, on b e → ratVal (x e) = some p → |p| ≤ m))) ∧
    (let md := Fp.Mode.ofCode f.rm
     let type := f.sub.toNat / 8 % 4
     let x (e : Nat) : Fp.FVal := if g.getLsbD e then Fp.decode Fp.f32 (Bits.elem (s.rv f.a.toNat) 32 e) else .fin false 0 0
     let top : ℚ := [7, 6, 8, 12].getD type 0
     let all := BitVec.allOnes 2048
     ∃ (v v' : Vec) (fl : Fp.Flags),
       exec (.vqnt f) s = .next ((drawn s md).post 4 [.vec f.d.toNat v all, .vec f.c.toNat v' all, .flags (flagsV fl)]) ∧
       (∀ b < 2048, b / 256 ≠ q → v.getLsbD b = (s.rv f.d.toNat).getLsbD b) ∧
       (∀ b < 2048, b / 16 ≠ q → v'.getLsbD b = (s.rv f.c.toNat).getLsbD b) ∧
       (let block (i : Nat) : Prop := i < 64
        let failed (i : Nat) : Prop := ∃ k < 64, k / 32 = i / 32 ∧ (x k).isNaN = true
        let exOf (i : Nat) : Nat := Bits.elem v' 8 (2 * q + i / 32) % 64
        let yOf (i : Nat) (p : ℚ) : ℚ := p / 2 ^ ((exOf i : Int) - 31)
        let fits (i : Nat) (p : ℚ) : Prop := block i ∧ ¬ failed i ∧ ratVal (x i) = some p
        let last (y : ℚ) : ℚ := if type = 0 ∧ y < 0 then 8 else top
        let next (y : ℚ) : ℚ := if type = 0 then last y + 1 else if type = 1 then 8 else 16
        let passes (y : ℚ) : Prop := match md with
          | .rne => (last y + next y) / 2 < |y| ∨ (|y| = (last y + next y) / 2 ∧ ¬ (type = 0 ∧ y < 0))
          | .rz => False
          | .rup => last y < y
          | .rdn => last y < -y
          | .rsto => next y ≤ |y|
        (fl.getLsbD 4 = true ↔ ∃ i p, fits i p ∧ codeVal type (Bits.elem v 4 (64 * q + i)) ≠ yOf i p) ∧
        (fl.getLsbD 1 = false ∧ fl.getLsbD 3 = false) ∧
        ((∃ i p, fits i p ∧ passes (yOf i p)) → fl.getLsbD 2 = true) ∧
        (fl.getLsbD 2 = true → ∃ i p, fits i p ∧ if md = .rsto then last (yOf i p) < |yOf i p| else passes (yOf i p)) ∧
        (fl.getLsbD 0 = true ↔ (∃ i, block i ∧ failed i) ∨ (∃ i n, block i ∧ ¬ failed i ∧ x i = .inf n) ∨ (f.sat = false ∧ fl.getLsbD 2 = true))) ∧
       ∀ j < 2, ∃ ex ≤ 63, Bits.elem v' 8 (2 * q + j) = type * 64 + ex ∧
         let code (i : Nat) := Bits.elem v 4 (64 * q + i)
         let block (i : Nat) : Prop := 32 * j ≤ i ∧ i < 32 * j + 32
         let unit : ℚ := 2 ^ ((ex : Int) - 31)
         ((∃ i, block i ∧ (x i).isNaN = true) → ex = 63 ∧ ∀ i, block i → code i = 0) ∧
         ((∀ i, block i → (x i).isNaN = false) → ex ≤ 62 ∧
           (∀ i p, block i → ratVal (x i) = some p → |p| ≤ top * unit ∨ ex = 62) ∧
           (ex ≠ 0 → ∃ i p, block i ∧ ratVal (x i) = some p ∧ top * (unit / 2) < |p|) ∧
           (∀ i n, block i → x i = .inf n → codeVal type (code i) = if n then (if type = 0 then -8 else -top) else top) ∧
           ∀ i p, block i → ratVal (x i) = some p →
             let y := p / unit
             let c := codeVal type (code i)
             (p = 0 → code i = if (x i).sign = true ∧ type ≠ 0 then 8 else 0) ∧
             (∀ d < 16, codeVal type d ≤ y → codeVal type d ≤ c ∨ y < c) ∧ (∀ d < 16, y ≤ codeVal type d → c ≤ codeVal type d ∨ c < y) ∧
             ((∃ d < 16, codeVal type d = y) → c = y) ∧
             (md = .rne → ∀ d < 16, |c - y| ≤ |codeVal type d - y|) ∧ (md = .rz → |c| ≤ |y|) ∧
             (md = .rup → (∃ d < 16, y ≤ codeVal type d) → y ≤ c) ∧ (md = .rdn → (∃ d < 16, codeVal type d ≤ y) → c ≤ y))) ∧
    let code (i : Nat) := Bits.elem (s.rv f.a.toNat) 4 (64 * q + i)
    let scale (i : Nat) := Bits.elem (s.rv f.c.toNat) 8 (2 * q + i / 32)
    ∃ r, GivesBits (.vdqnt f) s 4 f.d.toNat 32 g r ∧ ∀ i < 64,
      (scale i % 64 = 63 → r i = 0x7FC00000) ∧
      (scale i % 64 ≠ 63 → IsExact (Fp.decode Fp.f32 (r i)) (codeVal (scale i / 64) (code i) * 2 ^ (((scale i % 64 : Nat) : Int) - 31))
        (decide (8 ≤ code i ∧ scale i / 64 ≠ 0)))

/-- R384 to R397: a geometry operation with no active test does nothing; otherwise it takes a landing entry for v[D] due at SUB cycles,
whose result holds each active test's code: the sign of the exact Δ, the symbolic sign, the segments' code, or 0x80000000 for a non-finite
test. With TNF a non-finite test traps instead. GEOMETRY_RESULT_READY delivers the codes and the counts of GEOMODE. On these points it
follows choices of the model: log 64. -/
def Obligations.GeometryOperations : Prop :=
  (∀ (f : RForm) (s : State), s.ctx.now.cap = none → s.ctx.landings.length < 16 →
    let p64 := f.c.getLsbD 0
    let tb := f.c.getLsbD 1
    let g := lanesOf s (f.pred, f.pneg)
    let on (j : Nat) : Bool := if p64 then decide (j < 32) && g.getLsbD (2 * j) else decide (j < 64) && g.getLsbD j
    let goes (i : Instr) (op : Nat) (l0 l1 l2 : Nat) : Prop :=
      let (dim, pts) := geoShape op
      let x (j k c : Nat) : Fp.FVal :=
        let v := s.rv (f.a.toNat + dim * k + c)
        if p64 then Fp.decode Fp.f64 (Bits.elem v 64 j) else Fp.decode Fp.f32 (Bits.elem v 32 j)
      let ids (j : Nat) : Option (Nat → Nat) :=
        if tb then some fun k => Bits.elem (s.rv (f.b.toNat + k)) 32 (if p64 then 2 * j else j) else none
      let finite (j : Nat) : Prop := ∀ k < pts, ∀ c < dim, ∃ q, ratVal (x j k c) = some q
      ((∀ j, on j = false) → exec i s = .next s) ∧
      ((∃ j, on j = true) → s.ctx.geomode.getLsbD 0 = false ∨ (∀ j, on j = true → finite j) →
        ∃ (t : State) (job : GeoJob) (code : Nat → Int) (stage : Nat → Nat), exec i s = .next t ∧
          t.ctx.landings = s.ctx.landings ++ [⟨s.fresh, s.k, s.slot.time + f.sub.toNat, s.ctx.now.issue.idx, s.site, s.ctx.uiAct,
            some ⟨⟨.v, f.d.toNat⟩, 0, false⟩, false, none, some job, false, false, [], none⟩] ∧
          SameRegs s t ∧ SameControl s t ∧ SameMemory s t ∧
          (∀ b < 2048, job.mask.getLsbD b = on (if p64 then b / 64 else b / 32)) ∧
          (∀ l < 64, on (if p64 then l / 2 else l) = true →
            job.val.extractLsb' (32 * l) 32 = BitVec.ofInt 32 (code (if p64 then l / 2 else l))) ∧
          job.n1 = (List.range 64).countP (fun j => on j && stage j == 1) ∧
          job.n2 = (List.range 64).countP (fun j => on j && stage j == 2) ∧
          job.l0 = l0 ∧ job.esc = (job.n1 + job.n2 + 15) / 16 * l1 + job.n2 * l2 ∧ job.l0 ≤ job.left ∧
          ∀ j, on j = true → (¬ finite j → code j = -0x80000000 ∧ stage j = 0) ∧
            ∀ q : Nat → Nat → ℚ, (∀ k < pts, ∀ c < dim, ratVal (x j k c) = some (q k c)) →
              if op = 4 then IsSegment q (ids j) p64 (code j) (stage j)
              else IsCode op q (ids j) (code j) ∧ IsStage op q (ids j) p64 (stage j)) ∧
      (s.ctx.geomode.getLsbD 0 = true → (∃ j, on j = true ∧ ¬ finite j) →
        ∃ (cause : Byte) (detail addr : Word), exec i s = .next (s.raise 0x08 cause detail addr) ∧
          (∀ j < 64, detail.getLsbD j = true ↔ on j = true ∧ ¬ finite j) ∧ detail.getLsbD addr.toNat = true ∧
          (∀ j < addr.toNat, detail.getLsbD j = false) ∧ cause.toNat < 4 ∧
          (cause.getLsbD 0 = true ↔ ∃ j, on j = true ∧ ∃ k < pts, ∃ c < dim, ∃ n, x j k c = .inf n) ∧
          (cause.getLsbD 1 = true ↔ ∃ j, on j = true ∧ ∃ k < pts, ∃ c < dim, (x j k c).isNaN = true))
    goes (.go2d f) 0 (if p64 then 8 else 6) (if p64 then 20 else 12) (if p64 then 48 else 24) ∧
    goes (.go3d f) 1 (if p64 then 10 else 8) (if p64 then 40 else 20) (if p64 then 128 else 56) ∧
    goes (.ginc f) 2 (if p64 then 10 else 8) (if p64 then 48 else 24) (if p64 then 160 else 64) ∧
    goes (.gins f) 3 (if p64 then 14 else 10) (if p64 then 88 else 40) (if p64 then 352 else 128) ∧
    goes (.gseg f) 4 (if p64 then 8 else 6) (if p64 then 20 else 12) (if p64 then 48 else 24)) ∧
  ∀ (s : State) (e : Landing) (j : GeoJob) (r : Reg), s.ctx.landings = [e] → s.ctx.replay = [] → e.geo = some j → j.left = 0 →
    e.dst = some ⟨r, 0, false⟩ → e.pend = false → ∃ t, exec (.geometryResultReady e.id) s = .next t ∧
      t.ctx.landings = [{ e with geo := none, data := some [.vec r.num j.val j.mask, .esc j.n1 j.n2] }] ∧ SameRegs s t ∧ SameMemory s t

/-- R287, R288: TCLM releases the slot of a valid handle, then claims the lowest free slot, and waits while none is free; TRLS releases
the slot of its handle, and does nothing for an invalid one; a slot released is free at once unless something reads or fills it. -/
def Claims.traySlots : Prop :=
  (∀ (f : RForm) (s : State),
    let v := s.rts f.d.toNat
    exec (.trls f) s = .next (if s.acts f.pred f.pneg && v.getLsbD 7 then s.post 1 [.reg ⟨.ts, f.d.toNat⟩ 0, .release (v.toNat % 16)] else s)) ∧
  (∀ (s : State) (act : Bool) (k : Slot) (i : Nat), i < 16 → (s.ctx.head i).state = 1 →
    ((s.applyEff act k (.release i)).ctx.head i).state = if s.trayInUse i then 2 else 0) ∧
  ∀ (f : RForm) (s : State), Ready s → s.acts f.pred f.pneg = true →
    let v := s.rts f.d.toNat
    let released (j : Nat) : Bool := v.getLsbD 7 && j == v.toNat % 16 && (s.ctx.head j).state == 1
    let now (j : Nat) : BitVec 2 := if released j || (s.ctx.head j).state == 2 then (if s.trayInUse j then 2 else 0) else (s.ctx.head j).state
    let heads : Vector TrayHead 16 := Vector.ofFn fun j => { s.ctx.head j.val with state := now j.val }
    (∀ i < 16, now i = 0 → (∀ j < i, now j ≠ 0) → exec (.tclm f) s =
      .next ((s.mapCtx fun c => { c with trayHeads := heads.setIfInBounds i ⟨1, 15, 0⟩ }).postReg 1 ⟨.ts, f.d.toNat⟩ (BitVec.ofNat 64 (128 + i)))) ∧
    ((∀ i < 16, now i ≠ 0) → exec (.tclm f) s = .next ((s.waitIn (.tclm f.d.toNat)).mapCtx fun c => { c with trayHeads := heads }))

/-- R289, R290: TLD checks its handle, then the header, which it reads at issue, and fills its slot after 72 cycles, its port busy
meanwhile; with `chk` it waits for the tiles. -/
def Claims.trayFill : Prop :=
  ∀ (f : MForm) (s : State) (p : Place) (off : Nat),
    let ea := stdAddr s f 256
    let a := ea &&& ~~~3
    let u := s.mapSlot fun x => { x with ea := ea }
    u.acts f.pred f.pneg = true → u.check ⟨.read, 64, false, true⟩ a = .ok p → AtPocket s p off → InOrder s → s.views = [] → Foremost s →
    (∀ x ∈ s.ctx.pipe.slots, x.flights = []) → s.ctx.tldPort = 0 → f.d.toNat < 16 → (∀ h ∈ s.ctx.trayHeads, h.len < 2 ^ 15) →
    let v := s.rts f.d.toNat
    let w := wordAt s.mem (pocketKey s.ctx.core off)
    let len := (w.extractLsb' 32 15).toNat
    let good := w.extractLsb' 47 17 = 0 ∧ w.extractLsb' 9 23 = 0 ∧ 1 ≤ len ∧ len ≤ 16384 ∧ w.extractLsb' 0 4 ≤ 1 ∧
      ∀ i, 8 ≤ i → i < 64 → Mem.byte s.mem (pocketKey s.ctx.core off + i) = 0
    (f.chk = true → s.ctx.tilesFull off 64 = false → exec (.tld f) s = .next u.stall) ∧
    ((f.chk = true → s.ctx.tilesFull off 64 = true) →
      (∀ q, v.getLsbD 7 = true → good → u.check ⟨.read, len, false, true⟩ (a + 64) = .ok q →
        (f.chk = true → s.ctx.tilesFull (off + 64) len = false → exec (.tld f) s = .next u.stall) ∧
        ((f.chk = true → s.ctx.tilesFull (off + 64) len = true) → exec (.tld f) s =
          .next ((u.post 72 [] (some (.tld (v.toNat % 16) (off + 64) len (w.extractLsb' 0 4)))).mapCtx fun c => { c with tldPort := 72 }))) ∧
      ∀ kind, (v.getLsbD 7 = false ∧ kind = 3) ∨ (v.getLsbD 7 = true ∧ ¬ good ∧ kind = 4) → ∃ d : Word,
        exec (.tld f) s = .next (u.raise 0x07 0 d) ∧ d.extractLsb' 61 3 = BitVec.ofNat 3 kind ∧ d.extractLsb' 56 5 = 0 ∧
        d.extractLsb' 52 4 = BitVec.ofNat 4 f.d.toNat ∧ d.extractLsb' 44 4 = (s.ctx.head (v.toNat % 16)).swz ∧
        d.extractLsb' 29 15 = BitVec.ofNat 15 (s.ctx.head (v.toNat % 16)).len ∧ d.extractLsb' 14 15 = 0)

/-- R293, R294: QSET fills a latch set with one byte after 2 cycles; QLD reads 64 bytes of the pocket after 6, with `chk` once their tiles
are full. -/
def Claims.scaleLatches : Prop :=
  (∀ (f : RI) (s : State), ∃ l : Latch,
    exec (.qset f) s = .next (if s.acts (guardOf f).1 (guardOf f).2 then s.post 2 [.latch (dOf f) l []] else s) ∧
      ∀ m < 64, l.extractLsb' (8 * m) 8 = match f with
        | .r f => (s.rs f.a.toNat).setWidth 8
        | .i f => f.imm.setWidth 8) ∧
  ∀ (f : MForm) (s : State),
    let ea := stdAddr s f 64
    let u := s.mapSlot fun x => { x with ea := ea }
    (s.acts f.pred f.pneg = false → exec (.qld f) s = .next u) ∧
    (s.acts f.pred f.pneg = true →
      (∀ e, u.check ⟨.read, 64, false, true⟩ (ea &&& ~~~3) = .error e → exec (.qld f) s = .next (u.raise e.cls e.cause 0 (ea &&& ~~~3))) ∧
      ∀ p off, u.check ⟨.read, 64, false, true⟩ (ea &&& ~~~3) = .ok p → AtPocket s p off →
        exec (.qld f) s = .next (if f.chk && !s.ctx.tilesFull off 64 then u.stall else u.post 6 [] (some (.qld f.d.toNat off))))

/-- Tray slots and scale latches. On these points it follows choices of the model: logs 11, 38, 43, 121. -/
def Obligations.TrayAndLatches : Prop := Claims.traySlots ∧ Claims.trayFill ∧ Claims.scaleLatches

/-- R52, R297, R298: a block of 32 positions entered into an element of a z tile. A NaN or poisoned operand or scale gives the canonical
NaN, as does a poisoned element; of finite operands the exact sum of the products is added to the element and rounded once, and a sum of
zero leaves it as it is; MMAS takes the dense positions that the masks of the metadata word keep. -/
def Obligations.MatrixBlocks : Prop :=
  (∀ (c : Ctx) (job : ArrayJob) (set : Nat),
    (∀ v, job.caps.lookup ⟨.sl, set⟩ = some v → c.latchOf job set = v.setWidth 512) ∧
    (job.caps = [] → c.oldViews = [] ∨ (∃ t, job.qtime = some t ∧ t + job.age = (c.slot 4).time) → c.latchOf job set = c.slval set)) ∧
  ∀ (f : RForm) (s : State) (sparse : Bool) (job : ArrayJob) (m n : Nat), m < 64 → n < 64 →
    let j := job.block
    let u := s.originOf job.idx 3
    let scale (set r : Nat) : Option Int := if f.c.getLsbD 0 then
        (let b := (s.ctx.latchOf job set).extractLsb' (8 * r) 8
         if (job.caps = [] ∧ s.ctx.rpoison.contains (⟨.sl, set⟩, r / 8)) ∨ b = 0xFF then none else some (b.toNat - 127)) else some 0
    let ea := scale (f.c.toNat / 2 % 2) m
    let eb := scale (2 + f.c.toNat / 4 % 2) n
    let len := if sparse then 16 else 32
    let xs := s.vecElems u (operandA f job.slotA) m (len * j) len
    let ys := s.vecElems u (operandB f sparse job.slotB) n (32 * j) 32
    let mask (d : Nat) := job.metaWord.toNat / 2 ^ (4 * ((8 * j + d / 4) % 16)) % 16
    let before (d : Nat) := (List.range (d % 4)).countP fun b => (mask d).testBit b
    let stored (d : Nat) : Option Nat :=
      if sparse then (if (mask d).testBit (d % 4) && decide (before d < 2) then some (2 * (d / 4) + before d) else none) else some d
    let old := tileAt (s.ctx.arrayTile f.d.toNat) m n
    let new := tileAt (s.mmaBlock f sparse job) m n
    old = (if s.ctx.rpoison.contains (⟨.z, f.d.toNat⟩, 32 * m + n / 2) then 0x7FC00000 else tileAt (s.ctx.zval f.d.toNat) m n) ∧
    (ea = none ∨ eb = none ∨ (∃ d < 32, ∃ e, stored d = some e ∧
        ((xs.getD e (.nan false)).isNaN = true ∨ (ys.getD d (.nan false)).isNaN = true)) → new = 0x7FC00000) ∧
    ∀ (p q : Nat → ℚ) (acc : ℚ) (a b : Int), ea = some a → eb = some b → ratVal (Fp.decode Fp.f32 old) = some acc →
      (∀ e < len, ratVal (xs.getD e (.nan false)) = some (p e)) → (∀ d < 32, ratVal (ys.getD d (.nan false)) = some (q d)) →
      let sum : ℚ := (((List.range 32).map fun d => ((stored d).map fun e => p e * q d).getD 0).sum) * 2 ^ (a + b)
      (sum = 0 → new = old) ∧ (sum ≠ 0 → ∃ v, IsExact v (acc + sum) false ∧ new = (Fp.round Fp.f32 .rne false 0 v).1)

/-- R77, R297, R300, R304: the array operations at issue. A class below the format's traps; a busy array stalls; MMA and MMAS then check
operand A's and operand B's header; MZRO, MACC and MTRN write their tile and occupy the array for 8 or 16 cycles; ARRAY_OPERATION_COMPLETE
frees it. -/
def Claims.arrayOperations : Prop :=
  (∀ (f : RForm) (s : State) (sparse : Bool),
    let i : Instr := if sparse then .mmas f else .mma f
    let cls (t : Nat) : Nat := if t = 10 ∨ t = 11 then 1 else if t = 16 ∨ t = 17 then 3 else 2
    let need := max (cls f.dt.toNat) (cls f.st.toNat)
    let held := s.ctx.prmst.toNat % 4
    let bytes (t panel k : Nat) : Nat := if t = 17 then 8704 else 8192 * panel + 64 * ((if t = 14 ∨ t = 15 then 96 else 128) * k)
    let check (r : BitVec 6) (swx bytes kind : Nat) : Prop :=
      let v := s.rts r.toNat
      let h := s.ctx.head (v.toNat % 16)
      (kind = 3 ∧ v.getLsbD 7 = false) ∨ (kind = 1 ∧ v.getLsbD 7 = true ∧ h.swz = 15) ∨
      (kind = 0 ∧ v.getLsbD 7 = true ∧ h.swz ≠ 15 ∧ h.swz.toNat ≠ swx) ∨
      (kind = 2 ∧ v.getLsbD 7 = true ∧ h.swz ≠ 15 ∧ h.swz.toNat = swx ∧ h.len < bytes)
    let a := check f.a (f.sub.toNat / 4 % 16) (bytes f.dt.toNat (f.sub.toNat % 2) 1)
    let b := check f.b (f.sub.toNat / 64 % 16) (bytes f.st.toNat (f.sub.toNat / 2 % 2) (if sparse then 2 else 1))
    let traps (which kind : Nat) (r : BitVec 6) : Prop := ∃ d : Word, exec i s = .next (s.raise 0x07 0 d) ∧
      d.extractLsb' 61 3 = BitVec.ofNat 3 kind ∧ d.extractLsb' 56 5 = BitVec.ofNat 5 which ∧ d.extractLsb' 52 4 = BitVec.ofNat 4 r.toNat
    10 ≤ f.dt.toNat ∨ f.dt.toNat = 1 ∨ f.dt.toNat = 5 → 10 ≤ f.st.toNat ∨ f.st.toNat = 1 ∨ f.st.toNat = 5 →
    f.dt.toNat ≤ 17 → f.st.toNat ≤ 17 → f.a.toNat < 16 → f.b.toNat < 16 →
    (∀ h ∈ s.ctx.trayHeads, h.len < 2 ^ 15) → s.acts f.pred f.pneg = true →
    (held < need → exec i s = .next (s.raise 0x0A 1 (BitVec.ofNat 64 (need + held * 4)))) ∧
    (need ≤ held → s.ctx.array.isSome ∨ s.ctx.chain.isSome → exec i s = .next s.stall) ∧
    (need ≤ held → s.ctx.array = none → s.ctx.chain = none →
      (∀ k, k < 4 → a k → traps 0 k f.a) ∧ (∀ k, k < 4 → (∀ l < 4, ¬ a l) → b k → traps 1 k f.b) ∧
      ((∀ k < 4, ¬ a k ∧ ¬ b k) → ∃ t j, exec i s = .next t ∧ t.ctx.array = some j ∧ j.form = some (f, sparse) ∧ j.total = 64 ∧
        j.block = (if sparse then 2 else 1) ∧ SameMemory s t ∧ t.ctx.sreg = s.ctx.sreg ∧ t.ctx.vreg = s.ctx.vreg ∧
        ∀ z, z ≠ f.d.toNat → t.ctx.zval z = s.ctx.zval z))) ∧
  (∀ (f : RForm) (s : State), s.acts f.pred f.pneg = true → f.d.toNat < 8 →
    let at' (t : State) (z m n : Nat) : Nat := Bits.elem (((t.ctx.zval z)[m]?).getD 0) 32 n
    let goes (i : Instr) (cycles : Nat) (r : Nat → Nat → Nat) : Prop :=
      (s.ctx.array.isSome ∨ s.ctx.chain.isSome → exec i s = .next s.stall) ∧
      (s.ctx.array = none → s.ctx.chain = none → ∃ t j, exec i s = .next t ∧ t.ctx.array = some j ∧ j.total = cycles ∧ j.age = 0 ∧
        (∀ m < 64, ∀ n < 64, at' t f.d.toNat m n = r m n) ∧ (∀ z, z ≠ f.d.toNat → t.ctx.zval z = s.ctx.zval z) ∧ SameMemory s t ∧
        t.ctx.sreg = s.ctx.sreg ∧ t.ctx.areg = s.ctx.areg ∧ t.ctx.vreg = s.ctx.vreg ∧ SameControl s t)
    goes (.mzro f) 8 (fun _ _ => 0) ∧ goes (.mtrn f) 16 (fun m n => tileAt (s.ctx.arrayTile f.a.toNat) n m) ∧
    goes (.macc f) 16 fun m n =>
      (rounded Fp.f32 .rne (Fp.add .rne (Fp.decode Fp.f32 (tileAt (s.ctx.arrayTile f.d.toNat) m n))
        (Fp.decode Fp.f32 (tileAt (s.ctx.arrayTile f.a.toNat) m n)))).1) ∧
  ∀ (s : State) (j : ArrayJob), s.ctx.array = some j →
    exec .arrayOperationComplete s = .next (if j.total ≤ j.age then { s with ctx := { s.ctx with array := none } } else s)

/-- R301, R302: MST captures its tile at issue and is due after 72 cycles, with the drain port busy for 64; what it stores converts each
element, row by row, and a fold sends the greatest magnitude. -/
def Claims.matrixStore : Prop :=
  (∀ (f : MForm) (s : State) (p : Place),
    let ea := shortAddr s f 256
    let size := 512 * (match f.dt.toNat with
      | 3 | 7 | 9 => 32 | 2 | 6 | 10 | 11 => 16 | 14 | 15 => 6 | 16 => 4 | _ => 8)
    let u := s.mapSlot fun x => { x with ea := ea }
    let z := (f.d.extractLsb' 0 3).toNat
    let fa := s.ra f.idx.toNat
    let fold := f.disp.getLsbD 12
    let sto : Bool := f.disp.extractLsb' 14 3 == 4
    let seed := Fp.advance (s.rcr 0x00B)
    let drawn : Word := if sto ∧ 0x00B ∉ s.ctx.crNow then seed else s.ctx.rseedm
    f.dt.toNat ∈ [9, 10, 11, 12, 13, 14, 15, 16, 1, 5, 2, 6, 3, 7] → s.k = 3 → u.acts f.pred f.pneg = true →
    (∀ e, u.check ⟨.write, size, false, false⟩ ea = .error e → exec (.mst f) s = .next (u.raise e.cls e.cause 0 ea)) ∧
    (u.check ⟨.write, size, false, false⟩ ea = .ok p → fold = true → ∀ e, u.check ⟨.atomic, 4, true, false⟩ fa = .error e →
      exec (.mst f) s = .next (u.raise e.cls e.cause 0 fa)) ∧
    (u.check ⟨.write, size, false, false⟩ ea = .ok p → ∀ q, (fold = true → u.check ⟨.atomic, 4, true, false⟩ fa = .ok q) →
      (s.ctx.drain ≠ 0 → exec (.mst f) s = .next u.stall) ∧
      (s.ctx.drain = 0 → (s.ctx.tileHist z).since = 0 → ∃ t j fl, exec (.mst f) s = .next t ∧
        t.slot.flights = s.slot.flights ++ [fl] ∧ fl.due = s.slot.time + 72 ∧ fl.mem = some (.mst j) ∧ j.tile = s.rz z ∧ j.early = none ∧
        j.dt = f.dt.toNat ∧ j.rm = f.disp.extractLsb' 14 3 ∧ j.sat = f.disp.getLsbD 13 ∧ j.dest.place = p ∧
        (fold = false → j.fold = none) ∧ (fold = true → j.fold = some (u.newReq fa q (.atom .max 7 4 0 0) (f.d.extractLsb' 3 3) none)) ∧
        (sto = true → j.seed = seed) ∧ t.ctx.rseedm = drawn ∧ t.ctx.drain = 64 ∧
        SameRegs s t ∧ SameControl { s with ctx := { s.ctx with rseedm := drawn } } t ∧ SameMemory s t))) ∧
  (∀ (j : MstJob) (t : Tile) (m n : Nat), m < 64 → n < 64 → j.dt ∈ [9, 10, 11, 12, 13, 14, 15, 16, 1, 5, 2, 6, 3, 7] →
    let w := match j.dt with
      | 3 | 7 | 9 => 32 | 2 | 6 | 10 | 11 => 16 | 14 | 15 => 6 | 16 => 4 | _ => 8
    ∃ v fl, Converted j.dt (Fp.Mode.ofCode j.rm) j.sat (Fp.rnd j.seed (64 * m + n)) (Fp.decode Fp.f32 (tileAt t m n)) v fl ∧
      (mstBytes j t).1.length = 512 * w ∧
      ∀ i < w, ((mstBytes j t).1.getD ((w * (64 * m + n) + i) / 8) 0).getLsbD ((w * (64 * m + n) + i) % 8) = v.getLsbD i) ∧
  ∀ t : Tile, (∀ m < 64, ∀ n < 64, tileAt t m n % 2 ^ 31 ≤ mstFold t) ∧ ∃ m < 64, ∃ n < 64, mstFold t = tileAt t m n % 2 ^ 31

/-- The array operations at issue and the store of a tile. On these points it follows choices of the model: log 102. -/
def Obligations.ArrayOperationsAndStore : Prop := Claims.arrayOperations ∧ Claims.matrixStore

/-- R305 to R312: BDSET clamps, TBND writes CHST, CORD reads a program; a step's checks in their order, its shape, and the results that
TCON and TCHN leave; TCHN_COMPLETE writes CHST and completes the number. On these points it follows choices of the model: logs 46, 48.
That BCAP keeps every bit written to BASE and CAP (log 48) is the model's choice. -/
def Obligations.ChainContraction : Prop :=
  (∀ (f : RI) (s : State), (match f with
      | .r _ => True
      | .i f => 1 ≤ f.imm.toNat ∧ f.imm.toNat ≤ 512) →
    Gives (.bdset f) (guardOf f) s 1 ⟨.bd, dOf f⟩ (BitVec.ofNat 64 (max 1 (min (oneOf s f).toNat 512)))) ∧
  (∀ (f : RForm) (s : State), s.acts f.pred f.pneg = true →
    (s.ctx.chain.isSome → exec (.tbnd f) s = .next s.stall) ∧
    (s.ctx.chain = none → exec (.tbnd f) s = .next ((s.mapCtx Ctx.dropChst).post 1 [.chst (s.rs f.a.toNat &&& 0x11F1F)]))) ∧
  (∀ (f : MForm) (s : State),
    let ea := stdAddr s f 128
    let n := (f.d.extractLsb' 0 5).toNat + 1
    Accesses (.cord f) f s ea fun s => Checked ⟨.read, 4 * n, false, true⟩ (ea &&& ~~~3) (fun p s =>
      let off := match p with
        | .port k => k - pocketKey s.ctx.core 0
        | _ => 0
      if f.chk && !s.ctx.tilesFull off (4 * n) then s.stall else s.post 6 [] (some (.cord n off))) s) ∧
  (∀ s : State, (s.captured ⟨.cr, 0x014⟩ = none → s.rcr 0x014 = s.ctx.bcap) ∧ (s.captured ⟨.cr, 0x015⟩ = none → s.rcr 0x015 = s.ctx.chst)) ∧
  (∀ (s : State) (i : Nat) (chst : Word), i < 32 →
    let w := s.ctx.order.getD i 0
    let role := (w.extractLsb' 15 2).toNat
    let lg := (w.extractLsb' 17 3).toNat
    let lgo := (chst.extractLsb' 0 5).toNat
    let lgx := (chst.extractLsb' 8 5).toNat
    let bcap := s.rcr 0x014
    let cap := (bcap.extractLsb' 0 21).toNat
    let base := (bcap.extractLsb' 21 21).toNat
    let bad1 := s.ctx.orderLen ≤ i ∨ role = 3 ∨ w.extractLsb' 2 13 ≠ 0 ∨ (role ≠ 1 ∧ lgx < lg)
    let bad2 := cap < 256 ∨ pocketSize < base + 2 * cap ∨ chst &&& ~~~0x11F1F ≠ 0
    let o := if role = 0 then lgo else lgo + lg
    let x := if role = 1 then lgx else lgx - lg
    let rl := s.rbd (w.extractLsb' 24 4).toNat
    let rr := s.rbd (w.extractLsb' 20 4).toNat
    let need := max (2 ^ lgo * 2 ^ lgx * rl) (2 ^ o * 2 ^ x * rr) * (if bcap.getLsbD 48 then 2 else 4)
    let fails (kind req : Nat) : Prop := ∃ d : Word, s.chainStep i chst = .error (0x06, d) ∧
      d.extractLsb' 62 2 = BitVec.ofNat 2 kind ∧ d.extractLsb' 57 5 = BitVec.ofNat 5 i ∧ (d.extractLsb' 0 48).toNat = req
    (bad1 → fails 1 0) ∧ (¬ bad1 → bad2 → fails 2 0) ∧ (¬ bad1 → ¬ bad2 → cap < need → fails 0 (min need (2 ^ 48 - 1))) ∧
    ∀ t, s.chainStep i chst = .ok t → ¬ bad1 ∧ ¬ bad2 ∧ need ≤ cap ∧ t.role = role ∧ t.n = 2 ^ lg ∧ t.rl = rl ∧ t.rr = rr ∧
      t.o = 2 ^ lgo ∧ t.x = 2 ^ lgx ∧ t.o' = 2 ^ o ∧ t.x' = 2 ^ x ∧ t.cap = cap ∧ t.base = base ∧
      t.chst = BitVec.ofNat 64 (o + x * 2 ^ 8 + (1 - (chst.extractLsb' 16 1).toNat) * 2 ^ 16) ∧
      (let p := if w.extractLsb' 0 2 < 2 then 64 else 128
       t.p = (2 ^ o * 2 ^ x * rr + 4095) / 4096 * (((if role = 1 then rl else rl * 2 ^ lg) + p - 1) / p))) ∧
  (∀ (s : State) (who : Origin) (since : Option Nat) (t : ChainStep) (o x b : Nat), t.n ≠ 0 → o < t.o' → x < t.x' → b < t.rr →
    let ps : List (Fp.FVal × Fp.FVal) := (List.range (if t.role = 1 then t.rl else t.rl * t.n)).map fun k =>
      match t.role with
      | 0 => (s.boundary who since t ((o * t.x + (k % t.n * t.x' + x)) * t.rl + k / t.n), s.coreElem who t ((k / t.n * t.m + k % t.n) * t.rr + b))
      | 1 => (s.boundary who since t ((o / t.n * t.x + x) * t.rl + k), s.coreElem who t ((k * t.m + o % t.n) * t.rr + b))
      | _ => (s.boundary who since t ((o / t.n * t.x + (k % t.n * t.x' + x)) * t.rl + k / t.n),
          s.coreElem who t ((k / t.n * t.m + (k % t.n * t.n + o % t.n)) * t.rr + b))
    ((∃ p ∈ ps, p.1.isNaN = true ∨ p.2.isNaN = true) → s.chainElem who since t o x b = 0x7FC00000) ∧
    ∀ q : List (ℚ × ℚ), List.Forall₂ (fun p q => ratVal p.1 = some q.1 ∧ ratVal p.2 = some q.2) ps q →
      ∃ acc : Nat → Nat, acc 0 = 0 ∧ s.chainElem who since t o x b = acc ((ps.length + 31) / 32) ∧
        ∀ k a, 32 * k < ps.length → ratVal (Fp.decode Fp.f32 (acc k)) = some a →
          let sum := (((q.drop (32 * k)).take 32).map fun p => p.1 * p.2).sum
          (sum = 0 → acc (k + 1) = acc k) ∧
          (sum ≠ 0 → ∃ v, IsExact v (a + sum) false ∧ acc (k + 1) = (Fp.round Fp.f32 .rne false 0 v).1)) ∧
  (∀ (f : RForm) (s : State), s.acts f.pred f.pneg = true →
    let i := (f.sub.extractLsb' 0 5).toNat
    let tc := (f.sub.extractLsb' 0 4).toNat
    let cls (w : OrderWord) : Nat := if w.extractLsb' 0 2 < 2 then 1 else 2
    let held := s.ctx.prmst.toNat % 4
    let prog := s.ctx.order.take s.ctx.orderLen
    let one := if i < s.ctx.orderLen then cls (s.ctx.order.getD i 0) else 1
    let chst := s.rcr 0x015
    (held < one → exec (.tcon f) s = .next (s.raise 0x0A 1 (BitVec.ofNat 64 (one + held * 4)))) ∧
    (one ≤ held → s.ctx.array = none → s.ctx.chain = none →
      (∀ c d, s.chainStep i chst = .error (c, d) → exec (.tcon f) s = .next (s.raise c 0 d)) ∧
      ∀ t, s.chainStep i chst = .ok t → ∃ u j, exec (.tcon f) s = .next u ∧
        u.slot.flights = s.slot.flights ++ [⟨s.slot.time + (64 * t.p + 8), s.ctx.now.issue.idx, s.site, s.ctx.uiAct, [.chst t.chst],
          some (.tcon t s.nextNum)⟩] ∧ u.ctx.array = some j ∧ j.total = 64 * t.p ∧ SameRegs s u ∧ SameControl s u ∧ SameMemory s u) ∧
    ((∀ w ∈ prog, cls w ≤ held) → 1 ≤ held → InOrder s → s.ctx.array = none → s.ctx.chain = none →
      (s.ctx.orderLen = 0 → ∃ u, exec (.tchn f) s = .next u ∧ (u.ctx.tcval tc).issued = (s.ctx.tcval tc).issued + 1 ∧
        u.ctx.chain = none ∧ SameMemory s u) ∧
      ∀ t ts, s.chainSteps s.ctx.orderLen 0 chst = .ok (t :: ts) → ∃ u, exec (.tchn f) s = .next u ∧
        u.ctx.chain = some ⟨tc, (s.ctx.tcval tc).issued + 1, t :: ts, 0, 64 * t.p⟩ ∧
        (u.ctx.tcval tc).issued = (s.ctx.tcval tc).issued + 1 ∧ SameControl s u ∧ SameMemory s u)) ∧
  ∀ (s : State) (c : Chain) (t : ChainStep), 0x015 ∉ s.ctx.crNow → s.ctx.chain = some c → c.left = 0 → c.steps[c.next]? = some t → ∃ u,
    exec .tchnComplete s = .next u ∧ u.ctx.chain = none ∧ u.ctx.chst = t.chst ∧
    u.mem = (s.performStep (s.chainOrigin c.tc c.num) none t).mem ∧
    (c.tc < 16 → let v := s.ctx.tcval c.tc
      v.early = [] → (c.num = v.done + 1 → (u.ctx.tcval c.tc).done = c.num ∧ (u.ctx.tcval c.tc).early = []) ∧
        (c.num ≠ v.done + 1 → (u.ctx.tcval c.tc).done = v.done ∧ (u.ctx.tcval c.tc).early = [c.num]))

/-- R364, R365, R405: a context instruction that acts, with nothing of its context under way and no delay, makes its accesses and
completes: its result is due 1 cycle later; CRPL transfers to its restart point with MPC; a check that fails raises its error, a precise
trap its trap, and an access that waits holds the slot. -/
def Claims.contextInstructionsComplete : Prop :=
  ∀ (i : Instr) (f : RForm) (s : State),
    i ∈ [Instr.ccmt f, .cckp f, .crpl f, .cfrec f, .cres f, .cmap f, .cref f, .cpin f, .cseq f, .ctrn f, .capp f, .cstb f, .catt f] →
    s.acts f.pred f.pneg = true → Ready s → Quiet s → InOrder s → Foremost s → s.delays = [] → s.ctx.array = none → s.ctx.chain = none →
    let u := s.waitIn (.context s.clock (i == .catt f) none)
    (∀ d u', contextBody i u u = .ok (d, u') → d.fault = none →
      let done := match d.res with
        | some (r, v) => (u'.contextPerformed.endWait []).postReg 1 r v
        | none => u'.contextPerformed.endWait []
      match d.goto with
      | some (r, m) => exec i s = .next ((done.branch r).mapCtx fun c => { c with pipe := { c.pipe with mpc := m } })
      | none => exec i s = .next (if i == .crpl f then done.unblock else done)) ∧
    (contextBody i u u = .error .park → exec i s = .next u) ∧
    (contextBody i u u = .error .malformed → exec i s = .next (u.endWait [])) ∧
    (∀ ea, contextBody i u u = .error (.notReady ea) → exec i s = .next (if (s.ctx.tkexp.extractLsb' 32 20).toNat * s.usCycles s.ctx.die = 0 then
        (u.endWait []).raise 0x25 1 0 ea
      else u.mapSlot fun x => { x with wait := some (.context (s.clock + s.usCycles s.ctx.die) (i == .catt f) (some (s.clock, 1, (ea.extractLsb' 48 8).toNat))) })) ∧
    (∀ cls cause ea, contextBody i u u = .error (.bad cls cause ea) → exec i s = .next ((u.endWait []).raise cls cause 0 ea)) ∧
    (∀ cause, contextBody i u u = .error (.illegal cause) → exec i s = .next ((u.endWait []).raiseIllegal cause)) ∧
    ∀ cls cause detail addr, contextBody i u u = .error (.trap cls cause detail addr) →
      exec i s = .next ((u.endWait []).raise cls cause detail addr)

/-- R364, R377 to R379: CSEQ, CMAP, CRES and CREF on words that pass their checks: what memory then holds, the result, and nothing else.
-/
def Claims.recordAndLeafUpdates : Prop :=
  ∀ (f : RForm) (s : State) (key : Nat), s.acts f.pred f.pneg = true → Undisturbed s →
    let a := s.ra f.a.toNat
    let b := s.rs f.b.toNat
    let c := s.rs f.c.toNat
    let no := BitVec.allOnes 64
    let w0 := wordAt s.mem key
    let w1 := wordAt s.mem (key + 8)
    let gives (i : Instr) (r : Word) (post : Mem → Prop) : Prop := Leaves i s (s.postReg 1 ⟨.s, f.d.toNat⟩ r) post
    let same (m : Mem) : Prop := Keeps s.mem m []
    let leaf (i : Instr) (refused : Prop) (x y r : Word) : Prop :=
      (refused → gives i no same) ∧
      (¬ refused → gives i r fun m => wordAt m key = x ∧ wordAt m (key + 8) = y ∧ Keeps s.mem m [(key, 16)])
    let refused := b.extractLsb' 48 6 ≠ 0 ∨ b.getLsbD 60 = true ∨ b.extractLsb' 0 8 ≠ 0
    (s.check ⟨.atomic, 16, true, false⟩ a = .ok (.port key) →
      leaf (.cmap f) (refused ∨ c.extractLsb' 0 4 ≠ 0) b c w0 ∧
      (let same := w0.extractLsb' 62 2 = c.extractLsb' 0 2
       leaf (.cres f) (refused ∨ c.extractLsb' 2 62 ≠ 0) (if same then b else w0) w1 w0) ∧
      (let n : Int := (w0.extractLsb' 0 32).toNat + b.toInt
       leaf (.cref f) (n < 0 ∨ 2 ^ 32 ≤ n ∨ w0.extractLsb' 32 32 ≠ 0) (BitVec.ofInt 64 n) w1 (BitVec.ofInt 64 n))) ∧
    ((b.extractLsb' 40 21 ≠ 0 ∨ b.extractLsb' 62 2 = 3) → gives (.cseq f) no same) ∧
    ((∀ i ∈ [0, 8, 9, 10, 11], s.check ⟨.atomic, 8, true, false⟩ (a + BitVec.ofNat 64 (8 * i)) = .ok (.port (key + 8 * i))) →
      b.extractLsb' 40 21 = 0 → b.extractLsb' 62 2 ≠ 3 → gives (.cseq f) w0 fun m => wordAt m key = b ∧
        (∀ i, 64 ≤ i → i < 96 → Mem.byte m (key + i) = 0) ∧ Keeps s.mem m [(key, 8), (key + 64, 32)])

/-- R368, R372, R374 to R376: CCMT, CCKP, CTRN and CRPL on a batch table in SRAM, with no token of the mask, and with one valid token:
each completes, and memory and the result are as its rule says. -/
def Claims.batchInstructions : Prop :=
  ∀ (f : RForm) (s : State) (kb : Nat) (p : Option Policy), s.acts f.pred f.pneg = true → Undisturbed s → BatchAt s (s.ra f.a.toNat) kb p →
    let live := wordAt s.mem kb
    let admits := wordAt s.mem (kb + 8)
    let b := s.rs f.b.toNat
    let result (v : Word) : State := s.postReg 1 ⟨.s, f.d.toNat⟩ v
    let same (m : Mem) : Prop := Keeps s.mem m []
    (live &&& b = 0 → Leaves (.ccmt f) s (result 0) same ∧ Leaves (.cckp f) s (result 0) same) ∧
    (b = 0 → Leaves (.ctrn f) s (result 0) same ∧
      Leaves (.crpl f) s (result 0).unblock fun m => wordAt m kb = 0 ∧ Keeps s.mem m [(kb, 8)]) ∧
    ∀ (q : Policy) (t kr : Nat) (k : Token), p = some q → ValidAt s kb q t kr k → Apart [(kb, 576), (kr, 1024)] →
      let bit : Word := BitVec.ofNat 64 (2 ^ t)
      let w0 := k.w 0
      let hidden := wordAt s.mem (kb + 48) + BitVec.ofNat 64 (t * q.bytes)
      (live &&& b = bit →
        (if (∀ l < q.nl, k.pend l = true) ∧ k.len < 2 ^ 40 - 1 then
          Leaves (.ccmt f) s (result bit) fun m => wordAt m kb = live ∧ wordAt m (kb + 8) = admits &&& ~~~bit ∧
            wordAt m kr = ((w0 &&& ~~~0x00FFF0FFFFFFFFFF) ||| BitVec.ofNat 64 (k.len + 1)) ∧
            (∀ i, 64 ≤ i → i < 96 → Mem.byte m (kr + i) = 0) ∧ Keeps s.mem m [(kb + 8, 8), (kr, 8), (kr + 64, 32)]
         else Leaves (.ccmt f) s (result 0) same) ∧
        ∀ l kh kc, s.rs f.c.toNat = BitVec.ofNat 64 l → l < q.nl → SramAt s hidden q.bytes kh → SramAt s (k.w 4) q.bytes kc →
          Apart [(kb, 576), (kr, 1024), (kh, q.bytes), (kc, q.bytes)] →
          Leaves (.cckp f) s (result bit) fun m => (∀ i < q.bytes, Mem.byte m (kc + i) = Mem.byte s.mem (kh + i)) ∧
            wordAt m kr = ((w0 &&& ~~~0x00FF000000000000) ||| BitVec.ofNat 64 (l * 2 ^ 48)) ∧
            wordAt m (kr + 48) = s.ctx.now.issue.addr ∧ wordAt m (kr + 56) = s.ctx.now.issue.mpc0 ∧
            Keeps s.mem m [(kc, q.bytes), (kr, 8), (kr + 48, 16)]) ∧
      (b = bit →
        (Leaves (.ctrn f) s (result bit) fun m => wordAt m kb = live &&& ~~~bit ∧ wordAt m (kb + 8) = admits &&& ~~~bit ∧
          wordAt m kr = ((w0 &&& ~~~0x00FFF00000000000) ||| if f.sub.getLsbD 0 then 0x8000000000000000 else 0) ∧
          (∀ i, 64 ≤ i → i < 96 → Mem.byte m (kr + i) = 0) ∧ Keeps s.mem m [(kb, 16), (kr, 8), (kr + 64, 32)]) ∧
        ∀ kh kc, (k.w 6).extractLsb' 0 2 = 0 → (k.w 7).extractLsb' 0 3 = 0 → SramAt s hidden q.bytes kh → SramAt s (k.w 4) q.bytes kc →
          Apart [(kb, 576), (kr, 1024), (kh, q.bytes), (kc, q.bytes)] →
          Leaves (.crpl f) s (((result bit).branch (k.w 6)).mapCtx fun c => { c with pipe := { c.pipe with mpc := k.w 7 } }) fun m =>
            (∀ i < q.bytes, Mem.byte m (kh + i) = Mem.byte s.mem (kc + i)) ∧ wordAt m kb = bit ∧
            wordAt m (kb + 8) = (if f.sub.getLsbD 0 then admits ||| bit else admits &&& ~~~bit) ∧
            Keeps s.mem m [(kh, q.bytes), (kb, 16)])

/-- R366, R369 to R371, R373: CAPP and CATT on a batch table in SRAM: with no LIVE token they change nothing; with one valid token CAPP
appends its rows at a position below S, and sets PEND; CATT gives a token at position 0, which attends only to itself, its outputs. -/
def Claims.attendAndAppend : Prop :=
  ∀ (f : RForm) (s : State) (kb : Nat) (p : Option Policy), s.acts f.pred f.pneg = true → Undisturbed s → BatchAt s (s.ra f.a.toNat) kb p →
    let live := wordAt s.mem kb
    let b := s.rs f.b.toNat
    let result (v : Word) : State := s.postReg 1 ⟨.s, f.d.toNat⟩ v
    (live = 0 → (Leaves (.capp f) s (result 0) fun m => Keeps s.mem m []) ∧ Leaves (.catt f) s s fun m => Keeps s.mem m []) ∧
    ∀ (q : Policy) (t kr : Nat) (k : Token) (l : Nat) (y : Layer), p = some q → ValidAt s kb q t kr k →
      live = BitVec.ofNat 64 (2 ^ t) → l < q.nl → q.layer l = some y →
      let row := 2 * 2 ^ q.h
      let at' (n i : Nat) : Word := wordAt s.mem (kb + 8 * n) + BitVec.ofNat 64 i
      (∀ kn kz, b = BitVec.ofNat 64 l → k.fl = l → k.len < y.s →
        let area := (y.lam + 1) * q.hk * 2 * (y.s + y.wblk * y.seg) * row
        let pinned (n : Nat) : Nat := kz + ((y.lam * q.hk * 2 + n) * (y.s + y.wblk * y.seg) + k.len) * row
        SramAt s (at' 5 (t * q.hk * 2 * row)) (q.hk * 2 * row) kn → SramAt s (k.w (64 + y.group)) area kz →
        Apart [(kb, 576), (kr, 1024), (kn, q.hk * 2 * row), (kz, area)] →
        Leaves (.capp f) s (result live) fun m =>
          (∀ n < 2 * q.hk, ∀ i < row, Mem.byte m (pinned n + i) = Mem.byte s.mem (kn + n * row + i)) ∧
          wordAt m (kr + 64 + 8 * (l / 64)) = k.w (8 + l / 64) ||| BitVec.ofNat 64 (2 ^ (l % 64)) ∧
          Keeps s.mem m ((kr + 64 + 8 * (l / 64), 8) :: (List.range (2 * q.hk)).map fun n => (pinned n, row))) ∧
      ∀ h0 count kq kn ko, h0 < 64 → 1 ≤ count → h0 + count ≤ q.hk → b = BitVec.ofNat 64 (l + h0 * 2 ^ 16 + (count - 1) * 2 ^ 24) → k.len = 0 →
        SramAt s (at' 3 ((t * q.hk + h0) * q.g * row)) (count * q.g * row) kq →
        SramAt s (at' 5 ((t * q.hk + h0) * 2 * row)) (count * 2 * row) kn →
        SramAt s (at' 4 ((t * q.hk + h0) * q.g * 2 * row)) (count * q.g * 2 * row) ko →
        Apart [(kb, 576), (ko, count * q.g * 2 * row)] →
        Leaves (.catt f) s s fun m =>
          (∀ j < count * q.g,
            let key := bf16Row (Mem.read s.mem (kn + j / q.g * (2 * row)) row)
            let val := bf16Row (Mem.read s.mem (kn + j / q.g * (2 * row) + row) row)
            let self := key.bind fun x => val.map fun v => ⟨x, v⟩
            Mem.read m (ko + j * (2 * row)) (2 * row) =
              (attend q.h y.bounded (bf16Row (Mem.read s.mem (kq + j * row) row)) [self] []).1.flatMap fun v => Bits.natLe 4 v) ∧
          Keeps s.mem m [(ko, count * q.g * 2 * row)]

/-- R380 to R382: CPIN, CFREC and CSTB on records in SRAM: what each answers, what it writes, and nothing else. -/
def Claims.recordInstructions : Prop :=
  ∀ (f : RForm) (s : State), s.acts f.pred f.pneg = true → Undisturbed s →
    let a := s.ra f.a.toNat
    let b := s.rs f.b.toNat
    let result (v : Word) : State := s.postReg 1 ⟨.s, f.d.toNat⟩ v
    let same (m : Mem) : Prop := Keeps s.mem m []
    (∀ ka kp p u, SramAt s a 1024 ka → SramAt s (wordAt s.mem (ka + 8)) 1344 kp → Cx.policy (wordAt s.mem (ka + 8)) s = .ok (p, u) →
      let v := s.ra f.c.toNat
      let g := (b.extractLsb' 0 6).toNat
      let fits := v.extractLsb' 56 8 = 0x82 ∧ v.extractLsb' 26 28 = 0 ∧ v.extractLsb' 0 8 = 0 ∧ ∃ q y, p = some q ∧ q.groupOf g 0 = some y ∧
        (v.extractLsb' 0 26).toNat + (q.layers.count g) * q.hk * 2 * (y.s + y.wblk * y.seg) * (2 * 2 ^ q.h) ≤ 2 ^ 26
      (b.toNat < 64 → v = 0 ∨ fits →
        Leaves (.cpin f) s (result (wordAt s.mem (ka + 512 + 8 * g))) fun m =>
          wordAt m (ka + 512 + 8 * g) = v ∧ Keeps s.mem m [(ka + 512 + 8 * g, 8)]) ∧
      (64 ≤ b.toNat ∨ ¬ (v = 0 ∨ fits) → Leaves (.cpin f) s (result (BitVec.allOnes 64)) same)) ∧
    (∀ ka, SramAt s a 128 ka → a.extractLsb' 0 7 = 0 →
      let w (i : Nat) : Word := wordAt s.mem (ka + 8 * i)
      let leaf (v : Word) : Prop := Leaves (.cfrec f) s (s.postReg 1 ⟨.a, f.d.toNat⟩ v) same
      let kind := ((w 1).extractLsb' 56 3).toNat
      let more := min 8 ((w 12).extractLsb' 0 4).toNat
      (2 ≤ kind ∨ more < b.toNat → leaf 0) ∧
      (kind < 2 → b.toNat ≤ more → ∀ kroot ke,
        let blk := (if b = 0 then w 2 else w (3 + b.toNat)).extractLsb' 0 48
        let g := ((w 3).extractLsb' 48 2).toNat * 16 + ((w 1).extractLsb' 40 4).toNat
        SramAt s (w 0 + 16) 8 kroot → SramAt s (wordAt s.mem kroot + BitVec.ofNat 64 (16 * g)) 16 ke →
        leaf (if blk.toNat < ((wordAt s.mem (ke + 8)).extractLsb' 0 32).toNat then
          wordAt s.mem ke + BitVec.ofNat 64 (256 + 16 * blk.toNat) else 0))) ∧
    ∀ kr kp k p u, RecordAt s a kr 0 k → SramAt s (k.w 1) 1344 kp → Cx.policy (k.w 1) s = .ok (p, u) →
      let l := (b.extractLsb' 0 8).toNat
      let blk := (b.extractLsb' 8 48).toNat
      (b.extractLsb' 56 8 ≠ 0 ∨ p = none ∨ (∃ q, p = some q ∧ (k.wf q = false ∨ q.nl ≤ l)) → Leaves (.cstb f) s (result 3) same) ∧
      ∀ q y fl, b.extractLsb' 56 8 = 0 → p = some q → k.wf q = true → l < q.nl → q.layer l = some y →
        Cx.leaf k y.group blk s = .ok (fl, s) →
        ((∀ x, fl = some x → x.state < 2) → Leaves (.cstb f) s (result 1) same) ∧
        ∀ x, fl = some x → 2 ≤ x.state →
          let n := min (k.len - y.s - blk * y.seg) y.seg
          let row := 2 * 2 ^ q.h
          (n = 0 → Leaves (.cstb f) s (result 2) same) ∧
          ∀ kx ks, 1 ≤ n → SramAt s x.block ((y.lam + 1) * y.lb q) kx → SramAt s (stubAt q y k x.stub 0) (q.hk * (row + 64)) ks →
            Apart [(kx, (y.lam + 1) * y.lb q), (ks, q.hk * (row + 64))] →
            Leaves (.cstb f) s (result 0) fun m =>
              (∀ h < q.hk,
                let rows := (List.range n).map fun j => (List.range (2 ^ q.h)).map fun e =>
                  Mem.readNat s.mem (kx + y.lam * y.lb q + (2 * h * y.seg + j) * row + 2 * e) 2
                let at' := ks + h * (row + 64)
                (∀ e < 2 ^ q.h, Mem.readNat m (at' + 2 * e) 2 = (stubOf rows (2 ^ q.h)).1.getD e 0 % 2 ^ 16) ∧
                Mem.readNat m (at' + row) 8 = (n + (stubOf rows (2 ^ q.h)).2 * 2 ^ 32) % 2 ^ 64 ∧
                ∀ i, 8 ≤ i → i < 64 → Mem.byte m (at' + row + i) = 0) ∧
              Keeps s.mem m [(ks, q.hk * (row + 64))]

/-- The context instructions complete, trap or wait; what the record and leaf updates leave in memory. On these points it follows choices
of the model: logs 16, 39, 54, 58, 59, 60, 61, 62, 63, 110, 124. The model's choice are the retries of an access that is not ready (log
62) and their microseconds (log 110), the eight entries that CFREC reads at most (log 58), the order of CSTB's answers (log 59), CPIN
under a malformed policy (log 60), and what CATT reads and how exactly it rounds (logs 54, 61). -/
def Obligations.ContextInstructions : Prop := Claims.contextInstructionsComplete ∧ Claims.recordAndLeafUpdates ∧ Claims.batchInstructions ∧ Claims.attendAndAppend ∧ Claims.recordInstructions

/-- R368, R372 to R376, R382: the result masks. A token in the mask of CCMT or CCKP was in LIVE and in s[B], one of CRPL or CTRN in s[B],
one of CAPP in LIVE. CRPL goes on by a transfer exactly when it restored a token, to an aligned place. CSTB answers 0 to 3, and writes
nothing unless it answers 0. On these points it follows choices of the model: logs 59, 60, 124. -/
def Obligations.BatchMasks : Prop :=
  ∀ (f : RForm) (s s1 s' : State) (ws : List Word) (d : Done),
    (Cx.words 72 (s.ra f.a.toNat)) s = .ok (ws, s1) →
    let live := ws.getD 0 0
    let b := s.rs f.b.toNat
    let within (m : Word) : Prop := ∃ r, d.res = some (⟨.s, f.d.toNat⟩, r) ∧ ∀ t < 64, r.getLsbD t = true → m.getLsbD t = true
    (contextBody (.ccmt f) s s = .ok (d, s') → within (live &&& b) ∧ d.goto = none) ∧
    (contextBody (.cckp f) s s = .ok (d, s') → within (live &&& b) ∧ d.goto = none) ∧
    (contextBody (.ctrn f) s s = .ok (d, s') → within b ∧ d.goto = none) ∧
    (contextBody (.capp f) s s = .ok (d, s') → within live ∧ d.goto = none) ∧
    (contextBody (.crpl f) s s = .ok (d, s') → within b ∧ (d.goto = none ↔ d.res = some (⟨.s, f.d.toNat⟩, 0)) ∧
      ∀ r m, d.goto = some (r, m) → r.extractLsb' 0 2 = 0 ∧ m.extractLsb' 0 3 = 0) ∧
    (s.ctx.trMode = 0 → contextBody (.cstb f) s s = .ok (d, s') → ∃ v : Word, d.res = some (⟨.s, f.d.toNat⟩, v) ∧ v ≤ 3 ∧
      (v ≠ 0 → SameMemory s s')) ∧
    (contextBody (.cfrec f) s s = .ok (d, s') → ∃ v : Word, d.res = some (⟨.a, f.d.toNat⟩, v)) ∧
    (contextBody (.cpin f) s s = .ok (d, s') → ∃ v : Word, d.res = some (⟨.s, f.d.toNat⟩, v)) ∧
    (contextBody (.catt f) s s = .ok (d, s') → d.res = none ∧ d.goto = none)

/-- R83, R133, R235, R236: an engine command steps its offsets whether or not it acts; one that acts takes the next number of its counter,
captures its operands and waits for its start; a fifth waiting command stalls its slot, as does one that another must take its number
before. -/
def Claims.commandsAtIssue : Prop :=
  ∀ (f : CForm) (s : State),
    let os := if s.isNew then 0 else s.slot.os + 64 * f.steps.signExtend 64
    let od := if s.isNew then 0 else s.slot.od + 64 * f.stepd.signExtend 64
    let u := s.mapSlot fun x => { x with os := os, od := od }
    let waiting := s.cmds.countP fun c => c.uid == s.ctx.uid && c.slot == s.k && !c.started
    let tc := f.tc.toNat
    ∀ i ∈ [Instr.cpy f, .tmov f, .gsx f, .fstt f, .fstl f, .xlnk f, .wstr f, .tful f, .temp f],
      (u.acts f.pred f.pneg = false → exec i s = .next u) ∧
      (u.acts f.pred f.pneg = true → 4 ≤ waiting ∨ s.numberWaits tc = true → exec i s = .next u.stall) ∧
      (u.acts f.pred f.pneg = true → waiting < 4 → InOrder s → ∃ t c, exec i s = .next t ∧ t.cmds = s.cmds ++ [c] ∧
        c.id = s.fresh ∧ c.uid = s.ctx.uid ∧ c.op = i ∧ c.tc = tc ∧ c.num = (s.ctx.tcval tc).issued + 1 ∧ c.started = false ∧
        c.startAt = s.slot.time + f.delay.toNat ∧ c.desc = s.ra f.desc.toNat ∧ c.aux = s.rs f.aux.toNat ∧ c.os = os ∧ c.od = od ∧
        c.asn = s.ctx.asn ∧ c.core = s.ctx.core ∧ c.bundle = s.ctx.now.issue.addr ∧
        (t.ctx.tcval tc).issued = (s.ctx.tcval tc).issued + 1 ∧ (t.ctx.tcval tc).done = (s.ctx.tcval tc).done ∧
        (∀ n, n ≠ tc → t.ctx.tcval n = s.ctx.tcval n) ∧ t.ctx.sreg = s.ctx.sreg ∧ t.ctx.areg = s.ctx.areg ∧
        t.ctx.vreg = s.ctx.vreg ∧ SameControl s t ∧ SameMemory s t)

/-- R83, R216, R237, R240 to R242, R259: a command starts when its slot's time has come; at verified completion its number is over, its
bytes stand and its tiles are set; TFUL fills and TEMP empties a range of tiles once the lower numbers of its counter are over; a failure
poisons its number and leaves the record of its cause; a re-read counts to three. -/
def Claims.commandLifecycle : Prop :=
  ∀ (s : State) (c : Cmd), s.cmds = [c] → c.uid = s.ctx.uid → (∀ x ∈ s.others, x.uid ≠ c.uid) → s.ctx.run.alive = true →
    (c.started = false → c.startAt ≤ (s.ctx.slot c.slot).time → s.ctx.run.moving = true → s.delays = [] →
      ∃ t d, exec (.commandStart c.uid c.id) s = .next t ∧ t.cmds = [d] ∧ d.started = true ∧ d.num = c.num ∧ d.op = c.op ∧
        d.wins = s.ctx.windows ∧ (s.reqs = [] → s.ctx.behindBarrier c.idx = false →
          ∀ ws, s.readDesc { c with started := true, wins := s.ctx.windows, known := s.commandKnows c, behind := [] } = .ok ws → d.words = ws) ∧
        SameRegs s t ∧ SameMemory s t) ∧
    (c.behind = [] → s.ctx.behindBarrier c.idx = false → (∀ w ∈ c.words, spaceOf w ≠ .remote) → s.laneWaits c = false) ∧
    (c.started = true → c.left = 0 → (s.runCmd c none).stop = none → (s.runCmd c none).s.ctx = s.ctx →
      (s.runCmd c none).s.cmds = s.cmds → s.laneWaits c = false →
      ∃ t, exec (.commandCompletion c.uid c.id) s = .next t ∧ t.cmds = [] ∧ t.mem = (s.runCmd c none).s.mem ∧
        (c.tc < 16 → t.ctx.tcval c.tc = (s.ctx.tcval c.tc).complete c.num) ∧
        (∀ n swz len, c.tray = some n → n < 16 → (s.runCmd c none).head = some (swz, len) →
          (t.ctx.head n).swz = BitVec.ofNat 4 swz ∧ (t.ctx.head n).len = len) ∧
        (c.tc < 16 → (∀ p ∈ (s.runCmd c none).tiles, p.1 = c.uid) → s.ctx.tileNow = [] → s.ctx.tileWait = [] → (∀ f, c.op ≠ .temp f) → ∀ n,
          n ∈ t.ctx.tileBits ↔ n ∈ s.ctx.tileBits ∨
            ((c.uid, n) ∈ (s.runCmd c none).tiles ∧ c.num ≤ ((s.ctx.tcval c.tc).complete c.num).done))) ∧
    (∀ f, c.started = true → c.left = 0 → c.op = .tful f ∨ c.op = .temp f → (s.ctx.tcval c.tc).done + 1 = c.num →
      (s.ctx.tcval c.tc).poison = 0 → s.laneWaits c = false → c.tray = none → s.ctx.tileNow = [] → s.ctx.tileWait = [] → c.tc < 16 →
      let first := (c.aux.extractLsb' 0 9).toNat
      let count := (c.aux.extractLsb' 16 9).toNat
      c.aux.extractLsb' 9 7 = 0 → c.aux.extractLsb' 25 39 = 0 → 1 ≤ count → first + count ≤ 384 →
      ∃ t, exec (.commandCompletion c.uid c.id) s = .next t ∧ t.cmds = [] ∧
        (∀ n, n ∈ t.ctx.tileBits ↔ if first ≤ n ∧ n < first + count then c.op = .tful f else n ∈ s.ctx.tileBits) ∧
        SameMemory s t ∧ SameControl s t) ∧
    (∀ cause pos addr coords link remain, c.started = true → s.cmdFault c = some (cause, pos) → c.tc < 16 →
      (s.runCmd c none).stop = some (.fail cause addr coords link remain) → (s.runCmd c none).s.ctx = s.ctx →
      (s.runCmd c none).s.cmds = s.cmds → s.cmdNotReady c (s.runCmd c none) = false → s.laneWaits c = false → (s.ctx.tcval c.tc).record = none →
      ∃ t r, exec (.commandFailure c.uid c.id cause pos) s = .next t ∧ t.cmds = [] ∧ (t.ctx.tcval c.tc).record = some r ∧
        r.cause = cause ∧ r.addr = addr ∧ r.remain = BitVec.ofNat 64 remain ∧ r.number = BitVec.ofNat 64 c.num ∧
        c.num ∈ (t.ctx.tcval c.tc).poisoned ∧ (t.ctx.tcval c.tc).done = (s.ctx.tcval c.tc).done) ∧
    (c.started = true → s.delays = [] → s.input.flag = false → c.retries < 3 →
      ∃ t, exec (.chunkRetry c.uid c.id) s = .next t ∧ t = { s with cmds := [{ c with retries := c.retries + 1 }] })

/-- R244 to R258: the bytes that a command leaves, with every byte that it reads and writes in a hamper, a basket, its own pocket or a
page that is served, none of them poisoned, and no byte written twice or read as well: CPY and TMOV copy, and TMOV's lanes convert each
tile; GSX gathers or scatters by its indices; FSTL and XLNK run lanes, and report in word 6; WSTR fills its tray slot. -/
def Claims.commandBytes : Prop :=
  ∀ (s : State) (c : Cmd) (ks kd : Nat → Nat), c.started = true → c.uid = s.ctx.uid → (∀ x ∈ s.others, x.uid ≠ c.uid) → s.ctx.trMode = 0 →
    s.views = [] → s.poison = [] →
    let w (n : Nat) : Word := c.words.getD n 0
    let x := s.runCmd c none
    let b (k : Nat) : Byte := Mem.byte s.mem k
    let bytes (lo n : Nat) : List Byte := (List.range n).map fun i => b (ks (lo + i))
    let reads (n : Nat) (a : Nat → Word) (k : Nat → Nat) : Prop := ∀ i < n, EngineAt s c false (a i) (k i)
    let writes (n : Nat) (a : Nat → Word) : Prop := ∀ i < n, EngineAt s c true (a i) (kd i) ∧ ∀ j < i, kd i ≠ kd j
    let apart (n m : Nat) (k : Nat → Nat) : Prop := ∀ i < n, ∀ j < m, kd i ≠ k j
    let leaves (n : Nat) (v : Nat → Byte) : Prop :=
      x.stop = none ∧ (∀ i < n, Mem.byte x.s.mem (kd i) = v i) ∧ ∀ k, (∀ i < n, kd i ≠ k) → Mem.byte x.s.mem k = b k
    let bound (lane : Nat) (tab : Word) (n : Nat) (l : Lane) : Prop :=
      s.lane lane = some l ∧ l.tab = tab ∧ ∀ i < n, kd i < l.key ∨ l.key + 2 ^ 19 ≤ kd i
    let timed (v : Word) : Prop := v.extractLsb' 48 16 = 0 ∧ v.extractLsb' 40 8 ≤ 128
    let block (v : Nat → Word) : Prop := 1 ≤ (v 2).extractLsb' 32 32 ∧ timed (v 5) ∧ (v 5).extractLsb' 7 33 = 0 ∧ v 7 = 0
    let from' (a : Word) (i : Nat) : Word := a + BitVec.ofNat 64 i
    (∀ f, c.op = .cpy f → c.words.length = 16 →
      let nd := ((w 2).extractLsb' 0 3).toNat
      let cnt (d : Nat) : Nat := if d < nd then ((w (3 + 2 * d)).extractLsb' 0 32).toNat else 1
      let n := ((List.range 6).map cnt).prod
      let i (m d : Nat) : Nat := m / ((List.range d).map cnt).prod % cnt d
      let at' (p : Word) (lo m : Nat) : Word :=
        p + BitVec.ofInt 64 (i m 0 + ((List.range 5).map fun e => (i m (e + 1) : ℤ) * ((w (6 + 2 * e)).extractLsb' lo 32).toInt).sum)
      1 ≤ nd → nd ≤ 6 → timed (w 2) → (w 2).extractLsb' 3 37 = 0 → w 4 = 0 → w 15 = 0 →
      (∀ d < nd, (w (3 + 2 * d)).extractLsb' 32 32 = 0 ∧ 1 ≤ cnt d) → n ≤ 2 ^ 40 →
      reads n (at' (w 0 + c.os) 32) ks → writes n (at' (w 1 + c.od) 0) → apart n n ks → leaves n fun m => b (ks m)) ∧
    (∀ f, c.op = .tmov f → c.words.length = 8 →
      let count := ((w 2).extractLsb' 48 16).toNat
      let pad := ((w 3).extractLsb' 31 7).toNat
      let xf := (w 3).extractLsb' 38 2
      let at' (p : Word) (lo size m : Nat) : Word := p + BitVec.ofInt 64 (64 * ((w 2).extractLsb' lo 24).toInt * (m / size : Nat) + (m % size : Nat))
      let ours (p : Word) : Prop := spaceOf p = .basket ∧ (p.extractLsb' 51 5).toNat = c.core / 16
      1 ≤ count → timed (w 3) → (w 3).extractLsb' 0 31 = 0 → w 5 = 0 → w 6 = 0 → w 7 = 0 → (w 0).extractLsb' 0 6 = 0 → (w 1).extractLsb' 0 6 = 0 →
      (let n := count * 4096
       xf = 0 → pad = 0 → w 4 = 0 → spaceOf (w 0) ∈ [Space.pocket, .basket, .hamper] → spaceOf (w 1) ∈ [Space.pocket, .basket, .hamper] →
        reads n (at' (w 0 + c.os) 24 4096) ks → writes n (at' (w 1 + c.od) 0 4096) → apart n n ks → leaves n fun m => b (ks m)) ∧
      ∀ (l : Lane) (out : Nat → List Byte) (fin : Nat → Nat),
        let wide := 64 * pad
        let ins := if xf = 1 then 4096 else wide
        let outs := if xf = 1 then wide else 4096
        let src := at' (w 0 + c.os) 24 ins
        let dst := at' (w 1 + c.od) 0 outs
        xf = 1 ∨ xf = 2 → 8 ≤ pad → pad ≤ 64 → (if xf = 1 then spaceOf (w 0) = .pocket ∧ ours (w 1) else ours (w 0) ∧ spaceOf (w 1) = .pocket) →
        (∀ t < count, if xf = 1 then spaceOf (src (t * ins)) = .pocket ∧ ours (dst (t * outs)) else ours (src (t * ins)) ∧ spaceOf (dst (t * outs)) = .pocket) →
        bound (128 + 2 * (c.core / 16) + if xf = 1 then 0 else 1) (w 4) (count * outs) l →
        reads (count * ins) src ks → writes (count * outs) dst → apart (count * outs) (count * ins) ks →
        (∀ t < count, LaneRun s.mem l.key 0 (nibblesOf (bytes (t * ins) ins)) (out t) (fin t) ∧
          if xf = 1 then (out t).length ≤ outs else (out t).length = outs) →
        leaves (count * outs) fun m => (out (m / outs)).getD (m % outs) 0) ∧
    (∀ (f : CForm) (ki : Nat → Nat), c.op = .gsx f → c.words.length = 8 →
      let count := ((w 3).extractLsb' 40 24).toNat
      let size := ((w 3).extractLsb' 16 16).toNat
      let n := count * size
      let index (k : Nat) : Nat := ((List.range 4).map fun j => (b (ki (4 * k + j))).toNat * 2 ^ (8 * j)).sum
      let table (m : Nat) : Word := from' (from' (w 0) (index (m / size) * (w 4).toNat)) (m % size)
      let run := from' (w 2 + c.od)
      1 ≤ count → 1 ≤ size → size ≤ 4096 → spaceOf (w 0) = .global → (w 3).extractLsb' 32 8 = 0 → (w 3).extractLsb' 0 16 = 0 →
      (w 4).extractLsb' 48 16 = 0 → timed (w 5) → (w 5).extractLsb' 1 39 = 0 → w 6 = 0 → w 7 = 0 →
      reads (4 * count) (from' (w 1 + c.os)) ki → apart n (4 * count) ki → reads n (if (w 5).getLsbD 0 then run else table) ks →
      writes n (if (w 5).getLsbD 0 then table else run) → apart n n ks → leaves n fun m => b (ks m)) ∧
    (∀ f (l : Lane) (out : List Byte) (fin : Nat), c.op = .fstl f → c.words.length = 8 →
      let len := ((w 2).extractLsb' 0 32).toNat
      let n := out.length
      c.desc.extractLsb' 0 6 = 0 → block w → w 4 = 0 → (w 5).extractLsb' 0 7 = 0 → 1 ≤ len → bound (f.sub.extractLsb' 0 7).toNat (w 3) (n + 8) l →
      reads len (from' (w 0 + c.os)) ks → apart (n + 8) len ks →
      writes (n + 8) (fun i => if i < n then from' (w 1 + c.od) i else from' (c.desc + 48) (i - n)) →
      LaneRun s.mem l.key 0 (nibblesOf (bytes 0 len)) out fin → n ≤ ((w 2).extractLsb' 32 32).toNat →
      leaves (n + 8) fun i => if i < n then out.getD i 0 else BitVec.ofNat 8 ((n * 2 ^ 32 + fin) / 2 ^ (8 * (i - n)))) ∧
    (∀ f (bs : List (List Word)) (l : Nat → Lane) (out : Nat → List Byte) (fin : Nat → Nat), c.op = .xlnk f → c.words = bs.flatten →
      let v (i j : Nat) : Word := (bs.getD i []).getD j 0
      let len := ((v 0 2).extractLsb' 0 32).toNat
      let q := bs.length
      let n := (out q).length
      let place (i : Nat) : Word := if i = 0 then c.desc else v (i - 1) 4
      1 ≤ q → q ≤ 8 → (∀ d ∈ bs, d.length = 8) → 1 ≤ len → out 0 = bytes 0 len →
      (∀ i < q, (place i).extractLsb' 0 6 = 0 ∧ block (v i) ∧ (v i 5).extractLsb' 4 3 = (v 0 5).extractLsb' 4 3 ∧ (0 < i → v i 0 = 0 ∧ (v i 2).extractLsb' 0 32 = 0) ∧
        (i + 1 < q → v i 1 = 0 ∧ (v i 2).extractLsb' 32 32 ≤ 16384) ∧ bound ((v i 5).extractLsb' 0 7).toNat (v i 3) (n + 8 * q) (l i) ∧
        LaneRun s.mem (l i).key 0 (nibblesOf (out i)) (out (i + 1)) (fin i) ∧ (out (i + 1)).length ≤ ((v i 2).extractLsb' 32 32).toNat) →
      reads len (from' (v 0 0 + c.os)) ks → apart (n + 8 * q) len ks →
      writes (n + 8 * q) (fun i => if i < n then from' (v (q - 1) 1 + c.od) i else from' (place ((i - n) / 8) + 48) ((i - n) % 8)) →
      leaves (n + 8 * q) fun i => if i < n then (out q).getD i 0
        else BitVec.ofNat 8 (((out ((i - n) / 8 + 1)).length * 2 ^ 32 + fin ((i - n) / 8)) / 2 ^ (8 * ((i - n) % 8)))) ∧
    ∀ f (slot : Nat), c.op = .wstr f → c.words.length = 4 → c.tray = some slot →
      let n := ((w 1).extractLsb' 32 16).toNat
      let len := ((w 1).extractLsb' 0 32).toNat
      let swz := ((w 3).extractLsb' 0 4).toNat
      (w 1).extractLsb' 48 16 = 0 → 1 ≤ n → n ≤ 16384 → timed (w 3) → (w 3).extractLsb' 4 36 = 0 → swz ≤ 1 → spaceOf (w 0) = .global →
      reads len (from' (w 0 + c.os)) ks → (∀ i < n, kd i = s.ctx.trayAt slot i) → apart n len ks →
      (w 2 = 0 → len = n → leaves n (fun m => b (ks m)) ∧ x.head = some (swz, n)) ∧
      ∀ (l : Lane) (out : List Byte) (fin : Nat), w 2 ≠ 0 → bound (f.sub.extractLsb' 0 7).toNat (w 2) n l →
        LaneRun s.mem l.key 0 (nibblesOf (bytes 0 len)) out fin → out.length = n → leaves n (fun i => out.getD i 0) ∧ x.head = some (swz, n)

/-- An engine command is captured at issue, starts, and completes or fails. On these points it follows choices of the model: logs 12, 65,
67, 68, 69, 71, 104, 126. -/
def Obligations.EngineCommands : Prop := Claims.commandsAtIssue ∧ Claims.commandLifecycle ∧ Claims.commandBytes

/-- R74, R75, R80, R172: a result that is due is written and no other register changes; s0 and p0 keep nothing; a result not yet due
stays. The answer of a landing load goes to its entry, extended by its type. On these points it follows choices of the model: logs 9, 10,
133. -/
def Obligations.ResultsAreWritten : Prop :=
  (∀ (s : State) (k : Slot) (f : Flight), (s.ctx.slot k).flights = [f] → s.ctx.landings = [] → f.mem = none →
    (∀ h ∈ s.ctx.trayHeads, h.state ≠ 2) →
    ((s.ctx.slot k).time < f.due → exec (.resultWriteback k) s = .next s) ∧
    (f.due ≤ (s.ctx.slot k).time → f.act = s.ctx.uiAct →
      ((∃ r v, f.effs = [.reg r v]) ∨ (∃ d v m, f.effs = [.vec d v m]) ∨ (∃ fl, f.effs = [.flags fl]) ∨
        (s.ctx.trMode = 0 ∧ ∃ n d v, f.effs = [.outside n d v])) →
      ∃ t, exec (.resultWriteback k) s = .next t ∧ (t.ctx.slot k).flights = [] ∧
      SameMemory s t ∧ SameControl s t ∧ t.ctx.zreg = s.ctx.zreg ∧ t.ctx.tcs = s.ctx.tcs ∧
      (∀ r v, f.effs = [.reg r v] → t.ctx.vreg = s.ctx.vreg ∧ t.ctx.slreg = s.ctx.slreg ∧ (r.file ≠ .s → t.ctx.sreg = s.ctx.sreg) ∧
        (r.file ≠ .a → t.ctx.areg = s.ctx.areg) ∧ (r.file ≠ .p → t.ctx.preg = s.ctx.preg) ∧ (r.file ≠ .k → t.ctx.kreg = s.ctx.kreg) ∧
        (r.file ≠ .ts → t.ctx.tsreg = s.ctx.tsreg) ∧ (r.file ≠ .bd → t.ctx.bdreg = s.ctx.bdreg) ∧
        (r.file = .k → (r.num < 16 → t.ctx.kval r.num = v) ∧ ∀ n, n ≠ r.num → t.ctx.kval n = s.ctx.kval n) ∧
        (r.file = .ts → (r.num < 16 → t.ctx.tsval r.num = v) ∧ ∀ n, n ≠ r.num → t.ctx.tsval n = s.ctx.tsval n) ∧
        (r.file = .bd → (r.num < 16 → t.ctx.bdval r.num = v.toNat) ∧ ∀ n, n ≠ r.num → t.ctx.bdval n = s.ctx.bdval n) ∧
        (r.file = .s → t.ctx.sval 0 = 0 ∧
          (r.num < 64 → r.num ≠ 0 → t.ctx.sval r.num = v) ∧ ∀ n, n ≠ r.num → t.ctx.sval n = s.ctx.sval n) ∧
        (r.file = .a → (r.num < 32 → t.ctx.aval r.num = v) ∧ ∀ n, n ≠ r.num → t.ctx.aval n = s.ctx.aval n) ∧
        (r.file = .p → (∀ k, t.ctx.pval k 0 = BitVec.allOnes 64) ∧
          (r.num < 32 → r.num ≠ 0 → t.ctx.preg[r.num]? = some v) ∧ ∀ n, n ≠ r.num → t.ctx.preg[n]? = s.ctx.preg[n]?)) ∧
      (∀ d v m, f.effs = [.vec d v m] → d < 64 → t.ctx.sreg = s.ctx.sreg ∧ t.ctx.areg = s.ctx.areg ∧ t.ctx.preg = s.ctx.preg ∧
        t.ctx.kreg = s.ctx.kreg ∧ t.ctx.tsreg = s.ctx.tsreg ∧ t.ctx.bdreg = s.ctx.bdreg ∧ t.ctx.slreg = s.ctx.slreg ∧ (∀ n, n ≠ d → t.ctx.vval n = s.ctx.vval n) ∧
        ∀ b < 2048, (t.ctx.vval d).getLsbD b = if m.getLsbD b then v.getLsbD b else (s.ctx.vval d).getLsbD b) ∧
      (∀ n d v, f.effs = [.outside n d v] → t.ctx.vreg = s.ctx.vreg ∧ t.ctx.areg = s.ctx.areg ∧ t.ctx.preg = s.ctx.preg ∧
        t.ctx.kreg = s.ctx.kreg ∧ t.ctx.tsreg = s.ctx.tsreg ∧ t.ctx.bdreg = s.ctx.bdreg ∧ t.ctx.slreg = s.ctx.slreg ∧ t.ctx.sval 0 = 0 ∧
        (d < 64 → d ≠ 0 → t.ctx.sval d = v) ∧ ∀ m, m ≠ d → t.ctx.sval m = s.ctx.sval m) ∧
      (∀ fl, f.effs = [.flags fl] → SameRegs s t ∧ t.ctx.fpnow = s.ctx.fpnow ||| fl))) ∧
  ∀ (s : State) (r : Resp) (e : Landing) (d : LandDst), s.resps = [r] → r.uid = s.ctx.uid → r.land = some e.id →
    s.ctx.landings = [e] → e.dst = some d → e.pend = false →
    (s.answered r = false → exec (.landingDataArrival r.id) s = .next s) ∧
    (s.answered r = true → ∃ (t : State) (es : List Eff), exec (.landingDataArrival r.id) s = .next t ∧ t.resps = [] ∧
      t.ctx.landings = [{ e with data := some es }] ∧ SameRegs s t ∧ SameControl s t ∧ SameMemory s t ∧
      (d.reg.file = .s → d.pair = false → 1 ≤ d.ty → d.ty ≤ 8 → es = [.reg d.reg (typeExt d.ty (Bits.leWord r.bytes))]) ∧
      (d.reg.file = .v → es = [.vec d.reg.num (BitVec.ofNat 2048 (Bits.leNat r.bytes)) (BitVec.allOnes 2048)]))

/-- R204 to R206, R225, R262, R405, R406, R409, R410: a request that has come to its place, with none before it, is performed: a write
puts its bytes and leaves, a read answers; a page not there parks it, one not mapped stops its context or, at another die, has it tried
again after 1 µs, doubled to at most 64. -/
def Claims.requestsAtTheirPlace : Prop :=
  ∀ (s : State) (r : Req) (at' : Nat), s.reqs = [r] → r.state = .sent at' → at' ≤ s.clock → s.others = [] → s.poison = [] →
    s.views = [] → s.hostmaps = [] → s.denied = [] → s.poolDown = [] → s.ctx.releases = [] → (s.ctx.slot 0).wait = none →
    (∀ x ∈ s.ctx.pipe.slots, x.flights = [] ∧ r.idx < x.pos) → s.ctx.behindBarrier r.idx = false → (∀ w ∈ s.history, w.later r.origin = false) →
    r.ticket = none → r.ratom = false → r.poison = [] → Mem.wf s.mem = true →
    let frame (p : Page) (dva : Nat) : Nat := p.frame + (dva / 4096 - p.ref.page)
    let wrote (i : Instr) (key : Nat) (bs : List Byte) : Prop := ∃ t, exec i s = .next t ∧ t.reqs = [] ∧ t.resps = s.resps ∧
      (∀ j < bs.length, Mem.byte t.mem (key + j) = bs.getD j 0) ∧ SameRegs s t ∧ SameControl s t ∧
      ∀ a, a < key ∨ key + bs.length ≤ a → Mem.byte t.mem a = Mem.byte s.mem a
    let answers (i : Instr) (key n : Nat) : Prop := ∃ t q, exec i s = .next t ∧ t.reqs = [] ∧ t.resps = s.resps ++ [q] ∧
      q.id = r.id ∧ q.uid = r.uid ∧ q.land = r.land ∧ q.bytes = Mem.read s.mem key n ∧ SameMemory s t ∧ SameRegs s t
    (∀ key, r.place = .port key →
      (∀ bs, r.act = .write bs → wrote (.memoryPortAccess r.id) key bs) ∧
      ∀ n, r.act = .read n → answers (.memoryPortAccess r.id) key n) ∧
    (∀ asn dva p, r.place = .virt asn dva → dva % 4096 + r.size ≤ 4096 → 0 < r.size → s.findPage ⟨0, asn, dva / 4096⟩ = some p →
      frame p dva < 2 ^ 27 →
      (∀ bs, r.act = .write bs → p.state = .resident → p.writable = true →
        wrote (.memorySideAccess r.id) (physKey 0 (frame p dva * 4096 + dva % 4096)) bs) ∧
      (∀ n, r.act = .read n → p.state = .resident →
        answers (.memorySideAccess r.id) (physKey 0 (frame p dva * 4096 + dva % 4096)) n) ∧
      (p.state ≠ .resident → ∃ t, exec (.memorySideAccess r.id) s = .next t ∧ t.reqs = [{ r with state := .parked s.fresh s.nextNum }] ∧ SameMemory s t)) ∧
    (∀ asn dva, r.place = .virt asn dva → dva % 4096 + r.size ≤ 4096 → 0 < r.size → s.findPage ⟨0, asn, dva / 4096⟩ = none →
      r.uid = s.ctx.uid → s.ctx.run = .running → ∃ t e, exec (.memorySideAccess r.id) s = .next t ∧ t.reqs = [] ∧
        t.ctx.raised = s.ctx.raised ++ [e] ∧ e.cls = 0x24 ∧ e.cause = 1 ∧ e.addr = r.ea ∧ SameMemory s t) ∧
    (∀ die asn dva, r.place = .remote die asn dva → dva % 4096 + r.size ≤ 4096 → 0 < r.size →
      (r.isRstd = true → r.carried ≠ [] → ∃ t, exec (.remoteRequestArrival r.id) s = .next t ∧
        t.reqs = [{ r with state := .held s.clock, backoff := 0 }] ∧ SameMemory s t) ∧
      (r.isRstd = false → s.findPage ⟨s.pkgOf die, asn, dva / 4096⟩ = none →
        let b := if r.backoff = 0 then 1 else min (2 * r.backoff) 64
        ∃ t since, exec (.remoteRequestArrival r.id) s = .next t ∧ SameMemory s t ∧
          t.reqs = [{ r with backoff := b, since := some since, state := .retry (s.clock + b * s.reqUs r) false }]) ∧
      (∀ p, r.isRstd = false → s.findPage ⟨s.pkgOf die, asn, dva / 4096⟩ = some p → frame p dva < 2 ^ 27 → p.state = .resident →
        (∀ bs, r.act = .write bs → p.writable = true →
          wrote (.remoteRequestArrival r.id) (physKey (s.pkgOf die) (frame p dva * 4096 + dva % 4096)) bs) ∧
        ∀ n, r.act = .read n → answers (.remoteRequestArrival r.id) (physKey (s.pkgOf die) (frame p dva * 4096 + dva % 4096)) n))

/-- R398, R405, R406, R409, R410, R415: what happens to a request under way: a router forwards a RATOM it held, the source sends an access
again, an access answered not-ready for too long and a store held too long end in their errors, and a response comes back. -/
def Claims.requestsUnderWay : Prop :=
  (∀ (s : State) (r : Req) (t : Nat), s.reqs = [r] → s.delays = [] → s.ticketMsgs = [] →
    let die := (r.target).getD r.src
    (t ≤ s.clock → (r.state = .merging t → exec (.ratomHoldExpiry r.id) s = .next { s with reqs := [{ r with state := .sent s.clock }] }) ∧
      ∀ busy, r.state = .retry t busy →
        ((r.src, die) ∈ s.draining → exec (.rnrRetry r.id) s = .next s) ∧
        ((r.src, die) ∉ s.draining → s.reachable r.src die = true →
          exec (.rnrRetry r.id) s = .next { s with reqs := [{ r with state := .sent s.clock }] }) ∧
        ((r.src, die) ∉ s.draining → s.reachable r.src die = false → r.ticket = none → ∃ u q, exec (.rnrRetry r.id) s = .next u ∧
          u.reqs = [] ∧ u.resps = s.resps ++ [q] ∧ q.err = some (0x25, 2, r.ea) ∧ SameMemory s u)) ∧
    (s.clock < t → (r.state = .merging t → exec (.ratomHoldExpiry r.id) s = .next s) ∧
      ∀ busy, r.state = .retry t busy → exec (.rnrRetry r.id) s = .next s) ∧
    (∀ since, r.ticket = none → r.state = .retry t false → r.since = some since → since + r.rnrt * s.reqUs r ≤ s.clock → ∃ u q,
      exec (.rnrRetryExhausted r.id) s = .next u ∧ u.reqs = [] ∧ u.resps = s.resps ++ [q] ∧ q.err = some (0x25, 1, r.ea) ∧ q.uid = r.uid ∧
      SameMemory s u)) ∧
  (∀ (s : State) (r : Req) (t die : Nat) (asn : Byte) (d : Nat), s.reqs = [r] → r.place = .remote die asn d → r.ticket = none →
    r.state = .held t → t + r.limit * s.reqUs r < s.clock → s.pkgOf die = 0 → ∃ u q e,
      exec (.turnstileExpiry r.id) s = .next u ∧ u.reqs = [] ∧ u.resps = s.resps ++ [q] ∧ q.err = some (0x26, 1, r.ea) ∧
      u.errq = s.errq ++ [e] ∧ e.kind = 0x03 ∧ SameMemory s u) ∧
  (∀ (s : State) (r : Req) (at' die : Nat), r ∈ s.reqs → (∀ q ∈ s.reqs, q.id = r.id → q = r) → r.target = some die → r.state = .sent at' →
    at' ≤ s.clock → s.heldByTarget r = false → r.isRstd = true → r.carried ≠ [] →
    256 ≤ (s.reqs.countP fun q => q.target == some die && q.state matches .held _) →
    let b := if r.backoff = 0 then 1 else min (2 * r.backoff) 64
    exec (.remoteRequestArrival r.id) s = .next { s with reqs := s.reqs.map fun q =>
      if q.id = r.id then { r with backoff := b, state := .retry (s.clock + b * s.reqUs r) true } else q }) ∧
  ∀ (s : State) (q : Resp), s.resps = [q] → q.uid = s.ctx.uid →
    (s.answered q = false → exec (.remoteResponseArrival q.id) s = .next s) ∧
    (s.answered q = true → q.err = none → ∃ h, exec (.remoteResponseArrival q.id) s = .next { s with
      resps := [], history := h, ctx := if q.ratom then { s.ctx with ratoms := s.ctx.ratoms - 1 } else s.ctx } ∧
      (q.ratom = false → h = s.history) ∧ h.map Past.num = s.history.map Past.num) ∧
    ∀ cls cause addr, s.answered q = true → q.err = some (cls, cause, addr) → s.ctx.run = .running → ∃ t e, exec (.remoteResponseArrival q.id) s = .next t ∧
      t.resps = [] ∧ t.ctx.raised = s.ctx.raised ++ [e] ∧ e.cls = cls ∧ e.cause = cause ∧ e.addr = addr ∧ SameRegs s t ∧ SameMemory s t

/-- R412, R414: a ticket that lands is free under its next generation, and a release goes to every die that it was carried to; a release
takes the ticket from the stores held there; a cancellation discards them with an error. -/
def Claims.ticketMessages : Prop :=
  (∀ (s : State) (die : BitVec 8) (h : Word) (u : TicketEntry) (m : TicketMsg), s.ticketMsgs = [m] → s.msgThere m = true →
    m.kind = 0 → m.die = die.toNat → m.origin = die.toNat → m.ticket = h → h.getLsbD 63 = true →
    s.tickets = [u] → u.die = die.toNat → u.entry = h.toNat % 1024 → u.gen = h.extractLsb' 32 16 → u.pending = true →
    ∃ t, exec (.ticketLanding die h) s = .next t ∧ t.tickets = [{ u with gen := u.gen + 1, pending := false, dests := [] }] ∧
      t.ticketMsgs.map (fun x => (x.kind, x.src, x.die, x.origin, x.ticket)) = u.dests.map (fun d => (1, die.toNat, d, die.toNat, h)) ∧
      SameMemory s t ∧ SameRegs s t) ∧
  ∀ (s : State) (die origin : BitVec 8) (h : Word) (r : Req) (at' : Nat) (m : TicketMsg), s.ticketMsgs = [m] → s.msgThere m = true →
    m.die = die.toNat → m.origin = origin.toNat → m.ticket = h → s.reqs = [r] → r.target = some die.toNat → r.src = origin.toNat →
    h ∈ r.carried → r.state = .held at' →
    (m.kind = 1 → (r.carried.filter fun g => g != h) ≠ [] →
      exec (.ticketReleaseArrival die origin h) s =
        .next { s with ticketMsgs := [], reqs := [{ r with carried := r.carried.filter fun g => g != h }] }) ∧
    (m.kind = 1 → (r.carried.filter fun g => g != h) = [] → ∀ asn dva p bs, r.place = .remote die.toNat asn dva → r.act = .write bs →
      dva % 4096 + bs.length ≤ 4096 → 0 < bs.length → s.findPage ⟨s.pkgOf die.toNat, asn, dva / 4096⟩ = some p →
      p.frame + (dva / 4096 - p.ref.page) < 2 ^ 27 → p.state = .resident → p.writable = true → s.poison = [] → s.views = [] → s.hostmaps = [] →
      s.poolDown = [] → (∀ w ∈ s.history, w.later r.origin = false) → s.ctxOf r.uid = some s.ctx → s.ctx.releases = [] → r.ticket = none →
      r.ratom = false → r.poison = [] → Mem.wf s.mem = true →
      let key := physKey (s.pkgOf die.toNat) ((p.frame + (dva / 4096 - p.ref.page)) * 4096 + dva % 4096)
      ∃ t, exec (.ticketReleaseArrival die origin h) s = .next t ∧ t.reqs = [] ∧ t.resps = s.resps ∧ t.ticketMsgs = [] ∧ SameRegs s t ∧
        (∀ j < bs.length, Mem.byte t.mem (key + j) = bs.getD j 0) ∧ Keeps s.mem t.mem [(key, bs.length)]) ∧
    (m.kind = 2 → r.ticket = none → ∃ t q, exec (.ticketCancel die origin h) s = .next t ∧
      t.reqs = [] ∧ t.resps = s.resps ++ [q] ∧ q.err = some (0x25, 4, r.ea) ∧ q.uid = r.uid ∧ t.ticketMsgs = [] ∧ SameMemory s t)

/-- What becomes of a request: performed, parked, held, retried, answered or ended in an error. On these points it follows choices of the
model: logs 8, 10, 11, 12, 14, 103, 105, 110, 116, 135. That a request's microseconds are those of the throttle state at the test (log
110) is the model's choice. -/
def Obligations.RequestsAndTickets : Prop := Claims.requestsAtTheirPlace ∧ Claims.requestsUnderWay ∧ Claims.ticketMessages

/-- R204, R205, R207, R208, R209, R232, R434: what stewards do to pages: an absent page is supplied, or what is parked on it faults; a
page, of 4 KiB or 2 MiB, migrates unless it was probed within 2 ms; a copy on write gets a frame of its own with the same bytes; pages are
mapped and unmapped; missed deadlines are counted, erase blocks and lost pool ranges entered. -/
def Claims.pagesMove : Prop :=
  (∀ (s : State) (p : Page), s.stewardUp p.die = true → s.pages = [p] → s.input.page = p.ref → s.input.m = 0 → s.reqs = [] → Mem.wf s.mem = true →
    let i := s.input
    let key (f : Nat) : Nat := s.frameKey i.page.pkg f
    let size := 4096 * (if p.big then 512 else 1)
    let copied (t : State) : Prop :=
      (∀ j < size, Mem.byte t.mem (key i.n + j) = Mem.byte s.mem (key p.frame + j)) ∧ Keeps s.mem t.mem [(key i.n, size)]
    (i.flag = true → p.state = .absent → exec .parkedAccessReplay s = .next { s with
      pages := [{ p with state := .resident, frame := i.n }]
      frames := (i.n, (s.frames.lookup i.n).getD 0 + 1) :: s.frames.filter fun x => x.1 != i.n }) ∧
    (i.flag = false → exec .parkedAccessReplay s = .next { s with denied := p.ref :: s.denied }) ∧
    (i.flag = true → p.state = .resident → (∀ t, p.probed = some t → t + 2000 * s.usCycles p.die ≤ s.clock) →
      exec .pageMigration s = .next { s with pages := [{ p with state := .migrating }] }) ∧
    (i.flag = true → p.state = .resident → (∃ t, p.probed = some t ∧ s.clock < t + 2000 * s.usCycles p.die) →
      exec .pageMigration s = .next s) ∧
    (i.flag = false → p.state = .migrating →
      (i.n = p.frame ∨ i.page.pkg ≠ 0 ∨ frameFlash i.n = false → ∃ t, exec .pageMigration s = .next t ∧ copied t ∧
        t.pages = [{ p with state := .resident, frame := i.n, writable := p.writable && !frameFlash i.n }]) ∧
      (i.n ≠ p.frame → i.page.pkg = 0 → frameFlash i.n = true → s.targetFrames 0 i.n p.frames = none →
        exec .pageMigration s = .next s)) ∧
    (p.state = .resident → p.cow = true → frameFlash i.n = true → exec .copyOnWriteBreak s = .next s) ∧
    (p.state = .resident → p.cow = true → frameFlash i.n = false → ∃ t, exec .copyOnWriteBreak s = .next t ∧ copied t ∧
      t.pages = [{ p with frame := i.n, cow := false, writable := true }])) ∧
  (∀ (s : State) (p : Page), s.pages = [p] → s.input.page = p.ref → s.stewardUp p.die = true → s.input.m = 2 → p.state ≠ .absent →
    ∃ t, exec .pageMigration s = .next t ∧ t.pages = [] ∧ SameMemory s t ∧
      ((s.frames.lookup p.frame).getD 1 ≤ 1 → t.reuse = s.reuse ++ [p.frame])) ∧
  (∀ (s : State) (big : Bool), s.pages = [] → s.input.m = (if big then 3 else 1) → s.input.word.getLsbD 2 = false →
    let p : Page :=
      { ref := if big then { s.input.page with page := s.input.page.page / 512 * 512 } else s.input.page, big := big, state := .resident
        frame := s.input.n, writable := s.input.word.getLsbD 0 && !frameFlash s.input.n, cow := s.input.word.getLsbD 1, probed := none }
    s.stewardUp p.die = true → ∃ t, exec .pageMigration s = .next t ∧ t.pages = [p] ∧ SameMemory s t ∧
      t.frames.lookup p.frame = some ((s.frames.lookup p.frame).getD 0 + 1)) ∧
  ∀ (s : State),
    let i := s.input
    (∃ t, exec .deadlineMiss s = .next t ∧ t.evstat = s.evstat ||| 4 ∧ SameMemory s t ∧
      (t.errCounts (i.die % 4) 6).1 = min ((s.errCounts (i.die % 4) 6).1 + 1) (2 ^ 32 - 1)) ∧
    (i.die < 4 → s.stewardUp i.die = true → exec .flashEraseBlockReclaim s = .next { s with flashFree := s.flashFree ++ [(i.die, i.n)] }) ∧
    (0x50000000000 ≤ i.n → exec .poolDeviceFailure s = .next { s with poolDown := (i.n, i.m) :: s.poolDown })

/-- R20, R446 to R449: an error found is counted, an uncorrectable one poisons its granule, of memory or of a register, and the first of
its counter sets EVSTAT.UE; a cluster whose errors exceed the threshold is withheld; a launch unit asks its steward every 10 ms, declares
it failed when a request is open for 100 ms, and takes it back when it answers. -/
def Claims.errorsAndStewards : Prop :=
  (∀ (s : State), s.input.site.kind.toNat < 6 →
    let x := s.input.site
    let c (t : State) := t.errCounts x.die.toNat x.kind.toNat
    (s.input.flag = false → ∃ t, exec .softError s = .next t ∧ (c t).1 = min ((c s).1 + 1) (2 ^ 32 - 1) ∧ (c t).2 = (c s).2 ∧
      t.poison = s.poison ∧ SameMemory s t ∧ SameRegs s t) ∧
    (s.input.flag = true → ∃ t, exec .softError s = .next t ∧ (c t).2 = min ((c s).2 + 1) (2 ^ 32 - 1) ∧ (c t).1 = (c s).1 ∧
      (∀ key, x.upset = .mem key → key / granule key * granule key ∈ t.poison) ∧
      (∀ r w, x.upset = .reg s.ctx.uid r w → (r, w) ∈ t.ctx.rpoison) ∧ t.evstat = (if (c s).2 = 0 then s.evstat ||| 2 else s.evstat) ∧ SameMemory s t) ∧
    (s.input.flag = false → s.input.n ≤ 2 ^ 32 - 1 - (c s).1 → ∃ t, exec .scrub s = .next t ∧ (c t).1 = (c s).1 + s.input.n ∧
      t.poison = s.poison ∧ SameMemory s t)) ∧
  (∀ (s : State), s.teams = [] →
    let cl := s.input.n / 16
    s.stewardUp (cl / 8) = true → cl < 32 → s.resmap.getLsbD cl = false →
    Config.errorThreshold < (s.coreErrors.lookup s.input.n).getD 0 → ∃ t, exec .resourceWithhold s = .next t ∧
      t.evstat = s.evstat ||| 16 ∧ (∀ j < 64, t.resmap.getLsbD j = (s.resmap.getLsbD j || j == cl)) ∧ SameMemory s t) ∧
  ∀ (s : State) (w : Steward), s.stewards[s.input.die]? = some w →
    let d := s.input.die
    let silent := !s.input.flag
    (s.stewardUp d = true → w.asked = false → w.since + 180000000 ≤ s.age → exec .stewardLivenessRequest s =
      .next { s with stewards := s.stewards.setIfInBounds d { w with since := s.age, asked := silent, silent := silent } }) ∧
    (w.asked = true ∨ s.age < w.since + 180000000 → exec .stewardLivenessRequest s =
      .next { s with stewards := s.stewards.setIfInBounds d { w with silent := silent } }) ∧
    (s.stewardUp d = true → w.asked = true → w.since + 1800000000 ≤ s.age → ∃ t e, exec .stewardFailure s = .next t ∧
      t.stewards[d]? = some { w with failed := true } ∧ t.errq = s.errq ++ [e] ∧ e.die = 0 ∧ e.kind = 0x06 ∧
      e.body = Bits.natLe 8 (d % 4) ++ Bits.natLe 8 (s.age / 18000) ∧ t.evstat = s.evstat ||| 1 ∧ SameMemory s t) ∧
    exec .stewardAnswersAgain s = .next { s with stewards := s.stewards.setIfInBounds d ⟨s.age, false, false, false⟩ }

/-- What stewards and launch units do to pages, errors and clusters. On these points it follows choices of the model: logs 80, 98, 100,
106, 110, 133. That 2 ms are 2,000 microseconds of the throttle state at the test (log 110) is the model's choice. -/
def Obligations.PagesAndErrors : Prop := Claims.pagesMove ∧ Claims.errorsAndStewards

/-- R28, R398 to R404: links. A flit in sequence is delivered, another asks for a replay; a replay resends from the number asked and is
counted, and an eighth that failed trains the link anew; credits take the count returned; a link trains on 8, 4, 2 or 1 ports or goes
down, and what has not been acknowledged is sent again; a message goes into a flit of its lane when the lane has a slot, whose header
gives back what it was made of; a frame whose tag verifies is delivered, and the third failure of the frame that is next takes the link
down with a security event; a key is loaded into the slot that neither side uses, used from 2^47 frames on after the marker, which needs a
slot of VL3, the former is retired 4,096 flits after it, and the end of the keys takes the link down. On these points it follows choices
of the model: logs 42, 89, 92, 93, 135, 136. -/
def Obligations.LinksAndKeys : Prop :=
  (∀ (s : State) (l : Link), s.links = [l] → s.input.link = l.ref → s.input.messages = [] → l.outbox = [] → l.again = [] → l.wire = [] →
    let keeps (i : Instr) (l' : Link) : Prop := exec i s = .next { s with links := [l'] }
    let lost (i : Instr) (l' : Link) : Prop := ∃ t, exec i s = .next t ∧ t.links = [{ l' with up := false }] ∧ t.evstat = s.evstat ||| 8 ∧
      SameMemory s t ∧ SameRegs s t
    let key (which : Bool) := if which then l.slot1 else l.slot0
    let setKey (m : Link) (which : Bool) (k : KeySlot) : Link := if which then { m with slot1 := k } else { m with slot0 := k }
    let used := key l.useSlot
    let counted : Link := setKey l l.useSlot { used with counter := min (used.counter + s.input.n) (2 ^ 48 - 1) }
    let ready := (key (!l.useSlot)).key.isSome = true ∧ (key (!l.useSlot)).spent = false
    let slots := (List.range 4).map Config.linkSlots
    let fresh := l.credits.map fun _ => ((0, 0) : Nat × Nat)
    let bytes := s.input.bytes
    let lane := flitLaneOf bytes
    let inOrder := flitOk bytes = true ∧ (flitSeq (flitHead bytes)).toNat = l.rxSeq
    let got := readMessages ((l.inbox.lookup lane).getD [] ++ (bytes.drop 8).take 244).length ((l.inbox.lookup lane).getD [] ++ (bytes.drop 8).take 244)
    (l.up = true → l.encrypted = false →
      (inOrder → ∃ l', keeps .flitReceive l' ∧ l'.rxSeq = (l.rxSeq + 1) % 4096 ∧ l'.asked = none ∧
        l'.delivered = l.delivered ++ got.1.map (fun m => (lane, m)) ∧ l'.inbox.lookup lane = some got.2 ∧
        l'.freed = l.freed.modify lane fun n => (n + 1) % 2 ^ 32) ∧
      (¬ inOrder → keeps .flitReceive { l with asked := some l.rxSeq })) ∧
    (l.encrypted = false ∨ used.counter < 2 ^ 47 ∨ ¬ ready →
      keeps .creditReturn { l with credits := l.credits.modify s.input.m fun c => (s.input.n % 2 ^ 32, c.2)
                                   acked := if s.input.flag then s.input.uid % 4096 else l.acked } ∧
      (let q := s.input.n % 4096
       let fails := if l.failSeq = some q ∧ l.acked = q then l.fails + 1 else 0
       let d := localDie l.ref.die.toNat
       ∃ t l', exec .replayRequest s = .next t ∧ t.links = [l'] ∧ SameMemory s t ∧
         (t.errCounts d 7).1 = min ((s.errCounts d 7).1 + 1) (2 ^ 32 - 1) ∧
         (fails < 8 → l' = { l with failSeq := some q, fails := fails, acked := q, wire := l.replay.dropWhile fun x => !x.holds q }) ∧
         (8 ≤ fails → l' = { l with
           failSeq := none, fails := 0, acked := q, credits := fresh, freed := slots, again := l.replay.dropWhile fun x => !x.holds q })) ∧
      (let ports := if 8 ≤ s.input.n then 8 else if 4 ≤ s.input.n then 4 else if 2 ≤ s.input.n then 2 else s.input.n
       let first := if s.input.flag then s.input.uid % 4096 else l.acked
       ∃ t, exec .linkStateChange s = .next t ∧ SameMemory s t ∧ t.links = [{ l with
         acked := first, credits := fresh, freed := slots, failSeq := none, fails := 0, again := l.replay.dropWhile fun x => !x.holds first
         ports := ports, up := s.input.n != 0 }]) ∧
      (∀ n, l.sinceMark = some n → if 4096 ≤ n
        then keeps .keyRetire { setKey l (!l.rxSlot) { key (!l.rxSlot) with retired := true } with sinceMark := none }
        else keeps .keyRetire l)) ∧
    (l.encrypted = true → used.counter < 2 ^ 47 →
      let other := key (!l.useSlot)
      let inUse := other.key.isSome = true ∧ other.retired = false ∧ ((!l.useSlot) = l.rxSlot ∨ ∃ n < 4096, l.sinceMark = some n)
      (¬ inUse → keeps .keyLoad { setKey l (!l.useSlot) ⟨some s.input.key, 0, 0, false, false⟩ with
        sinceMark := if l.useSlot = l.rxSlot then none else l.sinceMark }) ∧ (inUse → keeps .keyLoad l)) ∧
    (l.encrypted = true → used.counter + s.input.n < 2 ^ 47 → keeps .keySwitch counted) ∧
    (l.encrypted = true → used.counter < 2 ^ 47 → 2 ^ 47 ≤ used.counter + s.input.n → s.input.n < 2 ^ 47 → ready →
      (key (!l.useSlot)).counter = 0 →
      let c3 := l.credits.getD 3 (0, 0)
      (c3.1 % 2 ^ 32 = c3.2 % 2 ^ 32 → keeps .keySwitch (setKey l l.useSlot { used with counter := 2 ^ 47 })) ∧
      (c3.1 % 2 ^ 32 ≠ c3.2 % 2 ^ 32 → c3.2 < 2 ^ 32 → ∃ l' x, keeps .keySwitch l' ∧ l'.useSlot = !l.useSlot ∧ l'.wire = [x] ∧ x.flits.length = 1 ∧
        (x.flits.headD []).take 8 = Bits.wordLe (flitHeader (BitVec.ofNat 12 l.txSeq) 3 l.useSlot true))) ∧
    (l.encrypted = true → 2 ^ 47 ≤ used.counter + s.input.n → ¬ ready → l.warned = false → ∃ t, exec .keySwitch s = .next t ∧
      t.evstat = s.evstat ||| 8 ∧ t.links = [{ counted with warned := true }]) ∧
    (l.encrypted = true → 2 ^ 48 - 1 ≤ used.counter + s.input.n → ¬ ready → lost .keyExhaustion counted) ∧
    (l.encrypted = true → used.counter + s.input.n < 2 ^ 48 - 1 → ¬ ready → keeps .keyExhaustion counted)) ∧
  (∀ (s : State) (l : Link) (lane : Nat) (m : List Byte), s.links = [l] → s.input.link = l.ref → s.input.messages = [(lane, m)] → l.outbox = [] →
    l.again = [] → l.up = true → l.encrypted = false → l.sinceMark = none → lane < 4 → m.length ≤ 244 → l.credits.length = 4 →
    let c := l.credits.getD lane (0, 0)
    ∃ l', exec .keyRetire s = .next { s with links := [l'] } ∧
      (c.1 % 2 ^ 32 = c.2 % 2 ^ 32 → l'.wire = [] ∧ l'.outbox = [(lane, m)] ∧ l'.txSeq = l.txSeq) ∧
      (c.1 % 2 ^ 32 ≠ c.2 % 2 ^ 32 → c.2 < 2 ^ 32 → l'.outbox = [] ∧ l'.txSeq = (l.txSeq + 1) % 4096 ∧
        l'.credits.getD lane (0, 0) = (c.1, (c.2 + 1) % 2 ^ 32) ∧
        l'.wire = [⟨l.txSeq, [flitBytes (flitHeader (BitVec.ofNat 12 l.txSeq) (BitVec.ofNat 2 lane) l.useSlot false) m], none⟩])) ∧
  (∀ (s : State) (l : Link), s.links = [l] → s.input.link = l.ref → s.input.messages = [] → l.outbox = [] → l.again = [] → l.wire = [] →
    l.up = true → l.encrypted = true → l.switchDue = false →
    let fs := s.input.flits
    let which := flitSlot (flitHead (fs.headD []))
    let k := if which then l.slot1 else l.slot0
    let iv := BitVec.ofNat 96 (k.rx * 2 ^ 48 + s.farDie l.ref * 2 ^ 40 + l.ref.die.toNat * 2 ^ 32 + otherCode l.ref.dir.toNat * 2 ^ 24)
    let good (key : BitVec 256) : Prop := k.key = some key ∧ k.retired = false ∧ (which = l.rxSlot ∨ ∃ n < 4096, l.sinceMark = some n) ∧
      1 ≤ fs.length ∧ fs.length ≤ 16 ∧ s.input.word2 ++ s.input.word = frameTag key iv fs
    (∀ key, good key → exec .frameReceive s = .next { s with links := [(frameCrypt key iv fs).foldl Link.take
      (if which then { l with frameFails := 0, slot1 := { k with rx := k.rx + 1 } } else { l with frameFails := 0, slot0 := { k with rx := k.rx + 1 } })] }) ∧
    let next := (flitSeq (flitHead (fs.headD []))).toNat = l.rxSeq
    ((∀ key, ¬ good key) → ¬ next → exec .frameReceive s = .next { s with links := [{ l with asked := some l.rxSeq }] }) ∧
    ((∀ key, ¬ good key) → next → l.frameFails < 2 → exec .frameReceive s =
      .next { s with links := [{ l with frameFails := l.frameFails + 1, asked := some l.rxSeq }] }) ∧
    ((∀ key, ¬ good key) → next → 2 ≤ l.frameFails → ∃ t, exec .frameReceive s = .next t ∧ t.evstat = s.evstat ||| 8 ∧ SameMemory s t ∧
      t.links = [{ l with frameFails := 0, up := false }])) ∧
  (∀ (seq : BitVec 12) (lane : BitVec 2) (slot marker : Bool),
    let h := flitHeader seq lane slot marker
    flitSeq h = seq ∧ flitLane h = lane ∧ flitSlot h = slot ∧ flitMarker h = marker) ∧
  ∀ (s : State),
    (s.reqs = [] → s.resps = [] → s.ticketMsgs = [] → (s.input.die, s.input.n) ∈ s.draining → exec .routeSwitch s =
      .next { s with draining := s.draining.filter fun q => q != (s.input.die, s.input.n) }) ∧
    ((∃ r ∈ s.reqs, r.src = s.input.die ∧ r.target = some s.input.n ∧ ∃ t, r.state = .sent t) → exec .routeSwitch s = .next s) ∧
    ((s.input.die, s.input.n) ∉ s.draining → exec .routeSwitch s = .next s)

/-- R436, R439: HOST_EVENT writes a page and queues its event, once per page, and with that what the host has written is released to a
grid that the page's command launches; the first event in line is taken when no command is under way: its page is copied, a page without
OWN on either read answers nothing, a code that is not one of the seven answers STATUS 4, another sequence number seen on the second read
STATUS 3 with that number. In recovery FWSTAGE is served past the events that are not. -/
def Claims.hostEvent : Prop :=
  (∀ (s : State) (x : Nat × List Byte), s.mailbox = some x → s.input.m = 0 → s.input.n < 8 → Canonical s → s.poison = [] →
    s.input.bytes.length ≤ 4096 → let pending := s.input.n ∈ s.hevts ∨ x.1 = s.input.n
    ∃ t, exec .hostEvent s = .next t ∧ t.mem = Mem.write s.mem (mailPage s.input.n 0) s.input.bytes ∧
      t.hevts = (if pending then s.hevts else s.hevts ++ [s.input.n]) ∧ t.mailbox = s.mailbox ∧ t.evstat = s.evstat ∧ SameRegs s t ∧
      (pending → t.released = s.released) ∧
      (¬ pending → ∃ seat acts, t.released = ⟨.mail s.input.n, 0, .host, seat, 4, acts⟩ :: s.released ∧
        ∀ w ∈ t.history, w.agent = .host → w.runs ≠ [] → (4, w.whole) ∈ acts)) ∧
  (∀ (s : State) (x : Nat × List Byte), s.mailbox = some x → s.input.m = 2 → s.poison = [] →
    ∃ t, exec .hostEvent s = .next t ∧ t.mem = Mem.write s.mem (hostKey s.input.word.toNat) s.input.bytes ∧ t.hevts = s.hevts ∧
      t.released = s.released ∧ SameRegs s t) ∧
  (∀ (s : State) (a b : Nat), s.hevts = [a, b] → b < 8 → s.mailbox = none → s.input.m = 1 → s.input.flag = false → s.stewardUp 0 = false →
    s.bootst.getLsbD 2 = true → Mem.readNat s.mem (mailPage a 8) 2 ≠ 7 → Mem.readNat s.mem (mailPage b 8) 2 = 7 →
    let copy := Mem.read s.mem (mailPage b 0) 4096
    (pageWord copy 0).getLsbD 0 = true → exec .hostEvent s = .next { s with hevts := [a], mailbox := some (b, copy) }) ∧
  ∀ (s : State) (n : Nat), n < 8 → s.hevts = [n] → s.mailbox = none → s.input.m = 1 → Canonical s →
    let copy := Mem.read s.mem (mailPage n 0) 4096
    let cmd := ((pageWord copy 1).extractLsb' 0 16).toNat
    let seq (w : Word) : Nat := (w.extractLsb' 32 32).toNat
    (s.mailServed cmd = false → exec .hostEvent s = .next s) ∧
    (s.mailServed cmd = true → s.input.flag = false →
      ((pageWord copy 0).getLsbD 0 = false → exec .hostEvent s = .next { s with hevts := [] }) ∧
      ((pageWord copy 0).getLsbD 0 = true → 1 ≤ cmd → cmd ≤ 7 →
        exec .hostEvent s = .next { s with hevts := [], mailbox := some (n, copy) }) ∧
      ((pageWord copy 0).getLsbD 0 = true → cmd = 0 ∨ 8 ≤ cmd →
        ∃ t, exec .hostEvent s = .next t ∧ t.hevts = [] ∧ Answered s t n copy 4 [])) ∧
    (s.mailServed cmd = true → s.input.flag = true → (pageWord copy 0).getLsbD 0 = true →
      (seq s.input.word2 ≠ seq (pageWord copy 0) →
        ∃ t, exec .hostEvent s = .next t ∧ t.hevts = [] ∧ t.mailbox = none ∧ t.evstat = s.evstat ||| BitVec.ofNat 64 (2 ^ (8 + n)) ∧
          Mem.readNat t.mem (mailPage n 0) 8 = seq s.input.word2 * 2 ^ 32 + 3 * 2 ^ 8) ∧
      (seq s.input.word2 = seq (pageWord copy 0) → ∃ t, exec .hostEvent s = .next t ∧ t.hevts = [] ∧ t.evstat = s.evstat ∧
        (s.input.word2.getLsbD 0 = false → t.mailbox = none) ∧
        (s.input.word2.getLsbD 0 = true → 1 ≤ cmd → cmd ≤ 7 → t.mailbox = some (n, copy))))

/-- R437, R439: the mailbox LAUNCH reads its record at a physical address and answers as LAUNCH does, and the grid it names has before it
what the host released with the page; MAPHOST and UNMAP refuse a range that is not of whole pages; MAPHOST refuses pages that are mapped,
and answers STATUS 2 when the host range is full; it maps writable resident pages to the host's bytes. UNMAP waits for accesses in flight
and takes the range away, and nothing else. -/
def Claims.mailboxMappings : Prop :=
  ∀ (s : State) (n : Nat) (copy : List Byte),
    let w (i : Nat) : Nat := (pageWord copy i).toNat
    let range (bytes : Nat) : Prop := w 2 < 256 ∧ w 3 % 4096 = 0 ∧ bytes % 4096 = 0 ∧ bytes ≠ 0 ∧ w 3 + bytes ≤ 2 ^ 48
    let inside (bytes : Nat) (r : PageRef) : Prop := r.pkg = 0 ∧ r.asn.toNat = w 2 ∧ w 3 ≤ r.page * 4096 ∧ r.page * 4096 < w 3 + bytes
    let room : Prop := 0x850000000 + s.hostmaps.length + w 5 / 4096 ≤ 0x1000000000
    let mapped : Prop := ∃ r, inside (w 5) r ∧ s.findPage r ≠ none
    let whole : Prop := range (w 5) ∧ w 4 % 4096 = 0 ∧ w 4 + w 5 ≤ 2 ^ 64
    (Serves s 1 n copy →
      (4 ≤ w 3 → ∃ t, exec .mailboxLaunch s = .next t ∧ Answered s t n copy 1 [] ∧ t.grids = s.grids) ∧
      (w 3 < 4 → w 2 % 64 ≠ 0 → ∃ t, exec .mailboxLaunch s = .next t ∧ Answered s t n copy 0 [(8, 2 ^ 63 + 1)] ∧ t.grids = s.grids) ∧
      (∀ v u, w 3 < 4 → s.launchFrom true (w 3) (w 2) (s.stewardUp (w 3)) = some (v, u) → u.mem = s.mem → u.evstat = s.evstat →
        u.mailbox = s.mailbox → ∃ t, exec .mailboxLaunch s = .next t ∧ Answered s t n copy 0 [(8, v.toNat)] ∧ t.grids = u.grids ∧
          t.teams = u.teams ∧ (v.getLsbD 63 = false → ∀ r ∈ u.released, r.gate = .mail n → { r with gate := .grid v.toNat } ∈ t.released))) ∧
    (Serves s 2 n copy →
      (¬ whole ∨ mapped → ∃ t, exec .maphost s = .next t ∧ Answered s t n copy 1 [] ∧ t.pages = s.pages) ∧
      (whole → ¬ mapped → ¬ room → ∃ t, exec .maphost s = .next t ∧ Answered s t n copy 2 [] ∧ t.pages = s.pages) ∧
      (whole → ¬ mapped → room →
        ∃ t, exec .maphost s = .next t ∧ Answered s t n copy 0 [] ∧ ∀ j < w 5 / 4096, ∃ p,
          t.findPage ⟨0, BitVec.ofNat 8 (w 2), w 3 / 4096 + j⟩ = some p ∧ p.state = .resident ∧ p.writable = true ∧
          t.hostmaps.lookup (w 4 / 4096 + j) = some p.frame ∧
          (s.hostmaps = [] → s.reuse = [] → t.frameKey 0 p.frame = hostKey (w 4 + 4096 * j)))) ∧
    (Serves s 3 n copy →
      (¬ range (w 4) → ∃ t, exec .unmap s = .next t ∧ Answered s t n copy 1 [] ∧ t.pages = s.pages) ∧
      (range (w 4) → s.reqs = [] → s.cmds = [] → (s.pages.Pairwise fun p q => ∀ r, p.covers r = true → q.covers r = false) →
        ∃ t, exec .unmap s = .next t ∧ Answered s t n copy 0 [] ∧ ∀ r,
          let names (p : Page) : PageState × Nat × Bool × Bool × Option Nat := (p.state, p.frameOf r, p.writable, p.cow, p.probed)
          (inside (w 4) r → t.findPage r = none) ∧ (¬ inside (w 4) r → (t.findPage r).map names = (s.findPage r).map names)) ∧
      (∀ r ref, range (w 4) → r ∈ s.reqs → inside (w 4) ref → s.findPage ref ≠ none → s.onPage r ref = true → exec .unmap s = .next s) ∧
      (∀ c ref, range (w 4) → c ∈ s.cmds → c.started = true → c.asn.toNat = w 2 → inside (w 4) ref → s.findPage ref ≠ none →
        exec .unmap s = .next s))

/-- R20, R437, R438, R441, R443: ERRQ moves at most 15 entries of the dies named whose stewards answer, by die, the oldest of each first,
into the bulk area, and answers with the others named as a mask; KILL refuses a grid that is not live, ends the contexts of one that is
and destroys one that no team has entered; QPNEW makes a queue pair with a number not in use; FWSTAGE reads the image from host memory and
stores an accepted one on the stack not booted from, the minimum to be raised with bit 0. -/
def Claims.mailboxServices : Prop :=
  ∀ (s : State) (n : Nat) (copy : List Byte),
    let w (i : Nat) : Nat := (pageWord copy i).toNat
    (Serves s 4 n copy →
      let named (d : Nat) : Bool := (w 2).testBit d
      let ours := (List.range 4).flatMap fun d => if named d && s.stewardUp d then s.errq.filter fun e => e.die = d else []
      let skip (d : Nat) : Nat := if named d && !s.stewardUp d then 2 ^ d else 0
      ∃ t, exec .errq s = .next t ∧ Answered s t n copy 0 [(8, min 15 ours.length), (9, skip 0 + skip 1 + skip 2 + skip 3)] ∧
        t.errq = s.errq.filter (fun e => !(ours.take 15).contains e) ∧
        ∀ i e, (ours.take 15)[i]? = some e → e.body.length ≤ 240 →
          Mem.read t.mem (mailPage n (0x100 + 256 * i)) 256 = e.body ++ List.replicate (240 - e.body.length) 0 ++
            Bits.natLe 8 (e.kind.toNat + e.die * 2 ^ 8 + e.seq % 2 ^ 32 * 2 ^ 32) ++ Bits.wordLe e.ctxid) ∧
    (Serves s 4 n copy → w 2 % 16 = 0 → ∃ t, exec .errq s = .next t ∧ Answered s t n copy 0 [(8, 0), (9, 0)] ∧ t.errq = s.errq) ∧
    (Serves s 4 n copy → ∃ t, exec .errq s = .next t ∧ Mem.readNat t.mem (mailPage n 64) 8 ≤ 15) ∧
    (∀ g ∈ s.grids, Serves s 5 n copy → g.id = w 2 → s.ctx.grid = g.id → s.ctx.run = .running →
      ∃ t, exec .kill s = .next t ∧ Answered s t n copy 0 [] ∧ t.ctx.run = .halting ∧ SameRegs s t) ∧
    (Serves s 5 n copy → (∀ g ∈ s.grids, g.id ≠ w 2) → ∃ t, exec .kill s = .next t ∧ Answered s t n copy 1 [] ∧ t.grids = s.grids ∧
      t.ctx = s.ctx ∧ t.others = s.others) ∧
    (∀ g, Serves s 5 n copy → s.grids = [g] → g.id = w 2 → g.deps = [] → (∀ c ∈ s.allCtx, c.run ≠ .empty → c.grid ≠ g.id) →
      ∃ t, exec .kill s = .next t ∧ Answered s t n copy 0 [] ∧ t.grids = [] ∧ ∀ x ∈ t.teams, x.grid ≠ g.id) ∧
    (Serves s 6 n copy →
      (256 ≤ w 2 ∨ 8 ≤ w 3 → ∃ t, exec .qpnew s = .next t ∧ Answered s t n copy 1 [] ∧ t.qps = s.qps) ∧
      (w 2 < 256 → w 3 < 8 → 16384 ≤ s.qps.length → ∃ t, exec .qpnew s = .next t ∧ Answered s t n copy 2 [] ∧ t.qps = s.qps) ∧
      (w 2 < 256 → w 3 < 8 → s.qps.length < 16384 → ∃ t q, exec .qpnew s = .next t ∧ t.qps = s.qps ++ [q] ∧ q.num < 16384 ∧
        (∀ x ∈ s.qps, x.num ≠ q.num) ∧ Answered s t n copy 0 [(8, q.num)] ∧ q.asn.toNat = w 2 ∧ q.mac.toNat = w 3 ∧
        q.peer.toNat = w 4 ∧ q.post.toNat = w 5 ∧ q.comp.toNat = w 6 ∧ q.served = 0 ∧ q.stopped = false)) ∧
    (Serves s 7 n copy →
      let im := Mem.read s.mem (hostKey (w 2)) (w 3)
      let ok := w 2 + w 3 ≤ 2 ^ 64 ∧ s.imageOk im = true ∧ w 4 < 2
      (¬ ok → ∃ t, exec .fwstage s = .next t ∧ Answered s t n copy 1 [] ∧ t.boot = s.boot) ∧
      (ok → Config.bootBytes < w 3 → ∃ t, exec .fwstage s = .next t ∧ Answered s t n copy 2 [] ∧ t.boot = s.boot) ∧
      (ok → w 3 ≤ Config.bootBytes → ∃ t, exec .fwstage s = .next t ∧ Answered s t n copy 0 [] ∧ t.boot.fused = s.boot.fused ∧
        t.boot.active = !s.bootst.getLsbD 1 ∧ (w 4 = 1 → t.boot.raise = some (!s.bootst.getLsbD 1)) ∧
        (w 4 = 0 → t.boot.raise ≠ some (!s.bootst.getLsbD 1)) ∧
        (if s.bootst.getLsbD 1 then t.boot.stagedA = some im ∧ t.boot.stagedB = s.boot.stagedB
         else t.boot.stagedB = some im ∧ t.boot.stagedA = s.boot.stagedA)))

/-- The mailbox: what the host asks, and what it is answered. On these points it follows choices of the model: logs 73, 81, 82, 83, 84,
85, 86, 88, 101. -/
def Obligations.Mailbox : Prop := Claims.hostEvent ∧ Claims.mailboxMappings ∧ Claims.mailboxServices

/-- R435, R448, R440, R339, R335: the host clears EVSTAT bits with ones and writes EVEN; reading a half of an error counter clears that
half; a store to a core's wake word wakes its context, and a control register of a core is written with its own meaning, both only while a
context is there; a context's own requests reach the same registers, with the bytes that they name. -/
def Claims.packageRegisters : Prop :=
  (∀ (s : State), s.input.flag = false →
    exec .evstatWrite s = .next { s with evstat := s.evstat &&& ~~~ s.input.word } ∧
    (let v := s.input.word &&& 0xFF1F
     exec .evenWrite s = .next { s with
       even := v, msix := if s.evstat &&& s.even = 0 ∧ s.evstat &&& v ≠ 0 then s.msix + 1 else s.msix }) ∧
    (∃ t, exec .errorCounterRead s = .next t ∧ SameMemory s t ∧ SameRegs s t ∧ t.evstat = s.evstat ∧
      ∀ d < 4, ∀ k < 8, t.errCounts d k = if d = s.input.die % 4 ∧ k = s.input.m % 8 then (0, 0) else s.errCounts d k) ∧
    (s.resident (s.input.m % 512) = some s.ctx →
      exec .wakeWordStore s = .next { s with ctx := { s.ctx with wfeLatch := s.ctx.wfeLatch ||| 4 } }) ∧
    (s.resident (s.input.m % 512) = none → exec .wakeWordStore s = .next s) ∧
    (s.input.m < 1024 → s.resident (s.input.die % 512) = none → exec .controlRegisterAccess s = .next s) ∧
    (s.resident (s.input.die % 512) = some s.ctx → ∀ t,
      let now (n : Nat) : State := { s with ctx := { s.ctx with crNow := n :: s.ctx.crNow } }
      let is (n : Nat) (i : Instr) : Prop := s.input.m = n → exec i (now n) = .next t → exec .controlRegisterAccess s = .next t
      is 0x008 (.fpstWrite s.input.word) ∧ is 0x009 (.rseedWrite 0 s.input.word) ∧ is 0x023 (.preqWrite s.input.word) ∧
      is 0x012 (.uistatWrite s.input.word) ∧ is 0x01A (.controlRegisterWrite 0x01A s.input.word) ∧
      (s.input.m = 0x000 → exec .controlRegisterAccess s = .next s))) ∧
  ∀ (s : State) (r : Req) (off at' : Nat), s.input.flag = true → s.input.n = r.id → s.reqs = [r] → s.others = [] → r.state = .sent at' →
    at' ≤ s.clock → s.ctx.releases = [] → (∀ x ∈ s.ctx.pipe.slots, x.flights = [] ∧ x.wait = none ∧ r.idx < x.pos) →
    r.place = .control off → r.ratom = false → r.ticket = none →
    (∀ d < 4, ∀ k < 8, (s.errCounts d k).1 < 2 ^ 32 → (s.errCounts d k).2 < 2 ^ 32 →
      let reads (at'' n v : Nat) (left : Nat × Nat) : Prop := off = 0x100 + 64 * d + 8 * k + at'' → r.act = .read n →
        ∃ t q, exec .errorCounterRead s = .next t ∧ t.reqs = [] ∧ t.resps = s.resps ++ [q] ∧ Bits.leNat q.bytes = v ∧ t.errCounts d k = left
      reads 0 8 ((s.errCounts d k).2 * 2 ^ 32 + (s.errCounts d k).1) (0, 0) ∧ reads 0 4 (s.errCounts d k).1 (0, (s.errCounts d k).2) ∧
      reads 4 4 (s.errCounts d k).2 ((s.errCounts d k).1, 0)) ∧
    (∀ v : Word, off = 0 → r.act = .write (Bits.wordLe v) → exec .evstatWrite s =
      .next { s with reqs := [], evstat := s.evstat &&& ~~~ v }) ∧
    (∀ b : Byte, off = 8 → r.act = .write [b] → ∃ t, exec .evenWrite s = .next t ∧ t.reqs = [] ∧
      t.even = (s.even &&& 0xFF00) ||| (b.setWidth 64 &&& 0x1F)) ∧
    (∀ core < 512, ∀ bs, off / 2 ^ 48 = 0x20 → off % 4096 < 8 * core + 8 → 8 * core < off % 4096 + bs.length → r.act = .write bs →
      s.resident core = some s.ctx → exec .wakeWordStore s = .next { s with reqs := [], ctx := { s.ctx with wfeLatch := s.ctx.wfeLatch ||| 4 } }) ∧
    (∀ core < 512, ∀ n < 1024, off = 0x30 * 2 ^ 48 + core * 2 ^ 13 + 8 * n → r.act = .read 8 → s.resident core = some s.ctx →
      ∃ q, exec .controlRegisterAccess s = .next { s with reqs := [], resps := s.resps ++ [q] } ∧ q.bytes = Bits.wordLe (s.crValue n))

/-- R441, R442: a queue pair serves its next entry once the post object covers it, and acquires what was released up to the number read;
an entry with a reserved field stops it with CAUSE 4, a remote access error with CAUSE 2, exhausted retries with CAUSE 3; an entry served
adds 1 to the completion object, as a release at DOMAIN scope of its own accesses and of what it has acquired. A peer's write of at most
an MTU puts its bytes at a device-virtual address, at no other; a pair that has stopped does nothing more. -/
def Claims.queuePairs : Prop :=
  ∀ (s : State) (q : QueuePair), s.qps = [q] → s.input.uid = q.num → s.poison = [] → s.views = [] → Canonical s →
    let object (p : Word) (n : Nat) (write : Bool) (k : Nat) : Prop :=
      ∃ pl, q.place p = some pl ∧ s.answer pl n write = .served [(k, n)]
    let buffer (a : Word) (n : Nat) (write : Bool) (k : Nat) : Prop :=
      a.toNat < 2 ^ 48 ∧ s.answer (.virt q.asn a.toNat) n write = .served [(k, n)]
    let failed (i : Instr) (cause : Nat) : Prop := ∃ t e, exec i s = .next t ∧ t.qps = [{ q with stopped := true }] ∧
      t.errq = s.errq ++ [e] ∧ e.die = 0 ∧ e.kind = 0x05 ∧
      e.body = Bits.natLe 8 q.num ++ Bits.natLe 8 (q.served + 1) ++ Bits.natLe 8 cause ∧ SameMemory s t
    (q.stopped = true → exec .qpEntryService s = .next s ∧ exec .rocePacketArrival s = .next s ∧
      exec .qpTransportRetriesExhausted s = .next s) ∧
    (q.stopped = false → failed .qpTransportRetriesExhausted 3) ∧
    (∀ a bs k, q.stopped = false → s.input.packet = .write a bs → bs ≠ [] → bs.length ≤ 4096 → buffer a bs.length true k →
      ∃ t, exec .rocePacketArrival s = .next t ∧ t.qps = [q] ∧ (∀ j < bs.length, Mem.byte t.mem (k + j) = bs.getD j 0) ∧
        ∀ x, x < k ∨ k + bs.length ≤ x → Mem.byte t.mem x = Mem.byte s.mem x) ∧
    (∀ a bs, s.input.packet = .write a bs → 2 ^ 48 ≤ a.toNat → exec .rocePacketArrival s = .next s) ∧
    (∀ a b, s.input.packet = .read a b → exec .rocePacketArrival s = .next s) ∧
    ∀ kp ke kc, q.stopped = false → object q.post 8 false kp → object s.input.word 64 false ke →
      spaceOf s.input.word = .hamper → object q.comp 8 true kc →
      let e := Mem.read s.mem ke 64
      let op := ((pageWord e 0).extractLsb' 0 8).toNat
      let len := ((pageWord e 0).extractLsb' 32 32).toNat
      let bad := 2 < op ∨ (pageWord e 0).extractLsb' 8 24 ≠ 0 ∨ ∃ b ∈ e.drop 32, b ≠ 0
      (Mem.readNat s.mem kp 8 ≤ q.served → ∃ t, exec .qpEntryService s = .next t ∧ t.qps = [q] ∧ t.errq = s.errq ∧ SameMemory s t) ∧
      (q.served < Mem.readNat s.mem kp 8 → bad → failed .qpEntryService 4) ∧
      (q.served < Mem.readNat s.mem kp 8 → ¬ bad → s.input.flag = true → failed .qpEntryService 2) ∧
      (∀ kb, q.served < Mem.readNat s.mem kp 8 → ¬ bad → s.input.flag = false → len = 0 ∨ buffer (pageWord e 1) len (op = 2) kb →
        kb + len ≤ kc ∨ kc + 8 ≤ kb → ∃ t, exec .qpEntryService s = .next t ∧ t.qps = [{ q with served := q.served + 1 }] ∧
          Mem.readNat t.mem kc 8 = (Mem.readNat s.mem kc 8 + 1) % 2 ^ 64 ∧
          (∀ r ∈ s.released, r.gate = .object kp → r.number ≤ Mem.readNat s.mem kp 8 → ∀ a ∈ r.acts,
            (∃ x ∈ s.history, x.num = a.2.num ∧ x.runs ≠ []) → r.seat.shares ⟨none, none⟩ a.1 = true →
            { a.2 with issue := 0 } ∈ t.knownTo (.mac q.num)) ∧
          (∃ seat acts, t.released = ⟨.object kc, Mem.readNat s.mem kc 8 + 1, .mac q.num, seat, 4, acts⟩ :: s.released ∧
            (∀ x ∈ t.history, x.agent = .mac q.num → (4, x.whole) ∈ acts) ∧
            ∀ v ∈ t.knownTo (.mac q.num), (t.past v.num).isSome = true → (4, v) ∈ acts) ∧
          (op = 2 → ∀ j < len, Mem.byte t.mem (kb + j) = s.input.bytes.getD j 0) ∧
          ∀ x, (x < kc ∨ kc + 8 ≤ x) → (op = 2 → x < kb ∨ kb + len ≤ x) → Mem.byte t.mem x = Mem.byte s.mem x)

/-- R443, R444, R29: reset leaves the machine as State.reset has it but for flash, pools, host and other packages' memory; the active
image is tried first, then the other; with neither the package is in recovery. A fabric whose shape is not 1, 2 or 4 packages each way is
the fabric-shape error, and the package stands alone. -/
def Claims.boot : Prop :=
  ∀ (s : State),
    let b := s.boot
    let i := s.input.boot
    let image (c : Bool) : List Byte := if c then b.stagedB.getD i.imageB else b.stagedA.getD i.imageA
    let fresh (t : State) : Prop := t.ctx = State.reset.ctx ∧ t.clock = 0 ∧ t.grids = [] ∧ t.reqs = [] ∧ t.evstat = 0 ∧ t.even = 0 ∧
      ∀ k, Mem.byte t.mem k = if keepsReset k then Mem.byte s.mem k else 0
    (s.imageOk (image b.active) = false → s.imageOk (image !b.active) = false →
      ∃ t, exec .resetBoot s = .next t ∧ fresh t ∧ t.bootst = 4 ∧ t.boot = { b with booted := [] }) ∧
    ∀ c, s.imageOk (image c) = true → (c = b.active ∨ s.imageOk (image b.active) = false) →
      ∃ t, exec .resetBoot s = .next t ∧ fresh t ∧ t.bootst.extractLsb' 32 32 = Config.imageVersion (image c) ∧
        t.bootst.extractLsb' 0 32 = (if c then 3 else 1) ∧ t.boot.active = c ∧ t.boot.booted = image c ∧
        (let (x, y, z) := i.dims
         if x ∈ [1, 2, 4] ∧ y ∈ [1, 2, 4] ∧ z ∈ [1, 2, 4] ∧ i.coords.1 < x ∧ i.coords.2.1 < y ∧ i.coords.2.2 < z then
           t.shapeError = false ∧ t.dims = i.dims ∧ t.coords = i.coords
         else t.shapeError = true ∧ t.dims = (1, 1, 1)) ∧
        t.boot.fused = (if b.raise = some c then Config.imageVersion (image c) else b.fused) ∧
        (b.raise = some c → t.boot.raise = none)

/-- R445: the seven SPDM requests are answered; the two signed ones carry both signatures over request and response. GET_MEASUREMENTS
answers with the index asked for: the ROM, the two parts of the image booted, the fused minimum, RESMAP. -/
def Claims.attestation : Prop :=
  ∀ (s : State),
    let answers (i : Instr) (bs : List Byte) : Prop := exec i s = .next { s with spdm := bs }
    let signed (bs : List Byte) : List Byte := bs ++ Config.ecdsaSign (s.input.bytes ++ bs) ++ Config.lmsSign (s.input.bytes ++ bs)
    answers .getVersion [0x00, 0x13] ∧ answers .getCapabilities Config.capabilities ∧
    answers .negotiateAlgorithms [0x80, 0, 0, 0, 2, 0, 0, 0] ∧ answers .getDigests Config.certDigests ∧
    answers .getCertificate Config.certChain ∧ answers .challenge (signed Config.certDigests) ∧
    let m : List (List Byte) := [Config.measure Config.rom, Config.measure (Config.securityPart s.boot.booted),
      Config.measure (Config.stewardPart s.boot.booted), Config.measure (Bits.natLe 4 s.boot.fused.toNat), Bits.wordLe s.resmap]
    (s.input.n = 0 → answers .getMeasurements (signed [5])) ∧ (s.input.n = 255 → answers .getMeasurements (signed m.flatten)) ∧
    ∀ k < 5, s.input.n = k + 1 → answers .getMeasurements (signed (m.getD k []))

/-- The package's own registers and services. On these points it follows choices of the model: logs 1, 81, 82, 86, 87, 88, 94, 95, 96, 97,
148. The answers to GET_MEASUREMENTS for the indices 0, 4 and 255 and a stopped pair that ignores packets (log 148), and the zero bytes
that boot leaves (log 1), are the model's choice. -/
def Obligations.PackageServices : Prop := Claims.packageRegisters ∧ Claims.queuePairs ∧ Claims.boot ∧ Claims.attestation

/-- R419, R422, R423, R424, R438: a waiting grid whose dependences are met becomes eligible; one with a dependence on the grid of a
context that an error stops is destroyed, with a launch error of cause 8; a team is placed on the lowest cluster of its die with room, on
its lowest free cores, its contexts with the registers of R419, unless one that is taken before it can be placed, or cores promised to it
are held or withheld; at a quantum's end a resident team of no higher priority is asked to leave for a waiting one, which is promised the
cores. That the quantum is due at 2,000 microseconds of the throttle state at the test is the model's choice (log 110), and so is the
order of two waiting teams and of two that could leave (log 79). On these points it follows choices of the model: logs 52, 53, 74, 79,
110. -/
def Obligations.GridsAndQuanta : Prop :=
  (∀ (s : State) (g : Grid), s.grids = [g] → g.eligible = false →
    ((∀ d ∈ g.deps, s.depState d.2.1 d.2.2.1 d.2.2.2 = .met) → ∃ t, exec (.gridEligible g.id) s = .next t ∧
      t.grids = [{ g with eligible := true }] ∧ t.teams = s.teams.map (fun x => if x.grid = g.id then { x with since := s.clock } else x) ∧
      SameMemory s t ∧ SameRegs s t) ∧
    ((∃ d ∈ g.deps, s.depState d.2.1 d.2.2.1 d.2.2.2 ≠ .met) → exec (.gridEligible g.id) s = .next s)) ∧
  (∀ (s : State) (r : Raised) (g x : Grid) (d : Nat × Nat × Nat × Nat), s.ctx.run = .running → s.ctx.raised = [r] → r.late = true →
    0x21 ≤ r.cls.toNat → s.grids = [g, x] → g.id = s.ctx.grid → g.eligible = true → x.id ≠ g.id → x.eligible = false → x.deps = [d] →
    d.2.1 = g.id → (∀ m ∈ s.teams, m.leaving = false) → (∃ c ∈ s.others, c.grid = g.id ∧ c.team = s.ctx.team ∧ c.run = .running) →
    ∃ t a b, exec .contextErrorStop s = .next t ∧ t.grids.map Grid.id = [g.id] ∧ (∀ m ∈ t.teams, m.grid ≠ x.id) ∧ t.errq = s.errq ++ [a, b] ∧
      a.kind = 0x01 ∧ b.kind = 0x04 ∧ b.die = x.die ∧ b.ctxid = 0 ∧ b.body = Bits.natLe 8 8 ++ Bits.natLe 8 x.id ++ Bits.natLe 8 d.1) ∧
  (∀ (s : State) (die n : Nat) (xp : Bool) (freed taken : List Nat),
    let open' (k : Nat) : Bool := (s.coreFree k || freed.contains k) && !taken.contains k
    (∀ cores, s.fit die n xp freed taken = some cores ↔ PlacedLowest s open' die n xp cores) ∧
    (s.fit die n xp freed taken = none ↔ ∀ cl, ¬ HasRoom s open' die n xp cl)) ∧
  (∀ (s : State) (g : Grid) (m : Team), s.grids = [g] → s.teams = [m] → m.grid = g.id → g.eligible = true → m.resident = false →
    m.ended = false → m.swapped = false → s.input.flag = true → s.others = [] → s.ctx.uid ≤ s.fresh → s.promised = [] →
    let n := g.teamSize
    let w (i : Nat) : Word := g.record.getD i 0
    (s.fit m.die n g.xpocket [] [] = none → exec (.teamPlacement g.id m.num) s = .next s) ∧
    (∀ cores, s.fit m.die n g.xpocket [] [] = some cores → (w 5).extractLsb' 17 2 = 0 → ∃ t, exec (.teamPlacement g.id m.num) s = .next t ∧
      (∃ x, t.teams = [x] ∧ x.resident = true ∧ x.since = s.clock) ∧ t.ctx = s.ctx ∧ SameMemory s t ∧ t.others.length = cores.length ∧
      ∀ i k, cores[i]? = some k → ∃ c ∈ t.others, c.run = .running ∧ c.core = k ∧ c.member = i ∧ c.rank = m.num * n + i ∧
        c.pipe.pc = w 0 ∧ c.pipe.mpc = w 1 ∧ c.ctxid = BitVec.ofNat 64 (g.asn.toNat * 2 ^ 56 + g.id * 2 ^ 32 + m.num * 2 ^ 8 + i) ∧
        c.trapvec = w 3 &&& ~~~3 ∧ c.faultrec = w 4 &&& ~~~0xFF ∧ c.windows = g.image ∧ c.wtbase = w 2 &&& ~~~0x3FF ∧
        c.domc.extractLsb' 40 24 = BitVec.ofNat 24 n ∧ c.domc.extractLsb' 16 24 = BitVec.ofNat 24 i ∧
        (launchArgs g.record = [] → c.sreg = State.reset.ctx.sreg ∧ c.areg = State.reset.ctx.areg) ∧
        (∀ a, launchArgs g.record = [a] → 1 ≤ a → a < 0x40 → c.sval a = w 32))) ∧
  (∀ (s : State) (g : Grid) (a m : Team) (cores : List Nat), s.grids = [g] → s.teams = [a, m] → g.eligible = true →
    a.grid = g.id → m.grid = g.id → a.num ≠ m.num → a.die = m.die → a.resident = false → a.ended = false →
    (s.promised = [] → s.effective m < s.effective a ∨ (s.effective m = s.effective a ∧ a.since < m.since) →
      s.fit a.die g.teamSize g.xpocket [] [] = some cores → exec (.teamPlacement g.id m.num) s = .next s) ∧
    (s.promised = [(g.id, m.num, cores)] → (∃ k ∈ cores, s.coreFree k = false ∨ s.resmap.getLsbD (k / 16) = true) → exec (.teamPlacement g.id m.num) s = .next s)) ∧
  ∀ (s : State) (die : BitVec 2), s.promised = [] →
    let d := die.toNat
    let due := (s.quantum[d]?).getD 0 + 2000 * s.usCycles d ≤ s.clock
    let u := { s with quantum := s.quantum.setIfInBounds d s.clock }
    (¬ due → exec (.quantumExpiry die) s = .next s) ∧
    (due → (∀ x ∈ s.teams, x.resident = true) → exec (.quantumExpiry die) s = .next u) ∧
    (∀ g v m cores, due → s.grids = [g] → g.eligible = true → s.teams = [v, m] → m.grid = g.id → m.die = d → m.resident = false →
      m.ended = false → m.leaving = false → v.die = d → v.resident = true → v.ended = false → v.leaving = false →
      s.fit d g.teamSize g.xpocket [] [] = none → s.fit d g.teamSize g.xpocket (s.teamCores v) [] = some cores →
      exec (.quantumExpiry die) s = .next (if v.eff ≤ s.effective m then
        { u.swapOut v.grid v.num with promised := [(m.grid, m.num, cores)] } else u))
end

