-- ==== Sys2Proof/Laws/Mem.lean ====
section
/-! SUPPORT. The laws of the store of bytes: every operation keeps the canonical form; what is read after a write. -/

namespace Sys2Proof.Machine.Mem

/-- The canonical form: no entry is zero, and keys rise strictly. -/
theorem wf_iff (m : Mem) : wf m = true ↔ (∀ c ∈ m, c.2 ≠ 0) ∧ m.Pairwise fun a b => a.1 < b.1 := by
  induction m with
  | nil => simp [wf]
  | cons c m ih =>
    cases m with
    | nil => simp [wf]
    | cons d r =>
      simp only [wf, Bool.and_eq_true, bne_iff_ne, ne_eq, decide_eq_true_eq, ih, List.mem_cons, forall_eq_or_imp,
        List.pairwise_cons]
      constructor
      · rintro ⟨⟨hc, hcd⟩, ⟨hd, hr⟩, hdr, hp⟩
        exact ⟨⟨hc, hd, hr⟩, ⟨hcd, fun x hx => hcd.trans (hdr x hx)⟩, hdr, hp⟩
      · rintro ⟨⟨hc, hd, hr⟩, ⟨hcd, _⟩, hdr, hp⟩
        exact ⟨⟨hc, hcd⟩, ⟨hd, hr⟩, hdr, hp⟩

theorem wf_nil : wf [] = true := rfl

theorem wf_filter {m : Mem} (h : wf m = true) (p : Host.Cell → Bool) : wf (m.filter p) = true := by
  rw [wf_iff] at *
  exact ⟨fun c hc => h.1 c (List.mem_filter.1 hc).1, h.2.filter p⟩

theorem mem_cells {k : Nat} {bs : List Byte} {c : Host.Cell} (h : c ∈ cells k bs) :
    k ≤ c.1 ∧ c.1 < k + bs.length ∧ c.2 ≠ 0 := by
  induction bs generalizing k with
  | nil => simp [cells] at h
  | cons b bs ih =>
    rw [cells] at h
    split at h
    · obtain ⟨h1, h2, h3⟩ := ih h
      exact ⟨by omega, by simp only [List.length_cons]; omega, h3⟩
    · rcases List.mem_cons.1 h with rfl | h
      · simpa using ‹¬b = 0›
      · obtain ⟨h1, h2, h3⟩ := ih h
        exact ⟨by omega, by simp only [List.length_cons]; omega, h3⟩

theorem pairwise_cells (k : Nat) (bs : List Byte) : (cells k bs).Pairwise fun a b => a.1 < b.1 := by
  induction bs generalizing k with
  | nil => simp [cells]
  | cons b bs ih =>
    rw [cells]
    split
    · exact ih _
    · exact List.pairwise_cons.2 ⟨fun c hc => (mem_cells hc).1, ih _⟩

theorem mem_dropWhile_ge {m : Mem} (h : m.Pairwise fun a b => a.1 < b.1) (n : Nat) {c : Host.Cell}
    (hc : c ∈ m.dropWhile fun c => decide (c.1 < n)) : n ≤ c.1 := by
  induction m with
  | nil => simp at hc
  | cons d m ih =>
    rw [List.dropWhile_cons] at hc
    split at hc
    · exact ih (List.pairwise_cons.1 h).2 hc
    · have hd : n ≤ d.1 := by simpa using ‹¬decide (d.1 < n) = true›
      rcases List.mem_cons.1 hc with rfl | hc
      · exact hd
      · exact hd.trans ((List.pairwise_cons.1 h).1 _ hc).le

theorem mem_takeWhile_lt {m : Mem} {n : Nat} {c : Host.Cell} (hc : c ∈ m.takeWhile fun c => decide (c.1 < n)) :
    c ∈ m ∧ c.1 < n := by
  induction m with
  | nil => simp at hc
  | cons d m ih =>
    rw [List.takeWhile_cons] at hc
    split at hc
    · rcases List.mem_cons.1 hc with rfl | hc
      · exact ⟨by simp, by simpa using ‹decide (c.1 < n) = true›⟩
      · exact ⟨List.mem_cons_of_mem _ (ih hc).1, (ih hc).2⟩
    · simp at hc

/-- A run of entries put between the entries below `k` and those from `k + n` on. -/
theorem wf_splice {m r : Mem} (hm : wf m = true) (hr : wf r = true) (k n : Nat) (hk : ∀ c ∈ r, k ≤ c.1 ∧ c.1 < k + n) :
    wf ((m.takeWhile fun c => decide (c.1 < k)) ++ r ++ m.dropWhile fun c => decide (c.1 < k + n)) = true := by
  rw [wf_iff] at *
  refine ⟨fun c hc => ?_, ?_⟩
  · simp only [List.mem_append] at hc
    rcases hc with (hc | hc) | hc
    · exact hm.1 c (mem_takeWhile_lt hc).1
    · exact hr.1 c hc
    · exact hm.1 c ((List.dropWhile_suffix _).mem hc)
  · rw [List.pairwise_append, List.pairwise_append]
    refine ⟨⟨hm.2.sublist (List.takeWhile_prefix _).sublist, hr.2, fun a ha b hb => ?_⟩,
      hm.2.sublist (List.dropWhile_suffix _).sublist, fun a ha b hb => ?_⟩
    · exact (mem_takeWhile_lt ha).2.trans_le (hk b hb).1
    · have hb := mem_dropWhile_ge hm.2 _ hb
      rcases List.mem_append.1 ha with ha | ha
      · have := (mem_takeWhile_lt ha).2; omega
      · exact (hk a ha).2.trans_le hb

theorem wf_write {m : Mem} (h : wf m = true) (k : Nat) (bs : List Byte) : wf (write m k bs) = true :=
  wf_splice h ((wf_iff _).2 ⟨fun _ hc => (mem_cells hc).2.2, pairwise_cells k bs⟩) k bs.length
    fun _ hc => ⟨(mem_cells hc).1, (mem_cells hc).2.1⟩

theorem wf_shift {m : Mem} (h : wf m = true) (lo len dest : Nat) : wf (shift m lo len dest) = true := by
  refine wf_splice (wf_filter h _) ?_ dest len ?_
  · have h := (wf_iff m).1 h
    rw [wf_iff]
    refine ⟨fun c hc => ?_, ?_⟩
    · obtain ⟨d, hd, rfl⟩ := List.mem_map.1 hc
      exact h.1 d (List.mem_filter.1 hd).1
    · rw [List.pairwise_map]
      refine (h.2.filter _).imp_of_mem fun ha hb hab => ?_
      have ha := (List.mem_filter.1 ha).2
      have hb := (List.mem_filter.1 hb).2
      simp only [Bool.and_eq_true, decide_eq_true_eq] at ha hb
      omega
  · intro c hc
    obtain ⟨d, hd, rfl⟩ := List.mem_map.1 hc
    have hd := (List.mem_filter.1 hd).2
    simp only [Bool.and_eq_true, decide_eq_true_eq] at hd
    simp only
    omega

/-! ### Reading one byte -/

/-- A byte that some entry gives. -/
theorem byte_of_mem {m : Mem} (h : wf m = true) {c : Host.Cell} (hc : c ∈ m) : byte m c.1 = c.2 := by
  replace h := ((wf_iff m).1 h).2
  induction m with
  | nil => simp at hc
  | cons d m ih =>
    rw [byte, List.find?_cons]
    rcases List.mem_cons.1 hc with rfl | hc
    · simp
    · have hd := (List.pairwise_cons.1 h).1 c hc
      have hne : (d.1 == c.1) = false := by simpa using hd.ne
      rw [hne]
      exact ih hc (List.pairwise_cons.1 h).2

/-- A byte that no entry gives reads as zero. -/
theorem byte_of_not_mem {m : Mem} {k : Nat} (h : ∀ c ∈ m, c.1 ≠ k) : byte m k = 0 := by
  rw [byte, List.find?_eq_none.2 fun c hc => by simpa using h c hc]

/-- Two stores with the same entry at a key read the same there. -/
theorem byte_congr {m m' : Mem} (h : wf m = true) (h' : wf m' = true) {k : Nat}
    (hk : ∀ v, (k, v) ∈ m' ↔ (k, v) ∈ m) : byte m' k = byte m k := by
  by_cases hm : ∃ v, (k, v) ∈ m
  · obtain ⟨v, hv⟩ := hm
    rw [byte_of_mem h hv, byte_of_mem h' ((hk v).2 hv)]
  · rw [byte_of_not_mem (m := m) fun c hc he => hm ⟨c.2, by rw [← he]; exact hc⟩,
      byte_of_not_mem (m := m') fun c hc he => hm ⟨c.2, (hk c.2).1 (by rw [← he]; exact hc)⟩]

theorem mem_write_out {m : Mem} (h : wf m = true) {k : Nat} {bs : List Byte} {a : Nat} (ha : a < k ∨ k + bs.length ≤ a)
    (v : Byte) : (a, v) ∈ write m k bs ↔ (a, v) ∈ m := by
  rw [write, List.mem_append, List.mem_append]
  constructor
  · rintro ((hc | hc) | hc)
    · exact (mem_takeWhile_lt hc).1
    · have := mem_cells hc; simp only at this; omega
    · exact (List.dropWhile_suffix _).mem hc
  · intro hc
    rcases ha with ha | ha
    · left; left
      rw [← List.takeWhile_append_dropWhile (p := fun c : Host.Cell => decide (c.1 < k)) (l := m)] at hc
      rcases List.mem_append.1 hc with hc | hc
      · exact hc
      · have := mem_dropWhile_ge ((wf_iff m).1 h).2 k hc; simp only at this; omega
    · right
      rw [← List.takeWhile_append_dropWhile (p := fun c : Host.Cell => decide (c.1 < k + bs.length)) (l := m)] at hc
      rcases List.mem_append.1 hc with hc | hc
      · have := (mem_takeWhile_lt hc).2; simp only at this; omega
      · exact hc

/-- A write leaves every byte outside its run as it was. -/
theorem byte_write_out {m : Mem} (h : wf m = true) (k : Nat) (bs : List Byte) {a : Nat} (ha : a < k ∨ k + bs.length ≤ a) :
    byte (write m k bs) a = byte m a := byte_congr h (wf_write h k bs) (mem_write_out h ha)

theorem cells_get {k i : Nat} {bs : List Byte} (hi : i < bs.length) (h0 : bs[i] ≠ 0) : (k + i, bs[i]) ∈ cells k bs := by
  induction bs generalizing k i with
  | nil => simp at hi
  | cons b bs ih =>
    rw [cells]
    cases i with
    | zero =>
      have h0 : b ≠ 0 := by simpa using h0
      rw [if_neg h0]; simp
    | succ i =>
      have hi' : i < bs.length := by simpa using hi
      have := ih (k := k + 1) hi' (by simpa using h0)
      rw [show k + 1 + i = k + (i + 1) by omega] at this
      split
      · simpa using this
      · exact List.mem_cons_of_mem _ (by simpa using this)

theorem cells_only {k i : Nat} {bs : List Byte} {v : Byte} (hi : i < bs.length) (h : (k + i, v) ∈ cells k bs) : v = bs[i] := by
  induction bs generalizing k i with
  | nil => simp at hi
  | cons b bs ih =>
    rw [cells] at h
    cases i with
    | zero =>
      split at h
      · have := (mem_cells h).1; simp only at this; omega
      · rcases List.mem_cons.1 h with h | h
        · simpa using (Prod.mk.injEq _ _ _ _ ▸ h).2
        · have := (mem_cells h).1; simp only at this; omega
    | succ i =>
      have hi' : i < bs.length := by simpa using hi
      have e : k + (i + 1) = k + 1 + i := by omega
      split at h
      · rw [e] at h; simpa using ih hi' h
      · rcases List.mem_cons.1 h with h | h
        · have := (Prod.mk.injEq _ _ _ _ ▸ h).1; omega
        · rw [e] at h; simpa using ih hi' h

/-- A byte read after a run was written over it is that run's. -/
theorem byte_write_in {m : Mem} (h : wf m = true) (k : Nat) (bs : List Byte) {i : Nat} (hi : i < bs.length) :
    byte (write m k bs) (k + i) = bs[i] := by
  by_cases h0 : bs[i] = 0
  · rw [h0]
    refine byte_of_not_mem fun c hc he => ?_
    rw [write, List.mem_append, List.mem_append] at hc
    rcases hc with (hc | hc) | hc
    · have := (mem_takeWhile_lt hc).2; omega
    · obtain ⟨a, v⟩ := c
      simp only at he
      subst he
      exact (mem_cells hc).2.2 ((cells_only hi hc).trans h0)
    · have := mem_dropWhile_ge ((wf_iff m).1 h).2 _ hc; omega
  · exact byte_of_mem (wf_write h k bs) (c := (k + i, bs[i]))
      (by rw [write, List.mem_append, List.mem_append]; exact .inl (.inr (cells_get hi h0)))

end Sys2Proof.Machine.Mem
end

