-- ==== Sys2Proof/Laws/State.lean ====
section
/-! SUPPORT. One lemma for each field and each named update of the state: what the update leaves there. -/

namespace Sys2Proof.Machine

variable (s : State) (c : Ctx)

/-! ### A change of the focused context leaves the rest of the machine -/

@[simp] theorem State.mapCtx_ctx (f : Ctx → Ctx) : (s.mapCtx f).ctx = f s.ctx := rfl
@[simp] theorem State.mapCtx_others (f : Ctx → Ctx) : (s.mapCtx f).others = s.others := rfl
@[simp] theorem State.mapCtx_agenda (f : Ctx → Ctx) : (s.mapCtx f).agenda = s.agenda := rfl
@[simp] theorem State.mapCtx_input (f : Ctx → Ctx) : (s.mapCtx f).input = s.input := rfl
@[simp] theorem State.mapCtx_fresh (f : Ctx → Ctx) : (s.mapCtx f).fresh = s.fresh := rfl
@[simp] theorem State.mapCtx_delays (f : Ctx → Ctx) : (s.mapCtx f).delays = s.delays := rfl
@[simp] theorem State.mapCtx_pauses (f : Ctx → Ctx) : (s.mapCtx f).pauses = s.pauses := rfl
@[simp] theorem State.mapCtx_clock (f : Ctx → Ctx) : (s.mapCtx f).clock = s.clock := rfl
@[simp] theorem State.mapCtx_age (f : Ctx → Ctx) : (s.mapCtx f).age = s.age := rfl
@[simp] theorem State.mapCtx_mem (f : Ctx → Ctx) : (s.mapCtx f).mem = s.mem := rfl
@[simp] theorem State.mapCtx_history (f : Ctx → Ctx) : (s.mapCtx f).history = s.history := rfl
@[simp] theorem State.mapCtx_known (f : Ctx → Ctx) : (s.mapCtx f).known = s.known := rfl
@[simp] theorem State.mapCtx_released (f : Ctx → Ctx) : (s.mapCtx f).released = s.released := rfl
@[simp] theorem State.mapCtx_views (f : Ctx → Ctx) : (s.mapCtx f).views = s.views := rfl
@[simp] theorem State.mapCtx_poison (f : Ctx → Ctx) : (s.mapCtx f).poison = s.poison := rfl
@[simp] theorem State.mapCtx_pages (f : Ctx → Ctx) : (s.mapCtx f).pages = s.pages := rfl
@[simp] theorem State.mapCtx_denied (f : Ctx → Ctx) : (s.mapCtx f).denied = s.denied := rfl
@[simp] theorem State.mapCtx_frames (f : Ctx → Ctx) : (s.mapCtx f).frames = s.frames := rfl
@[simp] theorem State.mapCtx_reuse (f : Ctx → Ctx) : (s.mapCtx f).reuse = s.reuse := rfl
@[simp] theorem State.mapCtx_reqs (f : Ctx → Ctx) : (s.mapCtx f).reqs = s.reqs := rfl
@[simp] theorem State.mapCtx_resps (f : Ctx → Ctx) : (s.mapCtx f).resps = s.resps := rfl
@[simp] theorem State.mapCtx_cmds (f : Ctx → Ctx) : (s.mapCtx f).cmds = s.cmds := rfl
@[simp] theorem State.mapCtx_lanes (f : Ctx → Ctx) : (s.mapCtx f).lanes = s.lanes := rfl
@[simp] theorem State.mapCtx_barriers (f : Ctx → Ctx) : (s.mapCtx f).barriers = s.barriers := rfl
@[simp] theorem State.mapCtx_ticketMsgs (f : Ctx → Ctx) : (s.mapCtx f).ticketMsgs = s.ticketMsgs := rfl
@[simp] theorem State.mapCtx_tickets (f : Ctx → Ctx) : (s.mapCtx f).tickets = s.tickets := rfl
@[simp] theorem State.mapCtx_grids (f : Ctx → Ctx) : (s.mapCtx f).grids = s.grids := rfl
@[simp] theorem State.mapCtx_gridCount (f : Ctx → Ctx) : (s.mapCtx f).gridCount = s.gridCount := rfl
@[simp] theorem State.mapCtx_teams (f : Ctx → Ctx) : (s.mapCtx f).teams = s.teams := rfl
@[simp] theorem State.mapCtx_stewards (f : Ctx → Ctx) : (s.mapCtx f).stewards = s.stewards := rfl
@[simp] theorem State.mapCtx_errq (f : Ctx → Ctx) : (s.mapCtx f).errq = s.errq := rfl
@[simp] theorem State.mapCtx_errSeq (f : Ctx → Ctx) : (s.mapCtx f).errSeq = s.errSeq := rfl
@[simp] theorem State.mapCtx_throttle (f : Ctx → Ctx) : (s.mapCtx f).throttle = s.throttle := rfl
@[simp] theorem State.mapCtx_budget (f : Ctx → Ctx) : (s.mapCtx f).budget = s.budget := rfl
@[simp] theorem State.mapCtx_quantum (f : Ctx → Ctx) : (s.mapCtx f).quantum = s.quantum := rfl
@[simp] theorem State.mapCtx_dims (f : Ctx → Ctx) : (s.mapCtx f).dims = s.dims := rfl
@[simp] theorem State.mapCtx_coords (f : Ctx → Ctx) : (s.mapCtx f).coords = s.coords := rfl
@[simp] theorem State.mapCtx_links (f : Ctx → Ctx) : (s.mapCtx f).links = s.links := rfl
@[simp] theorem State.mapCtx_farDown (f : Ctx → Ctx) : (s.mapCtx f).farDown = s.farDown := rfl
@[simp] theorem State.mapCtx_shapeError (f : Ctx → Ctx) : (s.mapCtx f).shapeError = s.shapeError := rfl
@[simp] theorem State.mapCtx_draining (f : Ctx → Ctx) : (s.mapCtx f).draining = s.draining := rfl
@[simp] theorem State.mapCtx_poolDown (f : Ctx → Ctx) : (s.mapCtx f).poolDown = s.poolDown := rfl
@[simp] theorem State.mapCtx_evstat (f : Ctx → Ctx) : (s.mapCtx f).evstat = s.evstat := rfl
@[simp] theorem State.mapCtx_even (f : Ctx → Ctx) : (s.mapCtx f).even = s.even := rfl
@[simp] theorem State.mapCtx_bootst (f : Ctx → Ctx) : (s.mapCtx f).bootst = s.bootst := rfl
@[simp] theorem State.mapCtx_resmap (f : Ctx → Ctx) : (s.mapCtx f).resmap = s.resmap := rfl
@[simp] theorem State.mapCtx_msix (f : Ctx → Ctx) : (s.mapCtx f).msix = s.msix := rfl
@[simp] theorem State.mapCtx_errCount (f : Ctx → Ctx) : (s.mapCtx f).errCount = s.errCount := rfl
@[simp] theorem State.mapCtx_coreErrors (f : Ctx → Ctx) : (s.mapCtx f).coreErrors = s.coreErrors := rfl
@[simp] theorem State.mapCtx_hevts (f : Ctx → Ctx) : (s.mapCtx f).hevts = s.hevts := rfl
@[simp] theorem State.mapCtx_hostmaps (f : Ctx → Ctx) : (s.mapCtx f).hostmaps = s.hostmaps := rfl
@[simp] theorem State.mapCtx_qps (f : Ctx → Ctx) : (s.mapCtx f).qps = s.qps := rfl
@[simp] theorem State.mapCtx_boot (f : Ctx → Ctx) : (s.mapCtx f).boot = s.boot := rfl
@[simp] theorem State.mapCtx_spdm (f : Ctx → Ctx) : (s.mapCtx f).spdm = s.spdm := rfl
@[simp] theorem State.mapCtx_gatedCores (f : Ctx → Ctx) : (s.mapCtx f).gatedCores = s.gatedCores := rfl
@[simp] theorem State.mapCtx_flashHead (f : Ctx → Ctx) : (s.mapCtx f).flashHead = s.flashHead := rfl
@[simp] theorem State.mapCtx_flashFree (f : Ctx → Ctx) : (s.mapCtx f).flashFree = s.flashFree := rfl
@[simp] theorem State.mapCtx_mailbox (f : Ctx → Ctx) : (s.mapCtx f).mailbox = s.mailbox := rfl
@[simp] theorem State.mapCtx_wtUpdate (f : Ctx → Ctx) : (s.mapCtx f).wtUpdate = s.wtUpdate := rfl
@[simp] theorem State.mapCtx_wtQueue (f : Ctx → Ctx) : (s.mapCtx f).wtQueue = s.wtQueue := rfl
@[simp] theorem State.mapCtx_promised (f : Ctx → Ctx) : (s.mapCtx f).promised = s.promised := rfl

/-! ### A change of one slot leaves the rest of its context -/

@[simp] theorem Ctx.mapSlot_slots (k : Slot) (f : SlotState → SlotState) :
    (c.mapSlot k f).pipe.slots = c.pipe.slots.modify k.val f := rfl
@[simp] theorem Ctx.mapSlot_uid (k : Slot) (f : SlotState → SlotState) : (c.mapSlot k f).uid = c.uid := rfl
@[simp] theorem Ctx.mapSlot_run (k : Slot) (f : SlotState → SlotState) : (c.mapSlot k f).run = c.run := rfl
@[simp] theorem Ctx.mapSlot_core (k : Slot) (f : SlotState → SlotState) : (c.mapSlot k f).core = c.core := rfl
@[simp] theorem Ctx.mapSlot_grid (k : Slot) (f : SlotState → SlotState) : (c.mapSlot k f).grid = c.grid := rfl
@[simp] theorem Ctx.mapSlot_team (k : Slot) (f : SlotState → SlotState) : (c.mapSlot k f).team = c.team := rfl
@[simp] theorem Ctx.mapSlot_member (k : Slot) (f : SlotState → SlotState) : (c.mapSlot k f).member = c.member := rfl
@[simp] theorem Ctx.mapSlot_rank (k : Slot) (f : SlotState → SlotState) : (c.mapSlot k f).rank = c.rank := rfl
@[simp] theorem Ctx.mapSlot_sreg (k : Slot) (f : SlotState → SlotState) : (c.mapSlot k f).sreg = c.sreg := rfl
@[simp] theorem Ctx.mapSlot_areg (k : Slot) (f : SlotState → SlotState) : (c.mapSlot k f).areg = c.areg := rfl
@[simp] theorem Ctx.mapSlot_preg (k : Slot) (f : SlotState → SlotState) : (c.mapSlot k f).preg = c.preg := rfl
@[simp] theorem Ctx.mapSlot_lpWrites (k : Slot) (f : SlotState → SlotState) : (c.mapSlot k f).lpWrites = c.lpWrites := rfl
@[simp] theorem Ctx.mapSlot_vreg (k : Slot) (f : SlotState → SlotState) : (c.mapSlot k f).vreg = c.vreg := rfl
@[simp] theorem Ctx.mapSlot_zreg (k : Slot) (f : SlotState → SlotState) : (c.mapSlot k f).zreg = c.zreg := rfl
@[simp] theorem Ctx.mapSlot_tsreg (k : Slot) (f : SlotState → SlotState) : (c.mapSlot k f).tsreg = c.tsreg := rfl
@[simp] theorem Ctx.mapSlot_bdreg (k : Slot) (f : SlotState → SlotState) : (c.mapSlot k f).bdreg = c.bdreg := rfl
@[simp] theorem Ctx.mapSlot_kreg (k : Slot) (f : SlotState → SlotState) : (c.mapSlot k f).kreg = c.kreg := rfl
@[simp] theorem Ctx.mapSlot_slreg (k : Slot) (f : SlotState → SlotState) : (c.mapSlot k f).slreg = c.slreg := rfl
@[simp] theorem Ctx.mapSlot_tcs (k : Slot) (f : SlotState → SlotState) : (c.mapSlot k f).tcs = c.tcs := rfl
@[simp] theorem Ctx.mapSlot_olds (k : Slot) (f : SlotState → SlotState) : (c.mapSlot k f).olds = c.olds := rfl
@[simp] theorem Ctx.mapSlot_oldViews (k : Slot) (f : SlotState → SlotState) : (c.mapSlot k f).oldViews = c.oldViews := rfl
@[simp] theorem Ctx.mapSlot_syncs (k : Slot) (f : SlotState → SlotState) : (c.mapSlot k f).syncs = c.syncs := rfl
@[simp] theorem Ctx.mapSlot_rpoison (k : Slot) (f : SlotState → SlotState) : (c.mapSlot k f).rpoison = c.rpoison := rfl
@[simp] theorem Ctx.mapSlot_ctxid (k : Slot) (f : SlotState → SlotState) : (c.mapSlot k f).ctxid = c.ctxid := rfl
@[simp] theorem Ctx.mapSlot_ctxstat (k : Slot) (f : SlotState → SlotState) : (c.mapSlot k f).ctxstat = c.ctxstat := rfl
@[simp] theorem Ctx.mapSlot_domc (k : Slot) (f : SlotState → SlotState) : (c.mapSlot k f).domc = c.domc := rfl
@[simp] theorem Ctx.mapSlot_domd (k : Slot) (f : SlotState → SlotState) : (c.mapSlot k f).domd = c.domd := rfl
@[simp] theorem Ctx.mapSlot_domp (k : Slot) (f : SlotState → SlotState) : (c.mapSlot k f).domp = c.domp := rfl
@[simp] theorem Ctx.mapSlot_domf (k : Slot) (f : SlotState → SlotState) : (c.mapSlot k f).domf = c.domf := rfl
@[simp] theorem Ctx.mapSlot_fpst (k : Slot) (f : SlotState → SlotState) : (c.mapSlot k f).fpst = c.fpst := rfl
@[simp] theorem Ctx.mapSlot_fpnow (k : Slot) (f : SlotState → SlotState) : (c.mapSlot k f).fpnow = c.fpnow := rfl
@[simp] theorem Ctx.mapSlot_crNow (k : Slot) (f : SlotState → SlotState) : (c.mapSlot k f).crNow = c.crNow := rfl
@[simp] theorem Ctx.mapSlot_rseed0 (k : Slot) (f : SlotState → SlotState) : (c.mapSlot k f).rseed0 = c.rseed0 := rfl
@[simp] theorem Ctx.mapSlot_rseed1 (k : Slot) (f : SlotState → SlotState) : (c.mapSlot k f).rseed1 = c.rseed1 := rfl
@[simp] theorem Ctx.mapSlot_rseedm (k : Slot) (f : SlotState → SlotState) : (c.mapSlot k f).rseedm = c.rseedm := rfl
@[simp] theorem Ctx.mapSlot_rseeds (k : Slot) (f : SlotState → SlotState) : (c.mapSlot k f).rseeds = c.rseeds := rfl
@[simp] theorem Ctx.mapSlot_uivec (k : Slot) (f : SlotState → SlotState) : (c.mapSlot k f).uivec = c.uivec := rfl
@[simp] theorem Ctx.mapSlot_uipc (k : Slot) (f : SlotState → SlotState) : (c.mapSlot k f).uipc = c.uipc := rfl
@[simp] theorem Ctx.mapSlot_uistat (k : Slot) (f : SlotState → SlotState) : (c.mapSlot k f).uistat = c.uistat := rfl
@[simp] theorem Ctx.mapSlot_uiclear (k : Slot) (f : SlotState → SlotState) : (c.mapSlot k f).uiclear = c.uiclear := rfl
@[simp] theorem Ctx.mapSlot_bcap (k : Slot) (f : SlotState → SlotState) : (c.mapSlot k f).bcap = c.bcap := rfl
@[simp] theorem Ctx.mapSlot_chst (k : Slot) (f : SlotState → SlotState) : (c.mapSlot k f).chst = c.chst := rfl
@[simp] theorem Ctx.mapSlot_ldra (k : Slot) (f : SlotState → SlotState) : (c.mapSlot k f).ldra = c.ldra := rfl
@[simp] theorem Ctx.mapSlot_geomode (k : Slot) (f : SlotState → SlotState) : (c.mapSlot k f).geomode = c.geomode := rfl
@[simp] theorem Ctx.mapSlot_rwin (k : Slot) (f : SlotState → SlotState) : (c.mapSlot k f).rwin = c.rwin := rfl
@[simp] theorem Ctx.mapSlot_tkexp (k : Slot) (f : SlotState → SlotState) : (c.mapSlot k f).tkexp = c.tkexp := rfl
@[simp] theorem Ctx.mapSlot_cflim (k : Slot) (f : SlotState → SlotState) : (c.mapSlot k f).cflim = c.cflim := rfl
@[simp] theorem Ctx.mapSlot_trapvec (k : Slot) (f : SlotState → SlotState) : (c.mapSlot k f).trapvec = c.trapvec := rfl
@[simp] theorem Ctx.mapSlot_traprec (k : Slot) (f : SlotState → SlotState) : (c.mapSlot k f).traprec = c.traprec := rfl
@[simp] theorem Ctx.mapSlot_faultrec (k : Slot) (f : SlotState → SlotState) : (c.mapSlot k f).faultrec = c.faultrec := rfl
@[simp] theorem Ctx.mapSlot_preq (k : Slot) (f : SlotState → SlotState) : (c.mapSlot k f).preq = c.preq := rfl
@[simp] theorem Ctx.mapSlot_wtbase (k : Slot) (f : SlotState → SlotState) : (c.mapSlot k f).wtbase = c.wtbase := rfl
@[simp] theorem Ctx.mapSlot_prmst (k : Slot) (f : SlotState → SlotState) : (c.mapSlot k f).prmst = c.prmst := rfl
@[simp] theorem Ctx.mapSlot_trstat (k : Slot) (f : SlotState → SlotState) : (c.mapSlot k f).trstat = c.trstat := rfl
@[simp] theorem Ctx.mapSlot_windows (k : Slot) (f : SlotState → SlotState) : (c.mapSlot k f).windows = c.windows := rfl
@[simp] theorem Ctx.mapSlot_bindings (k : Slot) (f : SlotState → SlotState) : (c.mapSlot k f).bindings = c.bindings := rfl
@[simp] theorem Ctx.mapSlot_bovf (k : Slot) (f : SlotState → SlotState) : (c.mapSlot k f).bovf = c.bovf := rfl
@[simp] theorem Ctx.mapSlot_arms (k : Slot) (f : SlotState → SlotState) : (c.mapSlot k f).arms = c.arms := rfl
@[simp] theorem Ctx.mapSlot_gated (k : Slot) (f : SlotState → SlotState) : (c.mapSlot k f).gated = c.gated := rfl
@[simp] theorem Ctx.mapSlot_ssteps (k : Slot) (f : SlotState → SlotState) : (c.mapSlot k f).ssteps = c.ssteps := rfl
@[simp] theorem Ctx.mapSlot_order (k : Slot) (f : SlotState → SlotState) : (c.mapSlot k f).order = c.order := rfl
@[simp] theorem Ctx.mapSlot_orderLen (k : Slot) (f : SlotState → SlotState) : (c.mapSlot k f).orderLen = c.orderLen := rfl
@[simp] theorem Ctx.mapSlot_tileBits (k : Slot) (f : SlotState → SlotState) : (c.mapSlot k f).tileBits = c.tileBits := rfl
@[simp] theorem Ctx.mapSlot_tileNow (k : Slot) (f : SlotState → SlotState) : (c.mapSlot k f).tileNow = c.tileNow := rfl
@[simp] theorem Ctx.mapSlot_tileWait (k : Slot) (f : SlotState → SlotState) : (c.mapSlot k f).tileWait = c.tileWait := rfl
@[simp] theorem Ctx.mapSlot_trayHeads (k : Slot) (f : SlotState → SlotState) : (c.mapSlot k f).trayHeads = c.trayHeads := rfl
@[simp] theorem Ctx.mapSlot_landings (k : Slot) (f : SlotState → SlotState) : (c.mapSlot k f).landings = c.landings := rfl
@[simp] theorem Ctx.mapSlot_replay (k : Slot) (f : SlotState → SlotState) : (c.mapSlot k f).replay = c.replay := rfl
@[simp] theorem Ctx.mapSlot_releases (k : Slot) (f : SlotState → SlotState) : (c.mapSlot k f).releases = c.releases := rfl
@[simp] theorem Ctx.mapSlot_now (k : Slot) (f : SlotState → SlotState) : (c.mapSlot k f).now = c.now := rfl
@[simp] theorem Ctx.mapSlot_raised (k : Slot) (f : SlotState → SlotState) : (c.mapSlot k f).raised = c.raised := rfl
@[simp] theorem Ctx.mapSlot_trapped (k : Slot) (f : SlotState → SlotState) : (c.mapSlot k f).trapped = c.trapped := rfl
@[simp] theorem Ctx.mapSlot_recordAt (k : Slot) (f : SlotState → SlotState) : (c.mapSlot k f).recordAt = c.recordAt := rfl
@[simp] theorem Ctx.mapSlot_trapShadow (k : Slot) (f : SlotState → SlotState) : (c.mapSlot k f).trapShadow = c.trapShadow := rfl
@[simp] theorem Ctx.mapSlot_uiShadow (k : Slot) (f : SlotState → SlotState) : (c.mapSlot k f).uiShadow = c.uiShadow := rfl
@[simp] theorem Ctx.mapSlot_uiSaved (k : Slot) (f : SlotState → SlotState) : (c.mapSlot k f).uiSaved = c.uiSaved := rfl
@[simp] theorem Ctx.mapSlot_array (k : Slot) (f : SlotState → SlotState) : (c.mapSlot k f).array = c.array := rfl
@[simp] theorem Ctx.mapSlot_hist (k : Slot) (f : SlotState → SlotState) : (c.mapSlot k f).hist = c.hist := rfl
@[simp] theorem Ctx.mapSlot_chain (k : Slot) (f : SlotState → SlotState) : (c.mapSlot k f).chain = c.chain := rfl
@[simp] theorem Ctx.mapSlot_drain (k : Slot) (f : SlotState → SlotState) : (c.mapSlot k f).drain = c.drain := rfl
@[simp] theorem Ctx.mapSlot_tldPort (k : Slot) (f : SlotState → SlotState) : (c.mapSlot k f).tldPort = c.tldPort := rfl
@[simp] theorem Ctx.mapSlot_geoBusy (k : Slot) (f : SlotState → SlotState) : (c.mapSlot k f).geoBusy = c.geoBusy := rfl
@[simp] theorem Ctx.mapSlot_wfeLatch (k : Slot) (f : SlotState → SlotState) : (c.mapSlot k f).wfeLatch = c.wfeLatch := rfl
@[simp] theorem Ctx.mapSlot_ratoms (k : Slot) (f : SlotState → SlotState) : (c.mapSlot k f).ratoms = c.ratoms := rfl
@[simp] theorem Ctx.mapSlot_dbgCode (k : Slot) (f : SlotState → SlotState) : (c.mapSlot k f).dbgCode = c.dbgCode := rfl
@[simp] theorem Ctx.mapSlot_trBase (k : Slot) (f : SlotState → SlotState) : (c.mapSlot k f).trBase = c.trBase := rfl
@[simp] theorem Ctx.mapSlot_trLen (k : Slot) (f : SlotState → SlotState) : (c.mapSlot k f).trLen = c.trLen := rfl
@[simp] theorem Ctx.mapSlot_trMode (k : Slot) (f : SlotState → SlotState) : (c.mapSlot k f).trMode = c.trMode := rfl
@[simp] theorem Ctx.mapSlot_trCycle (k : Slot) (f : SlotState → SlotState) : (c.mapSlot k f).trCycle = c.trCycle := rfl
@[simp] theorem Ctx.mapSlot_trCount (k : Slot) (f : SlotState → SlotState) : (c.mapSlot k f).trCount = c.trCount := rfl
@[simp] theorem Ctx.mapSlot_drainFor (k : Slot) (f : SlotState → SlotState) : (c.mapSlot k f).drainFor = c.drainFor := rfl
@[simp] theorem Ctx.mapSlot_drainDrn (k : Slot) (f : SlotState → SlotState) : (c.mapSlot k f).drainDrn = c.drainDrn := rfl
@[simp] theorem Ctx.mapSlot_drainDepth (k : Slot) (f : SlotState → SlotState) : (c.mapSlot k f).drainDepth = c.drainDepth := rfl
@[simp] theorem Ctx.mapSlot_drainReg (k : Slot) (f : SlotState → SlotState) : (c.mapSlot k f).drainReg = c.drainReg := rfl
@[simp] theorem Ctx.mapSlot_idle (k : Slot) (f : SlotState → SlotState) : (c.mapSlot k f).idle = c.idle := rfl
@[simp] theorem Ctx.mapSlot_pipe_pc (k : Slot) (f : SlotState → SlotState) : (c.mapSlot k f).pipe.pc = c.pipe.pc := rfl
@[simp] theorem Ctx.mapSlot_pipe_mpc (k : Slot) (f : SlotState → SlotState) : (c.mapSlot k f).pipe.mpc = c.pipe.mpc := rfl
@[simp] theorem Ctx.mapSlot_pipe_rep (k : Slot) (f : SlotState → SlotState) : (c.mapSlot k f).pipe.rep = c.pipe.rep := rfl
@[simp] theorem Ctx.mapSlot_pipe_mpc0 (k : Slot) (f : SlotState → SlotState) : (c.mapSlot k f).pipe.mpc0 = c.pipe.mpc0 := rfl
@[simp] theorem Ctx.mapSlot_pipe_count (k : Slot) (f : SlotState → SlotState) : (c.mapSlot k f).pipe.count = c.pipe.count := rfl
@[simp] theorem Ctx.mapSlot_pipe_start (k : Slot) (f : SlotState → SlotState) : (c.mapSlot k f).pipe.start = c.pipe.start := rfl
@[simp] theorem Ctx.mapSlot_pipe_ended (k : Slot) (f : SlotState → SlotState) : (c.mapSlot k f).pipe.ended = c.pipe.ended := rfl
@[simp] theorem Ctx.mapSlot_pipe_blocked (k : Slot) (f : SlotState → SlotState) : (c.mapSlot k f).pipe.blocked = c.pipe.blocked := rfl
@[simp] theorem Ctx.mapSlot_pipe_redirect (k : Slot) (f : SlotState → SlotState) : (c.mapSlot k f).pipe.redirect = c.pipe.redirect := rfl
@[simp] theorem Ctx.mapSlot_pipe_opening (k : Slot) (f : SlotState → SlotState) : (c.mapSlot k f).pipe.opening = c.pipe.opening := rfl
@[simp] theorem Ctx.mapSlot_pipe_queue (k : Slot) (f : SlotState → SlotState) : (c.mapSlot k f).pipe.queue = c.pipe.queue := rfl
@[simp] theorem Ctx.mapSlot_pipe_sticky (k : Slot) (f : SlotState → SlotState) : (c.mapSlot k f).pipe.sticky = c.pipe.sticky := rfl
@[simp] theorem Ctx.mapSlot_pipe_levels (k : Slot) (f : SlotState → SlotState) : (c.mapSlot k f).pipe.levels = c.pipe.levels := rfl
@[simp] theorem Ctx.mapSlot_pipe_marks (k : Slot) (f : SlotState → SlotState) : (c.mapSlot k f).pipe.marks = c.pipe.marks := rfl
@[simp] theorem Ctx.mapSlot_pipe_base (k : Slot) (f : SlotState → SlotState) : (c.mapSlot k f).pipe.base = c.pipe.base := rfl
@[simp] theorem Ctx.mapSlot_pipe_skipNext (k : Slot) (f : SlotState → SlotState) : (c.mapSlot k f).pipe.skipNext = c.pipe.skipNext := rfl
@[simp] theorem Ctx.mapSlot_pipe_halt (k : Slot) (f : SlotState → SlotState) : (c.mapSlot k f).pipe.halt = c.pipe.halt := rfl
@[simp] theorem Ctx.mapSlot_pipe_lp (k : Slot) (f : SlotState → SlotState) : (c.mapSlot k f).pipe.lp = c.pipe.lp := rfl

/-! ### `mapSlot` -/

@[simp] theorem State.mapSlot_others (f : SlotState → SlotState) : (s.mapSlot f).others = s.others := rfl
@[simp] theorem State.mapSlot_agenda (f : SlotState → SlotState) : (s.mapSlot f).agenda = s.agenda := rfl
@[simp] theorem State.mapSlot_fresh (f : SlotState → SlotState) : (s.mapSlot f).fresh = s.fresh := rfl
@[simp] theorem State.mapSlot_clock (f : SlotState → SlotState) : (s.mapSlot f).clock = s.clock := rfl
@[simp] theorem State.mapSlot_mem (f : SlotState → SlotState) : (s.mapSlot f).mem = s.mem := rfl
@[simp] theorem State.mapSlot_poison (f : SlotState → SlotState) : (s.mapSlot f).poison = s.poison := rfl
@[simp] theorem State.mapSlot_pages (f : SlotState → SlotState) : (s.mapSlot f).pages = s.pages := rfl
@[simp] theorem State.mapSlot_reqs (f : SlotState → SlotState) : (s.mapSlot f).reqs = s.reqs := rfl
@[simp] theorem State.mapSlot_cmds (f : SlotState → SlotState) : (s.mapSlot f).cmds = s.cmds := rfl
@[simp] theorem State.mapSlot_tickets (f : SlotState → SlotState) : (s.mapSlot f).tickets = s.tickets := rfl
@[simp] theorem State.mapSlot_grids (f : SlotState → SlotState) : (s.mapSlot f).grids = s.grids := rfl
@[simp] theorem State.mapSlot_teams (f : SlotState → SlotState) : (s.mapSlot f).teams = s.teams := rfl
@[simp] theorem State.mapSlot_ctx_uid (f : SlotState → SlotState) : (s.mapSlot f).ctx.uid = s.ctx.uid := rfl
@[simp] theorem State.mapSlot_ctx_sreg (f : SlotState → SlotState) : (s.mapSlot f).ctx.sreg = s.ctx.sreg := rfl
@[simp] theorem State.mapSlot_ctx_areg (f : SlotState → SlotState) : (s.mapSlot f).ctx.areg = s.ctx.areg := rfl
@[simp] theorem State.mapSlot_ctx_preg (f : SlotState → SlotState) : (s.mapSlot f).ctx.preg = s.ctx.preg := rfl
@[simp] theorem State.mapSlot_ctx_vreg (f : SlotState → SlotState) : (s.mapSlot f).ctx.vreg = s.ctx.vreg := rfl
@[simp] theorem State.mapSlot_ctx_zreg (f : SlotState → SlotState) : (s.mapSlot f).ctx.zreg = s.ctx.zreg := rfl
@[simp] theorem State.mapSlot_ctx_tsreg (f : SlotState → SlotState) : (s.mapSlot f).ctx.tsreg = s.ctx.tsreg := rfl
@[simp] theorem State.mapSlot_ctx_bdreg (f : SlotState → SlotState) : (s.mapSlot f).ctx.bdreg = s.ctx.bdreg := rfl
@[simp] theorem State.mapSlot_ctx_kreg (f : SlotState → SlotState) : (s.mapSlot f).ctx.kreg = s.ctx.kreg := rfl
@[simp] theorem State.mapSlot_ctx_slreg (f : SlotState → SlotState) : (s.mapSlot f).ctx.slreg = s.ctx.slreg := rfl
@[simp] theorem State.mapSlot_ctx_tcs (f : SlotState → SlotState) : (s.mapSlot f).ctx.tcs = s.ctx.tcs := rfl
@[simp] theorem State.mapSlot_ctx_ctxid (f : SlotState → SlotState) : (s.mapSlot f).ctx.ctxid = s.ctx.ctxid := rfl
@[simp] theorem State.mapSlot_ctx_ctxstat (f : SlotState → SlotState) : (s.mapSlot f).ctx.ctxstat = s.ctx.ctxstat := rfl
@[simp] theorem State.mapSlot_ctx_fpst (f : SlotState → SlotState) : (s.mapSlot f).ctx.fpst = s.ctx.fpst := rfl
@[simp] theorem State.mapSlot_ctx_uistat (f : SlotState → SlotState) : (s.mapSlot f).ctx.uistat = s.ctx.uistat := rfl
@[simp] theorem State.mapSlot_ctx_trapvec (f : SlotState → SlotState) : (s.mapSlot f).ctx.trapvec = s.ctx.trapvec := rfl
@[simp] theorem State.mapSlot_ctx_traprec (f : SlotState → SlotState) : (s.mapSlot f).ctx.traprec = s.ctx.traprec := rfl
@[simp] theorem State.mapSlot_ctx_preq (f : SlotState → SlotState) : (s.mapSlot f).ctx.preq = s.ctx.preq := rfl
@[simp] theorem State.mapSlot_ctx_windows (f : SlotState → SlotState) : (s.mapSlot f).ctx.windows = s.ctx.windows := rfl
@[simp] theorem State.mapSlot_ctx_bindings (f : SlotState → SlotState) : (s.mapSlot f).ctx.bindings = s.ctx.bindings := rfl
@[simp] theorem State.mapSlot_ctx_landings (f : SlotState → SlotState) : (s.mapSlot f).ctx.landings = s.ctx.landings := rfl
@[simp] theorem State.mapSlot_ctx_trapped (f : SlotState → SlotState) : (s.mapSlot f).ctx.trapped = s.ctx.trapped := rfl
@[simp] theorem State.mapSlot_ctx_run (f : SlotState → SlotState) : (s.mapSlot f).ctx.run = s.ctx.run := rfl

/-! ### `stall` -/

@[simp] theorem State.stall_others : (s.stall).others = s.others := rfl
@[simp] theorem State.stall_agenda : (s.stall).agenda = s.agenda := rfl
@[simp] theorem State.stall_fresh : (s.stall).fresh = s.fresh := rfl
@[simp] theorem State.stall_clock : (s.stall).clock = s.clock := rfl
@[simp] theorem State.stall_mem : (s.stall).mem = s.mem := rfl
@[simp] theorem State.stall_poison : (s.stall).poison = s.poison := rfl
@[simp] theorem State.stall_pages : (s.stall).pages = s.pages := rfl
@[simp] theorem State.stall_reqs : (s.stall).reqs = s.reqs := rfl
@[simp] theorem State.stall_cmds : (s.stall).cmds = s.cmds := rfl
@[simp] theorem State.stall_tickets : (s.stall).tickets = s.tickets := rfl
@[simp] theorem State.stall_grids : (s.stall).grids = s.grids := rfl
@[simp] theorem State.stall_teams : (s.stall).teams = s.teams := rfl
@[simp] theorem State.stall_ctx_uid : (s.stall).ctx.uid = s.ctx.uid := rfl
@[simp] theorem State.stall_ctx_sreg : (s.stall).ctx.sreg = s.ctx.sreg := rfl
@[simp] theorem State.stall_ctx_areg : (s.stall).ctx.areg = s.ctx.areg := rfl
@[simp] theorem State.stall_ctx_preg : (s.stall).ctx.preg = s.ctx.preg := rfl
@[simp] theorem State.stall_ctx_vreg : (s.stall).ctx.vreg = s.ctx.vreg := rfl
@[simp] theorem State.stall_ctx_zreg : (s.stall).ctx.zreg = s.ctx.zreg := rfl
@[simp] theorem State.stall_ctx_tsreg : (s.stall).ctx.tsreg = s.ctx.tsreg := rfl
@[simp] theorem State.stall_ctx_bdreg : (s.stall).ctx.bdreg = s.ctx.bdreg := rfl
@[simp] theorem State.stall_ctx_kreg : (s.stall).ctx.kreg = s.ctx.kreg := rfl
@[simp] theorem State.stall_ctx_slreg : (s.stall).ctx.slreg = s.ctx.slreg := rfl
@[simp] theorem State.stall_ctx_tcs : (s.stall).ctx.tcs = s.ctx.tcs := rfl
@[simp] theorem State.stall_ctx_ctxid : (s.stall).ctx.ctxid = s.ctx.ctxid := rfl
@[simp] theorem State.stall_ctx_ctxstat : (s.stall).ctx.ctxstat = s.ctx.ctxstat := rfl
@[simp] theorem State.stall_ctx_fpst : (s.stall).ctx.fpst = s.ctx.fpst := rfl
@[simp] theorem State.stall_ctx_uistat : (s.stall).ctx.uistat = s.ctx.uistat := rfl
@[simp] theorem State.stall_ctx_trapvec : (s.stall).ctx.trapvec = s.ctx.trapvec := rfl
@[simp] theorem State.stall_ctx_traprec : (s.stall).ctx.traprec = s.ctx.traprec := rfl
@[simp] theorem State.stall_ctx_preq : (s.stall).ctx.preq = s.ctx.preq := rfl
@[simp] theorem State.stall_ctx_windows : (s.stall).ctx.windows = s.ctx.windows := rfl
@[simp] theorem State.stall_ctx_bindings : (s.stall).ctx.bindings = s.ctx.bindings := rfl
@[simp] theorem State.stall_ctx_landings : (s.stall).ctx.landings = s.ctx.landings := rfl
@[simp] theorem State.stall_ctx_trapped : (s.stall).ctx.trapped = s.ctx.trapped := rfl
@[simp] theorem State.stall_ctx_run : (s.stall).ctx.run = s.ctx.run := rfl

/-! ### `post` -/

@[simp] theorem State.post_others (lat : Nat) (es : List Eff) (m : Option MemOp) : (s.post lat es m).others = s.others := rfl
@[simp] theorem State.post_agenda (lat : Nat) (es : List Eff) (m : Option MemOp) : (s.post lat es m).agenda = s.agenda := rfl
@[simp] theorem State.post_fresh (lat : Nat) (es : List Eff) (m : Option MemOp) : (s.post lat es m).fresh = s.fresh := rfl
@[simp] theorem State.post_clock (lat : Nat) (es : List Eff) (m : Option MemOp) : (s.post lat es m).clock = s.clock := rfl
@[simp] theorem State.post_mem (lat : Nat) (es : List Eff) (m : Option MemOp) : (s.post lat es m).mem = s.mem := rfl
@[simp] theorem State.post_poison (lat : Nat) (es : List Eff) (m : Option MemOp) : (s.post lat es m).poison = s.poison := rfl
@[simp] theorem State.post_pages (lat : Nat) (es : List Eff) (m : Option MemOp) : (s.post lat es m).pages = s.pages := rfl
@[simp] theorem State.post_reqs (lat : Nat) (es : List Eff) (m : Option MemOp) : (s.post lat es m).reqs = s.reqs := rfl
@[simp] theorem State.post_cmds (lat : Nat) (es : List Eff) (m : Option MemOp) : (s.post lat es m).cmds = s.cmds := rfl
@[simp] theorem State.post_tickets (lat : Nat) (es : List Eff) (m : Option MemOp) : (s.post lat es m).tickets = s.tickets := rfl
@[simp] theorem State.post_grids (lat : Nat) (es : List Eff) (m : Option MemOp) : (s.post lat es m).grids = s.grids := rfl
@[simp] theorem State.post_teams (lat : Nat) (es : List Eff) (m : Option MemOp) : (s.post lat es m).teams = s.teams := rfl
@[simp] theorem State.post_ctx_uid (lat : Nat) (es : List Eff) (m : Option MemOp) : (s.post lat es m).ctx.uid = s.ctx.uid := rfl
@[simp] theorem State.post_ctx_sreg (lat : Nat) (es : List Eff) (m : Option MemOp) : (s.post lat es m).ctx.sreg = s.ctx.sreg := rfl
@[simp] theorem State.post_ctx_areg (lat : Nat) (es : List Eff) (m : Option MemOp) : (s.post lat es m).ctx.areg = s.ctx.areg := rfl
@[simp] theorem State.post_ctx_preg (lat : Nat) (es : List Eff) (m : Option MemOp) : (s.post lat es m).ctx.preg = s.ctx.preg := rfl
@[simp] theorem State.post_ctx_vreg (lat : Nat) (es : List Eff) (m : Option MemOp) : (s.post lat es m).ctx.vreg = s.ctx.vreg := rfl
@[simp] theorem State.post_ctx_zreg (lat : Nat) (es : List Eff) (m : Option MemOp) : (s.post lat es m).ctx.zreg = s.ctx.zreg := rfl
@[simp] theorem State.post_ctx_tsreg (lat : Nat) (es : List Eff) (m : Option MemOp) : (s.post lat es m).ctx.tsreg = s.ctx.tsreg := rfl
@[simp] theorem State.post_ctx_bdreg (lat : Nat) (es : List Eff) (m : Option MemOp) : (s.post lat es m).ctx.bdreg = s.ctx.bdreg := rfl
@[simp] theorem State.post_ctx_kreg (lat : Nat) (es : List Eff) (m : Option MemOp) : (s.post lat es m).ctx.kreg = s.ctx.kreg := rfl
@[simp] theorem State.post_ctx_slreg (lat : Nat) (es : List Eff) (m : Option MemOp) : (s.post lat es m).ctx.slreg = s.ctx.slreg := rfl
@[simp] theorem State.post_ctx_tcs (lat : Nat) (es : List Eff) (m : Option MemOp) : (s.post lat es m).ctx.tcs = s.ctx.tcs := rfl
@[simp] theorem State.post_ctx_ctxid (lat : Nat) (es : List Eff) (m : Option MemOp) : (s.post lat es m).ctx.ctxid = s.ctx.ctxid := rfl
@[simp] theorem State.post_ctx_ctxstat (lat : Nat) (es : List Eff) (m : Option MemOp) : (s.post lat es m).ctx.ctxstat = s.ctx.ctxstat := rfl
@[simp] theorem State.post_ctx_fpst (lat : Nat) (es : List Eff) (m : Option MemOp) : (s.post lat es m).ctx.fpst = s.ctx.fpst := rfl
@[simp] theorem State.post_ctx_uistat (lat : Nat) (es : List Eff) (m : Option MemOp) : (s.post lat es m).ctx.uistat = s.ctx.uistat := rfl
@[simp] theorem State.post_ctx_trapvec (lat : Nat) (es : List Eff) (m : Option MemOp) : (s.post lat es m).ctx.trapvec = s.ctx.trapvec := rfl
@[simp] theorem State.post_ctx_traprec (lat : Nat) (es : List Eff) (m : Option MemOp) : (s.post lat es m).ctx.traprec = s.ctx.traprec := rfl
@[simp] theorem State.post_ctx_preq (lat : Nat) (es : List Eff) (m : Option MemOp) : (s.post lat es m).ctx.preq = s.ctx.preq := rfl
@[simp] theorem State.post_ctx_windows (lat : Nat) (es : List Eff) (m : Option MemOp) : (s.post lat es m).ctx.windows = s.ctx.windows := rfl
@[simp] theorem State.post_ctx_bindings (lat : Nat) (es : List Eff) (m : Option MemOp) : (s.post lat es m).ctx.bindings = s.ctx.bindings := rfl
@[simp] theorem State.post_ctx_landings (lat : Nat) (es : List Eff) (m : Option MemOp) : (s.post lat es m).ctx.landings = s.ctx.landings := rfl
@[simp] theorem State.post_ctx_trapped (lat : Nat) (es : List Eff) (m : Option MemOp) : (s.post lat es m).ctx.trapped = s.ctx.trapped := rfl
@[simp] theorem State.post_ctx_run (lat : Nat) (es : List Eff) (m : Option MemOp) : (s.post lat es m).ctx.run = s.ctx.run := rfl

/-! ### `postReg` -/

@[simp] theorem State.postReg_others (lat : Nat) (r : Reg) (v : Word) : (s.postReg lat r v).others = s.others := rfl
@[simp] theorem State.postReg_agenda (lat : Nat) (r : Reg) (v : Word) : (s.postReg lat r v).agenda = s.agenda := rfl
@[simp] theorem State.postReg_fresh (lat : Nat) (r : Reg) (v : Word) : (s.postReg lat r v).fresh = s.fresh := rfl
@[simp] theorem State.postReg_clock (lat : Nat) (r : Reg) (v : Word) : (s.postReg lat r v).clock = s.clock := rfl
@[simp] theorem State.postReg_mem (lat : Nat) (r : Reg) (v : Word) : (s.postReg lat r v).mem = s.mem := rfl
@[simp] theorem State.postReg_poison (lat : Nat) (r : Reg) (v : Word) : (s.postReg lat r v).poison = s.poison := rfl
@[simp] theorem State.postReg_pages (lat : Nat) (r : Reg) (v : Word) : (s.postReg lat r v).pages = s.pages := rfl
@[simp] theorem State.postReg_reqs (lat : Nat) (r : Reg) (v : Word) : (s.postReg lat r v).reqs = s.reqs := rfl
@[simp] theorem State.postReg_cmds (lat : Nat) (r : Reg) (v : Word) : (s.postReg lat r v).cmds = s.cmds := rfl
@[simp] theorem State.postReg_tickets (lat : Nat) (r : Reg) (v : Word) : (s.postReg lat r v).tickets = s.tickets := rfl
@[simp] theorem State.postReg_grids (lat : Nat) (r : Reg) (v : Word) : (s.postReg lat r v).grids = s.grids := rfl
@[simp] theorem State.postReg_teams (lat : Nat) (r : Reg) (v : Word) : (s.postReg lat r v).teams = s.teams := rfl
@[simp] theorem State.postReg_ctx_uid (lat : Nat) (r : Reg) (v : Word) : (s.postReg lat r v).ctx.uid = s.ctx.uid := rfl
@[simp] theorem State.postReg_ctx_sreg (lat : Nat) (r : Reg) (v : Word) : (s.postReg lat r v).ctx.sreg = s.ctx.sreg := rfl
@[simp] theorem State.postReg_ctx_areg (lat : Nat) (r : Reg) (v : Word) : (s.postReg lat r v).ctx.areg = s.ctx.areg := rfl
@[simp] theorem State.postReg_ctx_preg (lat : Nat) (r : Reg) (v : Word) : (s.postReg lat r v).ctx.preg = s.ctx.preg := rfl
@[simp] theorem State.postReg_ctx_vreg (lat : Nat) (r : Reg) (v : Word) : (s.postReg lat r v).ctx.vreg = s.ctx.vreg := rfl
@[simp] theorem State.postReg_ctx_zreg (lat : Nat) (r : Reg) (v : Word) : (s.postReg lat r v).ctx.zreg = s.ctx.zreg := rfl
@[simp] theorem State.postReg_ctx_tsreg (lat : Nat) (r : Reg) (v : Word) : (s.postReg lat r v).ctx.tsreg = s.ctx.tsreg := rfl
@[simp] theorem State.postReg_ctx_bdreg (lat : Nat) (r : Reg) (v : Word) : (s.postReg lat r v).ctx.bdreg = s.ctx.bdreg := rfl
@[simp] theorem State.postReg_ctx_kreg (lat : Nat) (r : Reg) (v : Word) : (s.postReg lat r v).ctx.kreg = s.ctx.kreg := rfl
@[simp] theorem State.postReg_ctx_slreg (lat : Nat) (r : Reg) (v : Word) : (s.postReg lat r v).ctx.slreg = s.ctx.slreg := rfl
@[simp] theorem State.postReg_ctx_tcs (lat : Nat) (r : Reg) (v : Word) : (s.postReg lat r v).ctx.tcs = s.ctx.tcs := rfl
@[simp] theorem State.postReg_ctx_ctxid (lat : Nat) (r : Reg) (v : Word) : (s.postReg lat r v).ctx.ctxid = s.ctx.ctxid := rfl
@[simp] theorem State.postReg_ctx_ctxstat (lat : Nat) (r : Reg) (v : Word) : (s.postReg lat r v).ctx.ctxstat = s.ctx.ctxstat := rfl
@[simp] theorem State.postReg_ctx_fpst (lat : Nat) (r : Reg) (v : Word) : (s.postReg lat r v).ctx.fpst = s.ctx.fpst := rfl
@[simp] theorem State.postReg_ctx_uistat (lat : Nat) (r : Reg) (v : Word) : (s.postReg lat r v).ctx.uistat = s.ctx.uistat := rfl
@[simp] theorem State.postReg_ctx_trapvec (lat : Nat) (r : Reg) (v : Word) : (s.postReg lat r v).ctx.trapvec = s.ctx.trapvec := rfl
@[simp] theorem State.postReg_ctx_traprec (lat : Nat) (r : Reg) (v : Word) : (s.postReg lat r v).ctx.traprec = s.ctx.traprec := rfl
@[simp] theorem State.postReg_ctx_preq (lat : Nat) (r : Reg) (v : Word) : (s.postReg lat r v).ctx.preq = s.ctx.preq := rfl
@[simp] theorem State.postReg_ctx_windows (lat : Nat) (r : Reg) (v : Word) : (s.postReg lat r v).ctx.windows = s.ctx.windows := rfl
@[simp] theorem State.postReg_ctx_bindings (lat : Nat) (r : Reg) (v : Word) : (s.postReg lat r v).ctx.bindings = s.ctx.bindings := rfl
@[simp] theorem State.postReg_ctx_landings (lat : Nat) (r : Reg) (v : Word) : (s.postReg lat r v).ctx.landings = s.ctx.landings := rfl
@[simp] theorem State.postReg_ctx_trapped (lat : Nat) (r : Reg) (v : Word) : (s.postReg lat r v).ctx.trapped = s.ctx.trapped := rfl
@[simp] theorem State.postReg_ctx_run (lat : Nat) (r : Reg) (v : Word) : (s.postReg lat r v).ctx.run = s.ctx.run := rfl

/-! ### `raise` -/

@[simp] theorem State.raise_others (cls cause : Byte) (d a : Word) : (s.raise cls cause d a).others = s.others := rfl
@[simp] theorem State.raise_agenda (cls cause : Byte) (d a : Word) : (s.raise cls cause d a).agenda = s.agenda := rfl
@[simp] theorem State.raise_fresh (cls cause : Byte) (d a : Word) : (s.raise cls cause d a).fresh = s.fresh := rfl
@[simp] theorem State.raise_clock (cls cause : Byte) (d a : Word) : (s.raise cls cause d a).clock = s.clock := rfl
@[simp] theorem State.raise_mem (cls cause : Byte) (d a : Word) : (s.raise cls cause d a).mem = s.mem := rfl
@[simp] theorem State.raise_poison (cls cause : Byte) (d a : Word) : (s.raise cls cause d a).poison = s.poison := rfl
@[simp] theorem State.raise_pages (cls cause : Byte) (d a : Word) : (s.raise cls cause d a).pages = s.pages := rfl
@[simp] theorem State.raise_reqs (cls cause : Byte) (d a : Word) : (s.raise cls cause d a).reqs = s.reqs := rfl
@[simp] theorem State.raise_cmds (cls cause : Byte) (d a : Word) : (s.raise cls cause d a).cmds = s.cmds := rfl
@[simp] theorem State.raise_tickets (cls cause : Byte) (d a : Word) : (s.raise cls cause d a).tickets = s.tickets := rfl
@[simp] theorem State.raise_grids (cls cause : Byte) (d a : Word) : (s.raise cls cause d a).grids = s.grids := rfl
@[simp] theorem State.raise_teams (cls cause : Byte) (d a : Word) : (s.raise cls cause d a).teams = s.teams := rfl
@[simp] theorem State.raise_ctx_uid (cls cause : Byte) (d a : Word) : (s.raise cls cause d a).ctx.uid = s.ctx.uid := rfl
@[simp] theorem State.raise_ctx_sreg (cls cause : Byte) (d a : Word) : (s.raise cls cause d a).ctx.sreg = s.ctx.sreg := rfl
@[simp] theorem State.raise_ctx_areg (cls cause : Byte) (d a : Word) : (s.raise cls cause d a).ctx.areg = s.ctx.areg := rfl
@[simp] theorem State.raise_ctx_preg (cls cause : Byte) (d a : Word) : (s.raise cls cause d a).ctx.preg = s.ctx.preg := rfl
@[simp] theorem State.raise_ctx_vreg (cls cause : Byte) (d a : Word) : (s.raise cls cause d a).ctx.vreg = s.ctx.vreg := rfl
@[simp] theorem State.raise_ctx_zreg (cls cause : Byte) (d a : Word) : (s.raise cls cause d a).ctx.zreg = s.ctx.zreg := rfl
@[simp] theorem State.raise_ctx_tsreg (cls cause : Byte) (d a : Word) : (s.raise cls cause d a).ctx.tsreg = s.ctx.tsreg := rfl
@[simp] theorem State.raise_ctx_bdreg (cls cause : Byte) (d a : Word) : (s.raise cls cause d a).ctx.bdreg = s.ctx.bdreg := rfl
@[simp] theorem State.raise_ctx_kreg (cls cause : Byte) (d a : Word) : (s.raise cls cause d a).ctx.kreg = s.ctx.kreg := rfl
@[simp] theorem State.raise_ctx_slreg (cls cause : Byte) (d a : Word) : (s.raise cls cause d a).ctx.slreg = s.ctx.slreg := rfl
@[simp] theorem State.raise_ctx_tcs (cls cause : Byte) (d a : Word) : (s.raise cls cause d a).ctx.tcs = s.ctx.tcs := rfl
@[simp] theorem State.raise_ctx_ctxid (cls cause : Byte) (d a : Word) : (s.raise cls cause d a).ctx.ctxid = s.ctx.ctxid := rfl
@[simp] theorem State.raise_ctx_ctxstat (cls cause : Byte) (d a : Word) : (s.raise cls cause d a).ctx.ctxstat = s.ctx.ctxstat := rfl
@[simp] theorem State.raise_ctx_fpst (cls cause : Byte) (d a : Word) : (s.raise cls cause d a).ctx.fpst = s.ctx.fpst := rfl
@[simp] theorem State.raise_ctx_uistat (cls cause : Byte) (d a : Word) : (s.raise cls cause d a).ctx.uistat = s.ctx.uistat := rfl
@[simp] theorem State.raise_ctx_trapvec (cls cause : Byte) (d a : Word) : (s.raise cls cause d a).ctx.trapvec = s.ctx.trapvec := rfl
@[simp] theorem State.raise_ctx_traprec (cls cause : Byte) (d a : Word) : (s.raise cls cause d a).ctx.traprec = s.ctx.traprec := rfl
@[simp] theorem State.raise_ctx_preq (cls cause : Byte) (d a : Word) : (s.raise cls cause d a).ctx.preq = s.ctx.preq := rfl
@[simp] theorem State.raise_ctx_windows (cls cause : Byte) (d a : Word) : (s.raise cls cause d a).ctx.windows = s.ctx.windows := rfl
@[simp] theorem State.raise_ctx_bindings (cls cause : Byte) (d a : Word) : (s.raise cls cause d a).ctx.bindings = s.ctx.bindings := rfl
@[simp] theorem State.raise_ctx_landings (cls cause : Byte) (d a : Word) : (s.raise cls cause d a).ctx.landings = s.ctx.landings := rfl
@[simp] theorem State.raise_ctx_trapped (cls cause : Byte) (d a : Word) : (s.raise cls cause d a).ctx.trapped = s.ctx.trapped := rfl
@[simp] theorem State.raise_ctx_run (cls cause : Byte) (d a : Word) : (s.raise cls cause d a).ctx.run = s.ctx.run := rfl

/-! ### `raiseIllegal` -/

@[simp] theorem State.raiseIllegal_others (cause : Byte) : (s.raiseIllegal cause).others = s.others := rfl
@[simp] theorem State.raiseIllegal_agenda (cause : Byte) : (s.raiseIllegal cause).agenda = s.agenda := rfl
@[simp] theorem State.raiseIllegal_fresh (cause : Byte) : (s.raiseIllegal cause).fresh = s.fresh := rfl
@[simp] theorem State.raiseIllegal_clock (cause : Byte) : (s.raiseIllegal cause).clock = s.clock := rfl
@[simp] theorem State.raiseIllegal_mem (cause : Byte) : (s.raiseIllegal cause).mem = s.mem := rfl
@[simp] theorem State.raiseIllegal_poison (cause : Byte) : (s.raiseIllegal cause).poison = s.poison := rfl
@[simp] theorem State.raiseIllegal_pages (cause : Byte) : (s.raiseIllegal cause).pages = s.pages := rfl
@[simp] theorem State.raiseIllegal_reqs (cause : Byte) : (s.raiseIllegal cause).reqs = s.reqs := rfl
@[simp] theorem State.raiseIllegal_cmds (cause : Byte) : (s.raiseIllegal cause).cmds = s.cmds := rfl
@[simp] theorem State.raiseIllegal_tickets (cause : Byte) : (s.raiseIllegal cause).tickets = s.tickets := rfl
@[simp] theorem State.raiseIllegal_grids (cause : Byte) : (s.raiseIllegal cause).grids = s.grids := rfl
@[simp] theorem State.raiseIllegal_teams (cause : Byte) : (s.raiseIllegal cause).teams = s.teams := rfl
@[simp] theorem State.raiseIllegal_ctx_uid (cause : Byte) : (s.raiseIllegal cause).ctx.uid = s.ctx.uid := rfl
@[simp] theorem State.raiseIllegal_ctx_sreg (cause : Byte) : (s.raiseIllegal cause).ctx.sreg = s.ctx.sreg := rfl
@[simp] theorem State.raiseIllegal_ctx_areg (cause : Byte) : (s.raiseIllegal cause).ctx.areg = s.ctx.areg := rfl
@[simp] theorem State.raiseIllegal_ctx_preg (cause : Byte) : (s.raiseIllegal cause).ctx.preg = s.ctx.preg := rfl
@[simp] theorem State.raiseIllegal_ctx_vreg (cause : Byte) : (s.raiseIllegal cause).ctx.vreg = s.ctx.vreg := rfl
@[simp] theorem State.raiseIllegal_ctx_zreg (cause : Byte) : (s.raiseIllegal cause).ctx.zreg = s.ctx.zreg := rfl
@[simp] theorem State.raiseIllegal_ctx_tsreg (cause : Byte) : (s.raiseIllegal cause).ctx.tsreg = s.ctx.tsreg := rfl
@[simp] theorem State.raiseIllegal_ctx_bdreg (cause : Byte) : (s.raiseIllegal cause).ctx.bdreg = s.ctx.bdreg := rfl
@[simp] theorem State.raiseIllegal_ctx_kreg (cause : Byte) : (s.raiseIllegal cause).ctx.kreg = s.ctx.kreg := rfl
@[simp] theorem State.raiseIllegal_ctx_slreg (cause : Byte) : (s.raiseIllegal cause).ctx.slreg = s.ctx.slreg := rfl
@[simp] theorem State.raiseIllegal_ctx_tcs (cause : Byte) : (s.raiseIllegal cause).ctx.tcs = s.ctx.tcs := rfl
@[simp] theorem State.raiseIllegal_ctx_ctxid (cause : Byte) : (s.raiseIllegal cause).ctx.ctxid = s.ctx.ctxid := rfl
@[simp] theorem State.raiseIllegal_ctx_ctxstat (cause : Byte) : (s.raiseIllegal cause).ctx.ctxstat = s.ctx.ctxstat := rfl
@[simp] theorem State.raiseIllegal_ctx_fpst (cause : Byte) : (s.raiseIllegal cause).ctx.fpst = s.ctx.fpst := rfl
@[simp] theorem State.raiseIllegal_ctx_uistat (cause : Byte) : (s.raiseIllegal cause).ctx.uistat = s.ctx.uistat := rfl
@[simp] theorem State.raiseIllegal_ctx_trapvec (cause : Byte) : (s.raiseIllegal cause).ctx.trapvec = s.ctx.trapvec := rfl
@[simp] theorem State.raiseIllegal_ctx_traprec (cause : Byte) : (s.raiseIllegal cause).ctx.traprec = s.ctx.traprec := rfl
@[simp] theorem State.raiseIllegal_ctx_preq (cause : Byte) : (s.raiseIllegal cause).ctx.preq = s.ctx.preq := rfl
@[simp] theorem State.raiseIllegal_ctx_windows (cause : Byte) : (s.raiseIllegal cause).ctx.windows = s.ctx.windows := rfl
@[simp] theorem State.raiseIllegal_ctx_bindings (cause : Byte) : (s.raiseIllegal cause).ctx.bindings = s.ctx.bindings := rfl
@[simp] theorem State.raiseIllegal_ctx_landings (cause : Byte) : (s.raiseIllegal cause).ctx.landings = s.ctx.landings := rfl
@[simp] theorem State.raiseIllegal_ctx_trapped (cause : Byte) : (s.raiseIllegal cause).ctx.trapped = s.ctx.trapped := rfl
@[simp] theorem State.raiseIllegal_ctx_run (cause : Byte) : (s.raiseIllegal cause).ctx.run = s.ctx.run := rfl

/-! ### `waitIn` -/

@[simp] theorem State.waitIn_others (w : Wait) : (s.waitIn w).others = s.others := rfl
@[simp] theorem State.waitIn_agenda (w : Wait) : (s.waitIn w).agenda = s.agenda := rfl
@[simp] theorem State.waitIn_fresh (w : Wait) : (s.waitIn w).fresh = s.fresh := rfl
@[simp] theorem State.waitIn_clock (w : Wait) : (s.waitIn w).clock = s.clock := rfl
@[simp] theorem State.waitIn_mem (w : Wait) : (s.waitIn w).mem = s.mem := rfl
@[simp] theorem State.waitIn_poison (w : Wait) : (s.waitIn w).poison = s.poison := rfl
@[simp] theorem State.waitIn_pages (w : Wait) : (s.waitIn w).pages = s.pages := rfl
@[simp] theorem State.waitIn_reqs (w : Wait) : (s.waitIn w).reqs = s.reqs := rfl
@[simp] theorem State.waitIn_cmds (w : Wait) : (s.waitIn w).cmds = s.cmds := rfl
@[simp] theorem State.waitIn_tickets (w : Wait) : (s.waitIn w).tickets = s.tickets := rfl
@[simp] theorem State.waitIn_grids (w : Wait) : (s.waitIn w).grids = s.grids := rfl
@[simp] theorem State.waitIn_teams (w : Wait) : (s.waitIn w).teams = s.teams := rfl
@[simp] theorem State.waitIn_ctx_uid (w : Wait) : (s.waitIn w).ctx.uid = s.ctx.uid := rfl
@[simp] theorem State.waitIn_ctx_sreg (w : Wait) : (s.waitIn w).ctx.sreg = s.ctx.sreg := rfl
@[simp] theorem State.waitIn_ctx_areg (w : Wait) : (s.waitIn w).ctx.areg = s.ctx.areg := rfl
@[simp] theorem State.waitIn_ctx_preg (w : Wait) : (s.waitIn w).ctx.preg = s.ctx.preg := rfl
@[simp] theorem State.waitIn_ctx_vreg (w : Wait) : (s.waitIn w).ctx.vreg = s.ctx.vreg := rfl
@[simp] theorem State.waitIn_ctx_zreg (w : Wait) : (s.waitIn w).ctx.zreg = s.ctx.zreg := rfl
@[simp] theorem State.waitIn_ctx_tsreg (w : Wait) : (s.waitIn w).ctx.tsreg = s.ctx.tsreg := rfl
@[simp] theorem State.waitIn_ctx_bdreg (w : Wait) : (s.waitIn w).ctx.bdreg = s.ctx.bdreg := rfl
@[simp] theorem State.waitIn_ctx_kreg (w : Wait) : (s.waitIn w).ctx.kreg = s.ctx.kreg := rfl
@[simp] theorem State.waitIn_ctx_slreg (w : Wait) : (s.waitIn w).ctx.slreg = s.ctx.slreg := rfl
@[simp] theorem State.waitIn_ctx_tcs (w : Wait) : (s.waitIn w).ctx.tcs = s.ctx.tcs := rfl
@[simp] theorem State.waitIn_ctx_ctxid (w : Wait) : (s.waitIn w).ctx.ctxid = s.ctx.ctxid := rfl
@[simp] theorem State.waitIn_ctx_ctxstat (w : Wait) : (s.waitIn w).ctx.ctxstat = s.ctx.ctxstat := rfl
@[simp] theorem State.waitIn_ctx_fpst (w : Wait) : (s.waitIn w).ctx.fpst = s.ctx.fpst := rfl
@[simp] theorem State.waitIn_ctx_uistat (w : Wait) : (s.waitIn w).ctx.uistat = s.ctx.uistat := rfl
@[simp] theorem State.waitIn_ctx_trapvec (w : Wait) : (s.waitIn w).ctx.trapvec = s.ctx.trapvec := rfl
@[simp] theorem State.waitIn_ctx_traprec (w : Wait) : (s.waitIn w).ctx.traprec = s.ctx.traprec := rfl
@[simp] theorem State.waitIn_ctx_preq (w : Wait) : (s.waitIn w).ctx.preq = s.ctx.preq := rfl
@[simp] theorem State.waitIn_ctx_windows (w : Wait) : (s.waitIn w).ctx.windows = s.ctx.windows := rfl
@[simp] theorem State.waitIn_ctx_bindings (w : Wait) : (s.waitIn w).ctx.bindings = s.ctx.bindings := rfl
@[simp] theorem State.waitIn_ctx_landings (w : Wait) : (s.waitIn w).ctx.landings = s.ctx.landings := rfl
@[simp] theorem State.waitIn_ctx_trapped (w : Wait) : (s.waitIn w).ctx.trapped = s.ctx.trapped := rfl
@[simp] theorem State.waitIn_ctx_run (w : Wait) : (s.waitIn w).ctx.run = s.ctx.run := rfl

/-! ### `unblock` -/

@[simp] theorem State.unblock_others : (s.unblock).others = s.others := rfl
@[simp] theorem State.unblock_agenda : (s.unblock).agenda = s.agenda := rfl
@[simp] theorem State.unblock_fresh : (s.unblock).fresh = s.fresh := rfl
@[simp] theorem State.unblock_clock : (s.unblock).clock = s.clock := rfl
@[simp] theorem State.unblock_mem : (s.unblock).mem = s.mem := rfl
@[simp] theorem State.unblock_poison : (s.unblock).poison = s.poison := rfl
@[simp] theorem State.unblock_pages : (s.unblock).pages = s.pages := rfl
@[simp] theorem State.unblock_reqs : (s.unblock).reqs = s.reqs := rfl
@[simp] theorem State.unblock_cmds : (s.unblock).cmds = s.cmds := rfl
@[simp] theorem State.unblock_tickets : (s.unblock).tickets = s.tickets := rfl
@[simp] theorem State.unblock_grids : (s.unblock).grids = s.grids := rfl
@[simp] theorem State.unblock_teams : (s.unblock).teams = s.teams := rfl
@[simp] theorem State.unblock_ctx_uid : (s.unblock).ctx.uid = s.ctx.uid := rfl
@[simp] theorem State.unblock_ctx_sreg : (s.unblock).ctx.sreg = s.ctx.sreg := rfl
@[simp] theorem State.unblock_ctx_areg : (s.unblock).ctx.areg = s.ctx.areg := rfl
@[simp] theorem State.unblock_ctx_preg : (s.unblock).ctx.preg = s.ctx.preg := rfl
@[simp] theorem State.unblock_ctx_vreg : (s.unblock).ctx.vreg = s.ctx.vreg := rfl
@[simp] theorem State.unblock_ctx_zreg : (s.unblock).ctx.zreg = s.ctx.zreg := rfl
@[simp] theorem State.unblock_ctx_tsreg : (s.unblock).ctx.tsreg = s.ctx.tsreg := rfl
@[simp] theorem State.unblock_ctx_bdreg : (s.unblock).ctx.bdreg = s.ctx.bdreg := rfl
@[simp] theorem State.unblock_ctx_kreg : (s.unblock).ctx.kreg = s.ctx.kreg := rfl
@[simp] theorem State.unblock_ctx_slreg : (s.unblock).ctx.slreg = s.ctx.slreg := rfl
@[simp] theorem State.unblock_ctx_tcs : (s.unblock).ctx.tcs = s.ctx.tcs := rfl
@[simp] theorem State.unblock_ctx_ctxid : (s.unblock).ctx.ctxid = s.ctx.ctxid := rfl
@[simp] theorem State.unblock_ctx_ctxstat : (s.unblock).ctx.ctxstat = s.ctx.ctxstat := rfl
@[simp] theorem State.unblock_ctx_fpst : (s.unblock).ctx.fpst = s.ctx.fpst := rfl
@[simp] theorem State.unblock_ctx_uistat : (s.unblock).ctx.uistat = s.ctx.uistat := rfl
@[simp] theorem State.unblock_ctx_trapvec : (s.unblock).ctx.trapvec = s.ctx.trapvec := rfl
@[simp] theorem State.unblock_ctx_traprec : (s.unblock).ctx.traprec = s.ctx.traprec := rfl
@[simp] theorem State.unblock_ctx_preq : (s.unblock).ctx.preq = s.ctx.preq := rfl
@[simp] theorem State.unblock_ctx_windows : (s.unblock).ctx.windows = s.ctx.windows := rfl
@[simp] theorem State.unblock_ctx_bindings : (s.unblock).ctx.bindings = s.ctx.bindings := rfl
@[simp] theorem State.unblock_ctx_landings : (s.unblock).ctx.landings = s.ctx.landings := rfl
@[simp] theorem State.unblock_ctx_trapped : (s.unblock).ctx.trapped = s.ctx.trapped := rfl
@[simp] theorem State.unblock_ctx_run : (s.unblock).ctx.run = s.ctx.run := rfl

/-! ### `transfer` -/

@[simp] theorem State.transfer_others (a : Word) : (s.transfer a).others = s.others := rfl
@[simp] theorem State.transfer_agenda (a : Word) : (s.transfer a).agenda = s.agenda := rfl
@[simp] theorem State.transfer_fresh (a : Word) : (s.transfer a).fresh = s.fresh := rfl
@[simp] theorem State.transfer_clock (a : Word) : (s.transfer a).clock = s.clock := rfl
@[simp] theorem State.transfer_mem (a : Word) : (s.transfer a).mem = s.mem := rfl
@[simp] theorem State.transfer_poison (a : Word) : (s.transfer a).poison = s.poison := rfl
@[simp] theorem State.transfer_pages (a : Word) : (s.transfer a).pages = s.pages := rfl
@[simp] theorem State.transfer_reqs (a : Word) : (s.transfer a).reqs = s.reqs := rfl
@[simp] theorem State.transfer_cmds (a : Word) : (s.transfer a).cmds = s.cmds := rfl
@[simp] theorem State.transfer_tickets (a : Word) : (s.transfer a).tickets = s.tickets := rfl
@[simp] theorem State.transfer_grids (a : Word) : (s.transfer a).grids = s.grids := rfl
@[simp] theorem State.transfer_teams (a : Word) : (s.transfer a).teams = s.teams := rfl
@[simp] theorem State.transfer_ctx_uid (a : Word) : (s.transfer a).ctx.uid = s.ctx.uid := rfl
@[simp] theorem State.transfer_ctx_sreg (a : Word) : (s.transfer a).ctx.sreg = s.ctx.sreg := rfl
@[simp] theorem State.transfer_ctx_areg (a : Word) : (s.transfer a).ctx.areg = s.ctx.areg := rfl
@[simp] theorem State.transfer_ctx_preg (a : Word) : (s.transfer a).ctx.preg = s.ctx.preg := rfl
@[simp] theorem State.transfer_ctx_vreg (a : Word) : (s.transfer a).ctx.vreg = s.ctx.vreg := rfl
@[simp] theorem State.transfer_ctx_zreg (a : Word) : (s.transfer a).ctx.zreg = s.ctx.zreg := rfl
@[simp] theorem State.transfer_ctx_tsreg (a : Word) : (s.transfer a).ctx.tsreg = s.ctx.tsreg := rfl
@[simp] theorem State.transfer_ctx_bdreg (a : Word) : (s.transfer a).ctx.bdreg = s.ctx.bdreg := rfl
@[simp] theorem State.transfer_ctx_kreg (a : Word) : (s.transfer a).ctx.kreg = s.ctx.kreg := rfl
@[simp] theorem State.transfer_ctx_slreg (a : Word) : (s.transfer a).ctx.slreg = s.ctx.slreg := rfl
@[simp] theorem State.transfer_ctx_tcs (a : Word) : (s.transfer a).ctx.tcs = s.ctx.tcs := rfl
@[simp] theorem State.transfer_ctx_ctxid (a : Word) : (s.transfer a).ctx.ctxid = s.ctx.ctxid := rfl
@[simp] theorem State.transfer_ctx_ctxstat (a : Word) : (s.transfer a).ctx.ctxstat = s.ctx.ctxstat := rfl
@[simp] theorem State.transfer_ctx_fpst (a : Word) : (s.transfer a).ctx.fpst = s.ctx.fpst := rfl
@[simp] theorem State.transfer_ctx_uistat (a : Word) : (s.transfer a).ctx.uistat = s.ctx.uistat := rfl
@[simp] theorem State.transfer_ctx_trapvec (a : Word) : (s.transfer a).ctx.trapvec = s.ctx.trapvec := rfl
@[simp] theorem State.transfer_ctx_traprec (a : Word) : (s.transfer a).ctx.traprec = s.ctx.traprec := rfl
@[simp] theorem State.transfer_ctx_preq (a : Word) : (s.transfer a).ctx.preq = s.ctx.preq := rfl
@[simp] theorem State.transfer_ctx_windows (a : Word) : (s.transfer a).ctx.windows = s.ctx.windows := rfl
@[simp] theorem State.transfer_ctx_bindings (a : Word) : (s.transfer a).ctx.bindings = s.ctx.bindings := rfl
@[simp] theorem State.transfer_ctx_landings (a : Word) : (s.transfer a).ctx.landings = s.ctx.landings := rfl
@[simp] theorem State.transfer_ctx_trapped (a : Word) : (s.transfer a).ctx.trapped = s.ctx.trapped := rfl
@[simp] theorem State.transfer_ctx_run (a : Word) : (s.transfer a).ctx.run = s.ctx.run := rfl

end Sys2Proof.Machine
end

