-- ==== Sys2Proof/Laws/Ops.lean ====
section
/-! SUPPORT. One lemma for each shared operation, which says everything that it can do: the guard, the memory form, a checked access, a
posting, a wait and its end, what raises an event; and that the operations over memory keep its canonical form and change no other byte. -/

namespace Sys2Proof.Machine

open Sys2Proof.Safety

variable (s : State)

/-! ### The guard and the forms of operations -/

/-- A guarded operation acts, or leaves the state (R121). -/
theorem State.guarded_cases (p : BitVec 5) (n : Bool) (f : State → State) :
    (s.acts p n = true ∧ s.guarded p n f = f s) ∨ (s.acts p n = false ∧ s.guarded p n f = s) := by
  cases h : s.acts p n
  · exact .inr ⟨rfl, by simp only [State.guarded, h]; rfl⟩
  · exact .inl ⟨rfl, by simp only [State.guarded, h, if_true]⟩

/-- A memory form keeps its address and acts, or only keeps its address (R133). -/
theorem State.memForm_cases (f : MForm) (ea : Word) (act : State → State) :
    let t := s.mapSlot fun x => { x with ea := ea }
    (t.acts f.pred f.pneg = true ∧ s.memForm f ea act = act t) ∨ (t.acts f.pred f.pneg = false ∧ s.memForm f ea act = t) := by
  intro t
  cases h : t.acts f.pred f.pneg
  · exact .inr ⟨rfl, if_neg (by rw [h]; exact Bool.false_ne_true)⟩
  · exact .inl ⟨rfl, if_pos h⟩

/-- A checked access runs at its place, or raises what its failed check names (R198). -/
theorem State.withPlace_cases (x : Access) (ea : Word) (act : Place → State → State) :
    (∃ p, s.check x ea = .ok p ∧ s.withPlace x ea act = act p s) ∨
      ∃ b, s.check x ea = .error b ∧ s.withPlace x ea act = s.raise b.cls b.cause 0 ea := by
  cases h : s.check x ea with
  | ok p => exact .inl ⟨p, rfl, by simp only [State.withPlace, h]⟩
  | error b => exact .inr ⟨b, rfl, by simp only [State.withPlace, h, State.raiseBad]⟩

/-- A posting adds one result in flight to the executing slot and does nothing else (R74). -/
theorem State.post_onlyPosts (lat : Nat) (effs : List Eff) (mem : Option MemOp) : OnlyPosts s (s.post lat effs mem) :=
  ⟨[⟨s.slot.time + lat, s.ctx.now.issue.idx, s.site, s.ctx.uiAct, effs, mem⟩], by
    simp only [State.post, State.mapSlot, State.mapCtx, Ctx.mapSlot, State.slot, Ctx.slot]
    congr 2
    congr 1
    apply List.ext_getElem
    · simp
    · intro i h1 h2
      simp only [List.getElem_modify]
      split
      · rename_i h
        subst h
        simp only [List.length_modify] at h1
        simp [List.getElem?_eq_getElem h1]
      · rfl⟩

/-- A posting of one register is a posting. -/
theorem State.postReg_eq_post (lat : Nat) (r : Reg) (v : Word) : s.postReg lat r v = s.post lat [.reg r v] := rfl

/-- The operations that raise nothing and wait for nothing keep the registers. -/
theorem SameRegs.refl : SameRegs s s := ⟨rfl, rfl, rfl, rfl, rfl, rfl, rfl, rfl, rfl, rfl⟩

/-- Registers that are those of a state in between. -/
theorem SameRegs.trans {s t u : State} (h : SameRegs s t) (g : SameRegs t u) : SameRegs s u := by
  obtain ⟨h1, h2, h3, h4, h5, h6, h7, h8, h9, h10⟩ := h
  obtain ⟨g1, g2, g3, g4, g5, g6, g7, g8, g9, g10⟩ := g
  exact ⟨g1.trans h1, g2.trans h2, g3.trans h3, g4.trans h4, g5.trans h5, g6.trans h6, g7.trans h7, g8.trans h8, g9.trans h9,
    g10.trans h10⟩

/-- Equal memories read the same. -/
theorem SameMemory.of_eq {s t : State} (h : t.mem = s.mem) : SameMemory s t := fun k => by rw [h]

/-- Memory that is that of a state in between. -/
theorem SameMemory.trans {s t u : State} (h : SameMemory s t) (g : SameMemory t u) : SameMemory s u := fun k => (g k).trans (h k)

/-! ### Updates of the machine that keep memory -/

@[simp] theorem State.takeFresh_mem : s.takeFresh.2.mem = s.mem := rfl
@[simp] theorem State.takeDelay_mem : s.takeDelay.2.mem = s.mem := by unfold State.takeDelay; split <;> rfl
@[simp] theorem State.arrival_mem : s.arrival.2.mem = s.mem := by simp [State.arrival]
@[simp] theorem State.send_mem (r : Req) : (s.send r).mem = s.mem := by
  unfold State.send
  split
  · rfl
  · exact s.arrival_mem
@[simp] theorem State.takeLanding_mem (d : Nat) (l : Option LandDst) (g : Option GeoJob) : (s.takeLanding d l g).2.mem = s.mem := rfl
@[simp] theorem State.pushErr_mem (d : Nat) (k : Byte) (c : Word) (b : List Byte) : (s.pushErr d k c b).mem = s.mem := rfl
@[simp] theorem State.raiseBad_mem (b : Bad) (ea : Word) : (s.raiseBad b ea).mem = s.mem := rfl
@[simp] theorem State.raiseDone_mem (a b : Byte) (c : BitVec 16) (x : List Word) : (s.raiseDone a b c x).mem = s.mem := rfl
@[simp] theorem State.setEvent_mem (b : Word) : (s.setEvent b).mem = s.mem := rfl
@[simp] theorem State.poisonAt_mem (k : Nat) : (s.poisonAt k).mem = s.mem := by
  unfold State.poisonAt
  simp only
  split <;> rfl
@[simp] theorem State.countCorr_mem (d k : Nat) : (s.countCorr d k).mem = s.mem := rfl
@[simp] theorem State.countUncorr_mem (d k : Nat) : (s.countUncorr d k).mem = s.mem := by
  unfold State.countUncorr
  simp only
  split <;> rfl
@[simp] theorem State.refocus_mem (u : Nat) : (s.refocus u).mem = s.mem := by
  unfold State.refocus
  split
  · rfl
  · split <;> rfl
@[simp] theorem State.mapAll_mem (f : Ctx → Ctx) : (s.mapAll f).mem = s.mem := rfl
@[simp] theorem State.mapReq_mem (i : Nat) (f : Req → Req) : (s.mapReq i f).mem = s.mem := rfl
@[simp] theorem State.dropReq_mem (i : Nat) : (s.dropReq i).mem = s.mem := rfl

/-- A run of changes each of which keeps memory keeps it. -/
theorem foldl_mem {α : Type} (f : State → α → State) (h : ∀ s a, (f s a).mem = s.mem) (l : List α) (s : State) :
    (l.foldl f s).mem = s.mem := by
  induction l generalizing s with
  | nil => rfl
  | cons a l ih => rw [List.foldl_cons, ih, h]

/-- A run of changes each of which keeps an invariant keeps it. -/
theorem foldl_inv {α : Type} (f : State → α → State) (h : ∀ s a, Canonical s → Canonical (f s a)) (l : List α) {s : State} (hs : Canonical s) :
    Canonical (l.foldl f s) := by
  induction l generalizing s with
  | nil => exact hs
  | cons a l ih => exact ih (h _ _ hs)

/-- A change of one context keeps an invariant that it keeps in the focus. -/
theorem State.onCtx_inv (u : Nat) (f : State → State) (h : ∀ s, Canonical s → Canonical (f s)) {s : State} (hs : Canonical s) : Canonical (s.onCtx u f) := by
  unfold State.onCtx
  simp only
  split
  · exact h _ hs
  · split
    · unfold Canonical
      rw [State.refocus_mem]
      exact h _ (by unfold Canonical; rw [State.refocus_mem]; exact hs)
    · exact hs

@[simp] theorem State.copyPoison_mem (a b n : Nat) : (s.copyPoison a b n).mem = s.mem := by
  unfold State.copyPoison
  split
  · rfl
  · refine foldl_mem _ (fun s i => ?_) _ _
    split
    · exact s.poisonAt_mem _
    · rfl

@[simp] theorem State.poisonRuns_mem (rs : List (Nat × Nat)) (os : List Nat) : (s.poisonRuns rs os).mem = s.mem := by
  unfold State.poisonRuns
  split
  · rfl
  · refine foldl_mem _ (fun s i => ?_) _ _
    split
    · exact s.poisonAt_mem _
    · rfl

/-! ### Updates of memory -/

/-- Bytes written stand where they were put, and every other byte is as before. -/
theorem State.writeMem_spec (key : Nat) (bs : List Byte) (h : Canonical s) :
    Canonical (s.writeMem key bs) ∧ (∀ i < bs.length, Mem.byte (s.writeMem key bs).mem (key + i) = bs.getD i 0) ∧
      ∀ a, a < key ∨ key + bs.length ≤ a → Mem.byte (s.writeMem key bs).mem a = Mem.byte s.mem a := by
  refine ⟨Mem.wf_write h key bs, fun i hi => ?_, fun a ha => Mem.byte_write_out h key bs ha⟩
  have := Mem.byte_write_in h key bs hi
  simpa [State.writeMem, List.getElem?_eq_getElem hi] using this

theorem State.writeMem_inv {s : State} (key : Nat) (bs : List Byte) (h : Canonical s) : Canonical (s.writeMem key bs) := Mem.wf_write h key bs

theorem State.writeRuns_inv {s : State} (rs : List (Nat × Nat)) (bs : List Byte) (h : Canonical s) : Canonical (s.writeRuns rs bs) := by
  induction rs generalizing s bs with
  | nil => exact h
  | cons r rs ih => exact ih _ (State.writeMem_inv _ _ h)

@[simp] theorem State.learn_mem (a : Agent) (i : Nat) (vs : List Cover) : (s.learn a i vs).mem = s.mem := by
  unfold State.learn
  split <;> rfl

@[simp] theorem State.noteRead_mem (o : Origin) (rs : List (Nat × Nat)) : (s.noteRead o rs).mem = s.mem := by
  unfold State.noteRead
  dsimp only
  split <;> rfl

@[simp] theorem State.brought_mem (o : Origin) (u : Nat) (rs : List (Nat × Nat)) : (s.brought o u rs).mem = s.mem := by
  unfold State.brought
  split
  · rfl
  · exact State.learn_mem _ _ _ _

@[simp] theorem State.readBy_mem (o : Origin) (u : Nat) (rs : List (Nat × Nat)) : (s.readBy o u rs).mem = s.mem := by
  unfold State.readBy
  rw [State.noteRead_mem, State.brought_mem]

@[simp] theorem State.buryByte_mem (o : Origin) (k : Nat) (b : Byte) : (s.buryByte o k b).mem = s.mem := by
  unfold State.buryByte
  split <;> rfl

/-- The record of a write that no later access of its context stands over leaves memory as the write left it. -/
theorem State.recorded_mem (o : Origin) (rs : List (Nat × Nat)) (f : State → State) (h : (s.history.all fun w => !w.later o) = true) :
    (s.recorded o rs f).mem = (f s).mem := by
  unfold State.recorded
  rw [if_pos h]
  rfl

/-- The record of a write keeps what it keeps. -/
theorem State.recorded_inv {s : State} (o : Origin) (rs : List (Nat × Nat)) (f : State → State) (h : Canonical (f s)) :
    Canonical (s.recorded o rs f) := by
  unfold State.recorded
  split
  · exact h
  · dsimp only
    refine foldl_inv _ (fun u k hu => ?_) _ ?_
    · unfold Canonical
      rw [State.buryByte_mem]
      exact hu
    · have go (l : List Nat) : ∀ m : Mem, Mem.wf m = true →
          Mem.wf (l.foldl (fun m k => Mem.write m k [Mem.byte s.mem k]) m) = true := by
        induction l with
        | nil => exact fun _ hm => hm
        | cons a l ih => exact fun m hm => ih _ (Mem.wf_write hm _ _)
      exact go _ _ h

theorem State.performAt_inv {s : State} (o : Origin) (a : Action) (rs : List (Nat × Nat)) (h : Canonical s) :
    Canonical (s.performAt o a rs).1 := by
  cases a with
  | read n =>
    simp only [State.performAt]
    split
    · exact h
    · unfold Canonical
      rw [State.readBy_mem]
      exact h
  | write bs => exact State.recorded_inv _ _ _ (State.writeRuns_inv _ _ h)
  | atom op ty len v c =>
    simp only [State.performAt]
    split
    · exact h
    · exact State.recorded_inv _ _ _ (State.writeRuns_inv _ _ (by unfold Canonical; rw [State.brought_mem]; exact h))

theorem State.moveRun_inv {s : State} (lo len dest : Nat) (h : Canonical s) : Canonical (s.moveRun lo len dest) := Mem.wf_shift h lo len dest

theorem State.copyFrames_inv {s : State} (pkg a b n : Nat) (lim : Option Nat) (h : Canonical s) : Canonical (s.copyFrames pkg a b n lim) := by
  unfold State.copyFrames Canonical
  rw [State.copyPoison_mem]
  exact State.writeMem_inv _ _ h

theorem State.coreWrite_inv {s : State} (va : Nat) (bs : List Byte) (h : Canonical s) : Canonical (s.coreWrite va bs) := by
  refine foldl_inv _ (fun s x hs => ?_) _ h
  split
  · exact State.writeMem_inv _ _ hs
  · exact hs

theorem State.mapCtx_inv {s : State} (f : Ctx → Ctx) (h : Canonical s) : Canonical (s.mapCtx f) := h

theorem State.traceHeader_inv {s : State} (h : Canonical s) : Canonical s.traceHeader := State.coreWrite_inv _ _ h

theorem State.traced_inv {s : State} (k d : Nat) (bs : List Byte) (h : Canonical s) : Canonical (s.traced k d bs).2 := by
  unfold State.traced
  extract_lets c off e t h' w0 w1 ends x
  split
  · split <;> dsimp only
    · exact State.traceHeader_inv (State.mapCtx_inv _ h)
    · exact State.traceHeader_inv (State.mapCtx_inv _ (State.coreWrite_inv _ _ h))
  · split
    · split <;> dsimp only
      · exact State.coreWrite_inv _ _ (State.mapCtx_inv _ h)
      · exact State.mapCtx_inv _ h
    · exact h

theorem State.placeCode_inv {s : State} (bs : List Byte) (h : Canonical s) : Canonical (s.placeCode bs) := Mem.wf_write h _ _

/-- Placing an instruction keeps memory canonical. -/
theorem State.withFetchWord_inv {s : State} (n w : Nat) (h : Canonical s) : Canonical (s.withFetchWord n w) := State.placeCode_inv _ h

/-- Reset has memory in canonical form. -/
theorem reset_canonical : Canonical State.reset := rfl

/-! ### Waits -/

/-- A wait that begins and ends at once changes nothing. -/
theorem State.waitIn_endWait (w : Wait) (h : Ready s) : (s.waitIn w).endWait [] = s := by
  obtain ⟨h1, h2⟩ := h
  have hx (x : SlotState) (a : x.wait = none) (b : x.cap = none) : { x with wait := none, cap := none } = x := by
    cases x; cases a; cases b; rfl
  have e : (s.ctx.pipe.slots.modify s.ctx.now.slot.val fun x => { x with wait := some w, cap := some s.capture }).modify
      s.ctx.now.slot.val (fun x => { x with wait := none, cap := none }) = s.ctx.pipe.slots := by
    apply List.ext_getElem
    · simp
    · intro i i1 i2
      simp only [List.getElem_modify]
      split
      · rename_i hi
        subst hi
        simp only [List.length_modify] at i1
        simp only [State.slot, Ctx.slot, State.k, List.getD_eq_getElem?_getD, List.getElem?_eq_getElem i1, Option.getD_some] at h1 h2
        exact hx _ h1 h2
      · rfl
  simp only [State.waitIn, State.endWait, State.mapSlot, State.mapCtx, Ctx.mapSlot, State.k, List.isEmpty_nil, if_true, e]

end Sys2Proof.Machine
end

