-- ==== Sys2Proof/Tests/Slice0.lean ====
section
/-! SUPPORT. Tests: words written out from the encoding tables of the spec, one ill-formed term for each check of well-formedness,
results taken from the spec's rules, and for every statement with hypotheses a state and operands that meet them. -/

open Sys2Proof Sys2Proof.Machine Sys2Proof.Safety

namespace Sys2Proof.Tests

set_option Elab.async false

/-! ### Decoding -/

/-- The register form of the words below: PRED 3, PNEG, D 5, A 6, B 7, C 9, DT 10, ST 11, RM 2, SAT, SUB 0x041 (R120, R124). -/
def fR : RForm := ⟨3, true, 5, 6, 7, 9, 10, 11, 2, true, 0x041⟩
/-- The immediate form: PRED 3, PNEG, D 5, A 6, DT 10, IMM 0x80000005 (R125). -/
def fI : IForm := ⟨3, true, 5, 6, 10, 0x80000005⟩
/-- The memory form: PRED 3, PNEG, D 5, BASE 6, IDX 7, CHK, STEP 0x81, DT 11, DISP 0x10005 (R126). -/
def fM : MForm := ⟨3, true, 5, 6, 7, true, 0x81, 11, 0x10005⟩
/-- The long form: PRED 3, PNEG, D 5, IMM 0x20000000007 (R127). -/
def fL : LForm := ⟨3, true, 5, 0x20000000007⟩
/-- The command form: PRED 3, PNEG, DELAY 0x81, DESC 9, TC 10, STEPS 0x42, STEPD 0x83, AUX 0x21, SUB 0x105 (R128). -/
def fC : CForm := ⟨3, true, 0x81, 9, 10, 0x42, 0x83, 0x21, 0x105⟩

/-- Every word decodes, in its class, to the operation beside it; the rules for the fields of one operation are not asked here. -/
def reads (cls : Sys2Proof.Class) (l : List (Word × Instr)) : Bool := l.all fun p => Decode.rawOp cls p.1 == some p.2

/-- R120, R124: the register form field by field: OP, PRED, PNEG, FMT, D, A, B, C, DT, ST, RM, SAT, SUB. -/
theorem test_decode_register_form : Decode.rawOp .s
    0b00000001_00011_1_00_000101_000110_000111_001001_01010_01011_010_1_0001000001 = some (.add (.r fR)) := by decide +kernel

/-- R120, R125: the immediate form: OP, PRED, PNEG, FMT, D, A, DT, IMM. -/
theorem test_decode_immediate_form : Decode.rawOp .s
    0b00000001_00011_1_01_000101_000110_1010_10000000000000000000000000000101 = some (.add (.i fI)) := by decide +kernel

/-- R120, R126: the memory form: OP, PRED, PNEG, FMT, D, BASE, IDX, CHK, STEP, DT, DISP. -/
theorem test_decode_memory_form : Decode.rawOp .s
    0b01100000_00011_1_10_000101_00110_000111_1_10000001_01011_10000000000000101 = some (.ld fM) := by decide +kernel

/-- R120, R127: the long form: OP, PRED, PNEG, FMT, D, IMM. -/
theorem test_decode_long_form : Decode.rawOp .s
    0b01000110_00011_1_11_000101_100000000000000000000000000000000000000111 = some (.loop fL) := by decide +kernel

/-- R120, R128: the command form: OP, PRED, PNEG, FMT, DELAY, DESC, TC, STEPS, STEPD, AUX, SUB. -/
theorem test_decode_command_form : Decode.rawOp .c
    0b00000001_00011_1_11_10000001_01001_1010_01000010_10000011_100001_100000101 = some (.cpy fC) := by decide +kernel

/-- R138 to R140: the operations of the family `integer` (S class), one word for each form. -/
theorem test_decode_integer : reads .s [
  (0x011C1461C952D441, .add (.r fR)), (0x011D146A80000005, .add (.i fI)), (0x021C1461C952D441, .sub (.r fR)),
  (0x021D146A80000005, .sub (.i fI)), (0x031C1461C952D441, .mul (.r fR)), (0x031D146A80000005, .mul (.i fI)),
  (0x041C1461C952D441, .mulh (.r fR)), (0x041D146A80000005, .mulh (.i fI)), (0x051C1461C952D441, .mulhb (.r fR)),
  (0x051D146A80000005, .mulhb (.i fI)), (0x061C1461C952D441, .div (.r fR)), (0x061D146A80000005, .div (.i fI)),
  (0x071C1461C952D441, .divb (.r fR)), (0x071D146A80000005, .divb (.i fI)), (0x081C1461C952D441, .rem (.r fR)),
  (0x081D146A80000005, .rem (.i fI)), (0x091C1461C952D441, .remb (.r fR)), (0x091D146A80000005, .remb (.i fI)),
  (0x0A1C1461C952D441, .neg (.r fR)), (0x0A1D146A80000005, .neg (.i fI)), (0x0B1C1461C952D441, .abs (.r fR)),
  (0x0B1D146A80000005, .abs (.i fI)), (0x0C1C1461C952D441, .min (.r fR)), (0x0C1D146A80000005, .min (.i fI)),
  (0x0D1C1461C952D441, .max (.r fR)), (0x0D1D146A80000005, .max (.i fI)), (0x0E1C1461C952D441, .minb (.r fR)),
  (0x0E1D146A80000005, .minb (.i fI)), (0x0F1C1461C952D441, .maxb (.r fR)), (0x0F1D146A80000005, .maxb (.i fI)),
  (0x101C1461C952D441, .and (.r fR)), (0x101D146A80000005, .and (.i fI)), (0x111C1461C952D441, .or (.r fR)),
  (0x111D146A80000005, .or (.i fI)), (0x121C1461C952D441, .xor (.r fR)), (0x121D146A80000005, .xor (.i fI)),
  (0x131C1461C952D441, .andn (.r fR)), (0x131D146A80000005, .andn (.i fI)), (0x141C1461C952D441, .shl (.r fR)),
  (0x141D146A80000005, .shl (.i fI)), (0x151C1461C952D441, .shr (.r fR)), (0x151D146A80000005, .shr (.i fI)),
  (0x161C1461C952D441, .sra (.r fR)), (0x161D146A80000005, .sra (.i fI)), (0x171C1461C952D441, .rot (.r fR)),
  (0x171D146A80000005, .rot (.i fI)), (0x181C1461C952D441, .clz (.r fR)), (0x181D146A80000005, .clz (.i fI)),
  (0x191C1461C952D441, .ctz (.r fR)), (0x191D146A80000005, .ctz (.i fI)), (0x1A1C1461C952D441, .popc (.r fR)),
  (0x1A1D146A80000005, .popc (.i fI)), (0x1B1C1461C952D441, .bswap (.r fR)), (0x1B1D146A80000005, .bswap (.i fI)),
  (0x1C1C1461C952D441, .bfx (.r fR)), (0x1C1D146A80000005, .bfx (.i fI)), (0x1D1C1461C952D441, .bfi (.r fR)),
  (0x1D1D146A80000005, .bfi (.i fI)), (0x1E1C1461C952D441, .ext (.r fR)), (0x1E1D146A80000005, .ext (.i fI)),
  (0x1F1C1461C952D441, .sel (.r fR)), (0x1F1D146A80000005, .sel (.i fI)), (0x201C1461C952D441, .mov (.r fR)),
  (0x201D146A80000005, .mov (.i fI)), (0x211D146A80000005, .movi fI), (0x211F160000000007, .moviLong fL),
  (0x221D146A80000005, .movh fI), (0x231C1461C952D441, .cmp (.r fR)), (0x231D146A80000005, .cmp (.i fI)),
  (0x241C1461C952D441, .tst (.r fR)), (0x241D146A80000005, .tst (.i fI))] = true := by
  decide +kernel

/-- R138 to R140: the operations of the family `address` (S class), one word for each form. -/
theorem test_decode_address : reads .s [
  (0x281E14C3E0570005, .lea fM), (0x291C1461C952D441, .adda (.r fR)), (0x291D146A80000005, .adda (.i fI)),
  (0x2A1C1461C952D441, .suba (.r fR)), (0x2A1D146A80000005, .suba (.i fI)), (0x2B1C1461C952D441, .sptst (.r fR)),
  (0x2B1D146A80000005, .sptst (.i fI)), (0x2C1C1461C952D441, .spcst (.r fR)), (0x2C1D146A80000005, .spcst (.i fI)),
  (0x2D1C1461C952D441, .awin (.r fR)), (0x2D1D146A80000005, .awin (.i fI))] = true := by
  decide +kernel

/-- R138 to R140: the operations of the family `predicate` (S class), one word for each form. -/
theorem test_decode_predicate : reads .s [
  (0x301C1461C952D441, .pand fR), (0x311C1461C952D441, .por fR), (0x321C1461C952D441, .pxor fR),
  (0x331C1461C952D441, .pnot fR), (0x341C1461C952D441, .pmov fR), (0x351C1461C952D441, .pset fR),
  (0x351C1461C952D4C1, .psetReg { fR with sub := 0x0C1 }), (0x361C1461C952D441, .pcnt fR), (0x371C1461C952D441, .pfirst fR),
  (0x381C1461C952D441, .pany fR)] = true := by
  decide +kernel

/-- R138 to R140: the operations of the family `control` (S class), one word for each form. -/
theorem test_decode_control : reads .s [
  (0x401F160000000007, .br fL), (0x411F160000000007, .brc fL), (0x421C1461C952D441, .bri fR), (0x431F160000000007, .call fL),
  (0x441C1461C952D441, .calli fR), (0x451C1461C952D441, .ret fR), (0x461F160000000007, .loop fL),
  (0x471C1461C952D441, .lbrk fR), (0x481C1461C952D441, .lcnt fR), (0x491C1461C952D441, .halt fR)] = true := by
  decide +kernel

/-- R138 to R140: the operations of the family `float` (S class), one word for each form. -/
theorem test_decode_float : reads .s [
  (0x501C1461C952D441, .fadd (.r fR)), (0x501D146A80000005, .fadd (.i fI)), (0x511C1461C952D441, .fsub (.r fR)),
  (0x511D146A80000005, .fsub (.i fI)), (0x521C1461C952D441, .fmul (.r fR)), (0x521D146A80000005, .fmul (.i fI)),
  (0x531C1461C952D441, .ffma (.r fR)), (0x531D146A80000005, .ffma (.i fI)), (0x541C1461C952D441, .fdiv (.r fR)),
  (0x541D146A80000005, .fdiv (.i fI)), (0x551C1461C952D441, .fsqrt (.r fR)), (0x551D146A80000005, .fsqrt (.i fI)),
  (0x561C1461C952D441, .fmin (.r fR)), (0x561D146A80000005, .fmin (.i fI)), (0x571C1461C952D441, .fmax (.r fR)),
  (0x571D146A80000005, .fmax (.i fI)), (0x581C1461C952D441, .fcmp (.r fR)), (0x581D146A80000005, .fcmp (.i fI)),
  (0x591C1461C952D441, .fcvt (.r fR)), (0x591D146A80000005, .fcvt (.i fI)), (0x5A1C1461C952D441, .fclass (.r fR)),
  (0x5A1D146A80000005, .fclass (.i fI))] = true := by
  decide +kernel

/-- R138 to R140: the operations of the family `memory` (S class), one word for each form. -/
theorem test_decode_memory : reads .s [
  (0x601E14C3E0570005, .ld fM), (0x611E14C3E0570005, .st fM), (0x621E14C3E0570005, .ldl fM), (0x631E14C3E0570005, .vldl fM),
  (0x641E14C3E0570005, .prb fM)] = true := by
  decide +kernel

/-- R138 to R140: the operations of the family `sync` (S class), one word for each form. -/
theorem test_decode_sync : reads .s [
  (0x681E14C3E0570005, .atom fM), (0x691E14C3E0570005, .atomf fM), (0x6A1E14C3E0570005, .cas fM),
  (0x6B1E14C3E0570005, .amaxr fM), (0x6C1E14C3E0570005, .bind fM), (0x6D1E14C3E0570005, .unbnd fM),
  (0x6E1E14C3E0570005, .acq fM), (0x6F1E14C3E0570005, .rel fM)] = true := by
  decide +kernel

/-- R138 to R140: the operations of the family `order` (S class), one word for each form. -/
theorem test_decode_order : reads .s [
  (0x701C1461C952D441, .fence (.r fR)), (0x701D146A80000005, .fence (.i fI)), (0x711C1461C952D441, .waittl (.r fR)),
  (0x711C1461C952D451, .waittlArm (.r { fR with sub := 0x051 })), (0x711D146A80000005, .waittl (.i fI)),
  (0x711D147A80000005, .waittlArm (.i { fI with a := 7 })), (0x721C1461C952D441, .tlrd (.r fR)),
  (0x721C1461C952D471, .tlrdClear (.r { fR with sub := 0x071 })), (0x721D146A80000005, .tlrd (.i fI)),
  (0x721D143A80000005, .tlrdClear (.i { fI with a := 3 })), (0x731C1461C952D441, .bar (.r fR)),
  (0x731D146A80000005, .bar (.i fI)), (0x741C1461C952D441, .arv (.r fR)),
  (0x741C1461C952D451, .arvGated { fR with sub := 0x051 }), (0x741D146A80000005, .arv (.i fI)),
  (0x751C1461C952D441, .waitb (.r fR)), (0x751C1461C952D451, .waitbArm (.r { fR with sub := 0x051 })),
  (0x751D146A80000005, .waitb (.i fI)), (0x751D147A80000005, .waitbArm (.i { fI with a := 7 })),
  (0x761C1461C952D441, .sstep (.r fR)), (0x761D146A80000005, .sstep (.i fI))] = true := by
  decide +kernel

/-- R138 to R140: the operations of the family `remote` (S class), one word for each form. -/
theorem test_decode_remote : reads .s [
  (0x781E14C3E0570005, .rstk fM), (0x791E14C3E0570005, .rstd fM), (0x7A1E14C3E0570005, .ratom fM),
  (0x7B1C1461C952D441, .tkwt fR), (0x7C1C1461C952D441, .tkrd fR), (0x7D1C1461C952D441, .tkclr fR)] = true := by
  decide +kernel

/-- R138 to R140: the operations of the family `system` (S class), one word for each form. -/
theorem test_decode_system : reads .s [
  (0x801C1461C952D441, .trap (.r fR)), (0x801D146A80000005, .trap (.i fI)),
  (0x811C1461C952D440, .eretResume (.r { fR with sub := 0x040 })), (0x811C1461C952D441, .eretSkip (.r fR)),
  (0x811C1461C952D442, .eretRedirect { fR with sub := 0x042 }),
  (0x811D146A80000004, .eretResume (.i { fI with imm := 0x80000004 })), (0x811D146A80000005, .eretSkip (.i fI)),
  (0x821C1461C952D441, .uiret (.r fR)), (0x821D146A80000005, .uiret (.i fI)), (0x831C1461C952D441, .crd (.r fR)),
  (0x831D146A80000005, .crd (.i fI)), (0x841C1461C952D441, .cwr (.r fR)), (0x841D146A80000005, .cwr (.i fI)),
  (0x851C1461C952D441, .yield (.r fR)), (0x851D146A80000005, .yield (.i fI)), (0x861C1461C952D441, .wfe (.r fR)),
  (0x861D146A80000005, .wfe (.i fI)), (0x871C1461C952D441, .dbrk (.r fR)), (0x871D146A80000005, .dbrk (.i fI)),
  (0x881C1461C952D441, .launch (.r fR)), (0x881D146A80000005, .launch (.i fI)), (0x891C1461C952D441, .prmt (.r fR)),
  (0x891D146A80000005, .prmt (.i fI)), (0x8A1C1461C952D441, .save (.r fR)), (0x8A1D146A80000005, .save (.i fI))] = true := by
  decide +kernel

/-- R138 to R140: the operations of the family `context` (S class), one word for each form. -/
theorem test_decode_context : reads .s [
  (0x901C1461C952D441, .ccmt fR), (0x911C1461C952D441, .cckp fR), (0x921C1461C952D441, .crpl fR),
  (0x931C1461C952D441, .cfrec fR), (0x941C1461C952D441, .cres fR), (0x951C1461C952D441, .cmap fR),
  (0x961C1461C952D441, .cref fR), (0x971C1461C952D441, .cpin fR), (0x981C1461C952D441, .cseq fR),
  (0x991C1461C952D441, .ctrn fR)] = true := by
  decide +kernel

/-- R138 to R140: the operations of the family `vector_float` (V class), one word for each form. -/
theorem test_decode_vector_float : reads .v [
  (0x011C1461C952D441, .vadd (.r fR)), (0x011D146A80000005, .vadd (.i fI)), (0x021C1461C952D441, .vsub (.r fR)),
  (0x021D146A80000005, .vsub (.i fI)), (0x031C1461C952D441, .vmul (.r fR)), (0x031D146A80000005, .vmul (.i fI)),
  (0x041C1461C952D441, .vfma (.r fR)), (0x041D146A80000005, .vfma (.i fI)), (0x051C1461C952D441, .vfms (.r fR)),
  (0x051D146A80000005, .vfms (.i fI)), (0x061C1461C952D441, .vfnma (.r fR)), (0x061D146A80000005, .vfnma (.i fI)),
  (0x071C1461C952D441, .vmin (.r fR)), (0x071D146A80000005, .vmin (.i fI)), (0x081C1461C952D441, .vmax (.r fR)),
  (0x081D146A80000005, .vmax (.i fI)), (0x091C1461C952D441, .vabs (.r fR)), (0x091D146A80000005, .vabs (.i fI)),
  (0x0A1C1461C952D441, .vneg (.r fR)), (0x0A1D146A80000005, .vneg (.i fI)), (0x0B1C1461C952D441, .vcps (.r fR)),
  (0x0B1D146A80000005, .vcps (.i fI)), (0x101C1461C952D441, .vrcps fR), (0x111C1461C952D441, .vrsqs fR),
  (0x121C1461C952D441, .vexp2s fR), (0x131C1461C952D441, .vlog2s fR), (0x181C1461C952D441, .vcvt fR),
  (0x191C1461C952D441, .vpack fR), (0x1A1C1461C952D441, .vunpk fR)] = true := by
  decide +kernel

/-- R138 to R140: the operations of the family `vector_move` (V class), one word for each form. -/
theorem test_decode_vector_move : reads .v [
  (0x201C1461C952D441, .vcmp fR), (0x211C1461C952D441, .vsel fR), (0x221C1461C952D441, .vmov fR),
  (0x231C1461C952D441, .vbcst (.r fR)), (0x231D146A80000005, .vbcst (.i fI)), (0x241C1461C952D441, .viota fR),
  (0x251C1461C952D441, .vshf fR), (0x261C1461C952D441, .vperm fR), (0x271C1461C952D441, .vrot fR),
  (0x281C1461C952D441, .vred fR), (0x291C1461C952D441, .vscan fR)] = true := by
  decide +kernel

/-- R138 to R140: the operations of the family `vector_integer` (V class), one word for each form. -/
theorem test_decode_vector_integer : reads .v [
  (0x301C1461C952D441, .viadd (.r fR)), (0x301D146A80000005, .viadd (.i fI)), (0x311C1461C952D441, .visub (.r fR)),
  (0x311D146A80000005, .visub (.i fI)), (0x321C1461C952D441, .vimul (.r fR)), (0x321D146A80000005, .vimul (.i fI)),
  (0x331C1461C952D441, .vand (.r fR)), (0x331D146A80000005, .vand (.i fI)), (0x341C1461C952D441, .vor (.r fR)),
  (0x341D146A80000005, .vor (.i fI)), (0x351C1461C952D441, .vxor (.r fR)), (0x351D146A80000005, .vxor (.i fI)),
  (0x361C1461C952D441, .vshl (.r fR)), (0x361D146A80000005, .vshl (.i fI)), (0x371C1461C952D441, .vshr (.r fR)),
  (0x371D146A80000005, .vshr (.i fI)), (0x381C1461C952D441, .vsra (.r fR)), (0x381D146A80000005, .vsra (.i fI)),
  (0x391C1461C952D441, .vclz (.r fR)), (0x391D146A80000005, .vclz (.i fI)), (0x3A1C1461C952D441, .vpopc (.r fR)),
  (0x3A1D146A80000005, .vpopc (.i fI)), (0x401C1461C952D441, .vord fR), (0x411C1461C952D441, .vdig fR),
  (0x481C1461C952D441, .vamax fR), (0x491C1461C952D441, .vqnt fR), (0x4A1C1461C952D441, .vdqnt fR)] = true := by
  decide +kernel

/-- R138 to R140: the operations of the family `vector_memory` (V class), one word for each form. -/
theorem test_decode_vector_memory : reads .v [
  (0x501E14C3E0570005, .vld fM), (0x511E14C3E0570005, .vst fM), (0x521E14C3E0570005, .vldg fM), (0x531E14C3E0570005, .vsts fM),
  (0x541E14C3E0570005, .vhadd fM)] = true := by
  decide +kernel

/-- R138 to R140: the operations of the family `geometry` (V class), one word for each form. -/
theorem test_decode_geometry : reads .v [
  (0x601C1461C952D441, .go2d fR), (0x611C1461C952D441, .go3d fR), (0x621C1461C952D441, .ginc fR),
  (0x631C1461C952D441, .gins fR), (0x641C1461C952D441, .gseg fR)] = true := by
  decide +kernel

/-- R138 to R140: the operations of the family `matrix` (M class), one word for each form. -/
theorem test_decode_matrix : reads .m [
  (0x011C1461C952D441, .tclm fR), (0x021C1461C952D441, .trls fR), (0x031E14C3E0570005, .tld fM), (0x041C1461C952D441, .mma fR),
  (0x051C1461C952D441, .mmas fR), (0x061C1461C952D441, .mzro fR), (0x071E14C3E0570005, .mst fM),
  (0x081C1461C952D441, .macc fR), (0x091C1461C952D441, .mtrn fR), (0x101C1461C952D441, .bdset (.r fR)),
  (0x101D146A80000005, .bdset (.i fI)), (0x111E14C3E0570005, .cord fM), (0x121C1461C952D441, .tcon fR),
  (0x131C1461C952D441, .tchn fR), (0x141C1461C952D441, .tbnd fR), (0x201C1461C952D441, .catt fR),
  (0x211C1461C952D441, .capp fR), (0x221C1461C952D441, .cstb fR)] = true := by
  decide +kernel

/-- R138 to R140: the operations of the family `latch` (Q class), one word for each form. -/
theorem test_decode_latch : reads .q [
  (0x011E14C3E0570005, .qld fM), (0x021C1461C952D441, .qset (.r fR)), (0x021D146A80000005, .qset (.i fI))] = true := by
  decide +kernel

/-- R138 to R140: the operations of the family `command` (C class), one word for each form. -/
theorem test_decode_command : reads .c [
  (0x011F814D2141C305, .cpy fC), (0x021F814D2141C305, .tmov fC), (0x031F814D2141C305, .gsx fC), (0x041F814D2141C305, .fstt fC),
  (0x051F814D2141C305, .fstl fC), (0x061F814D2141C305, .xlnk fC), (0x071F814D2141C305, .wstr fC),
  (0x081F814D2141C305, .tful fC), (0x091F814D2141C305, .temp fC)] = true := by
  decide +kernel

/-- R131: the all-zero word is NOP in every class; any other word with OP 0 is not. -/
theorem test_decode_nop : Decode.slotWord .s 0 = .ok (.nop .s) ∧ Decode.slotWord .c 0 = .ok (.nop .c) ∧
    Decode.slotWord .v 1 = .error 4 ∧ Decode.slotWord .m (1 <<< 48) = .error 3 := by decide +kernel

/-! ### Well-formedness: one ill-formed term for each check -/

/-- A register form with nothing set. -/
def r0 : RForm := ⟨0, false, 0, 0, 0, 0, 0, 0, 0, false, 0⟩
/-- An immediate form with nothing set. -/
def i0 : IForm := ⟨0, false, 0, 0, 0, 0⟩
/-- A memory form with nothing set. -/
def m0 : MForm := ⟨0, false, 0, 0, 0, false, 0, 0, 0⟩
/-- A command form with nothing set. -/
def c0 : CForm := ⟨0, false, 0, 0, 0, 0, 0, 0, 0⟩

/-- R130: register fields beyond the file of p, a, z, ts, k and latch registers. -/
theorem smoke_register_beyond_its_file :
    (Instr.pand { r0 with d := 32 }).wellFormed = false ∧ (Instr.pand { r0 with b := 40 }).wellFormed = false ∧
    (Instr.bri { r0 with a := 32 }).wellFormed = false ∧ (Instr.mzro { r0 with d := 8 }).wellFormed = false ∧
    (Instr.trls { r0 with a := 16 }).wellFormed = false ∧ (Instr.tkrd { r0 with a := 16 }).wellFormed = false ∧
    (Instr.qld { m0 with d := 4 }).wellFormed = false ∧ (Instr.mzro { r0 with d := 7 }).wellFormed = true := by decide +kernel

/-- R123: a field that the operation does not use must be zero. -/
theorem smoke_unused_field :
    (Instr.pand { r0 with c := 1 }).wellFormed = false ∧ (Instr.mzro { r0 with a := 1 }).wellFormed = false ∧
    (Instr.add (.r { r0 with dt := 4, sub := 1 })).wellFormed = false ∧ (Instr.movi { i0 with dt := 4, a := 1 }).wellFormed = false ∧
    (Instr.add (.r { r0 with dt := 4, c := 1 })).wellFormed = false ∧ (Instr.add (.r { r0 with dt := 4 })).wellFormed = true := by
  decide +kernel

/-- R129: reserved type and rounding codes, cause 0x04; types, roundings and SAT that the operation does not have, cause 0x05. -/
theorem smoke_types_and_rounding :
    Legality.cause (.add (.r { r0 with dt := 18 })) = some 4 ∧ Legality.cause (.fcvt (.r { r0 with dt := 9, st := 31 })) = some 4 ∧
    Legality.cause (.fadd (.r { r0 with dt := 9, rm := 5 })) = some 4 ∧ Legality.cause (.add (.r { r0 with dt := 9 })) = some 5 ∧
    Legality.cause (.add (.r { r0 with dt := 4, rm := 1 })) = some 5 ∧ Legality.cause (.and (.r { r0 with dt := 4, sat := true })) = some 5 ∧
    Legality.cause (.add (.i { i0 with dt := 9 })) = some 5 ∧ Legality.cause (.ld { m0 with dt := 17 }) = some 5 ∧
    Legality.cause (.fadd (.r { r0 with dt := 9, rm := 4 })) = some 5 ∧
    Legality.cause (.fcvt (.r { r0 with dt := 9, st := 4, rm := 4 })) = none := by decide +kernel

/-- R122: a guard on an operation that takes none, cause 0x06. -/
theorem smoke_guard :
    Legality.cause (.loop ⟨1, false, 0, 0⟩) = some 6 ∧ Legality.cause (.halt { r0 with pneg := true }) = some 6 ∧
    Legality.cause (.add (.r { r0 with dt := 4, pred := 31, pneg := true })) = none := by decide +kernel

/-- R79: a landing load that promises its data within no time, cause 0x0A. -/
theorem smoke_landing_distance :
    Legality.cause (.ldl { m0 with dt := 4 }) = some 0xA ∧ Legality.cause (.ldl { m0 with dt := 4, disp := 0x80 }) = none := by
  decide +kernel

/-- An event of the machine has no fields to be ill-formed, and is no operation. -/
theorem smoke_event : Instr.trapEntry.wellFormed = true ∧ Instr.trapEntry.isOp = false := by decide +kernel

/-! ### Results by the spec's rules, each on one issue -/

/-- The state after reset, with s1, s2 and s3 set, and slot `k` executing. -/
def st (k : Slot) (x y z : Word) : State :=
  { State.reset with ctx := { State.reset.ctx with
      sreg := ((State.reset.ctx.sreg.set 1 x).set 2 y).set 3 z, now := { State.reset.ctx.now with slot := k } } }

/-- The values that operation `i` leaves in flight at state `s`, for scalar registers: due time, register and value. -/
def posted (i : Instr) (s : State) : List (Nat × Nat × Word) :=
  match exec i s with
  | .next t => t.slot.flights.flatMap fun f => f.effs.filterMap fun e =>
      match e with
      | .reg r v => some (f.due, r.num, v)
      | _ => none
  | _ => []

/-- D 9, A 1, B 2, C 3 with type code `dt`. -/
def rr (dt : BitVec 5) : RForm := { r0 with d := 9, a := 1, b := 2, c := 3, dt := dt }

/-- R146: .i8 sums wrap, or clamp with .sat; R75: due after 1 cycle. -/
theorem test_add_wraps_and_clamps :
    posted (.add (.r (rr 1))) (st 0 0x7F 1 0) = [(1, 9, 0xFFFFFFFFFFFFFF80)] ∧
    posted (.add (.r { rr 1 with sat := true })) (st 0 0x7F 1 0) = [(1, 9, 0x7F)] := by decide +kernel

/-- R146, R147: a difference below zero clamps to zero for an unsigned type; ABS of the most negative number wraps. -/
theorem test_sub_and_abs :
    posted (.sub (.r { rr 5 with sat := true })) (st 0 1 2 0) = [(1, 9, 0)] ∧
    posted (.abs (.r { rr 3 with b := 0 })) (st 0 0x80000000 0 0) = [(1, 9, 0xFFFFFFFF80000000)] := by decide +kernel

/-- R147: the high half of a signed and of an unsigned product differ. -/
theorem test_mulh :
    posted (.mulh (.r (rr 4))) (st 0 (-1) 2 0) = [(3, 9, 0xFFFFFFFFFFFFFFFF)] ∧
    posted (.mulhb (.r (rr 8))) (st 0 (-1) 2 0) = [(3, 9, 1)] := by decide +kernel

/-- R148: division by zero, the one overflow, and truncation toward zero. -/
theorem test_division :
    posted (.div (.r (rr 4))) (st 0 7 0 0) = [(20, 9, 0xFFFFFFFFFFFFFFFF)] ∧
    posted (.div (.r (rr 1))) (st 0 0x80 0xFF 0) = [(20, 9, 0xFFFFFFFFFFFFFF80)] ∧
    posted (.div (.r (rr 4))) (st 0 (-7) 2 0) = [(20, 9, -3)] ∧
    posted (.rem (.r (rr 4))) (st 0 (-7) 2 0) = [(20, 9, -1)] := by decide +kernel

/-- R149: a count of the width or more shifts everything out; a rotation takes the count modulo the width. -/
theorem test_shifts :
    posted (.shl (.r (rr 7))) (st 0 1 32 0) = [(1, 9, 0)] ∧ posted (.sra (.r (rr 2))) (st 0 0x8000 99 0) = [(1, 9, -1)] ∧
    posted (.rot (.r (rr 5))) (st 0 0x81 9 0) = [(1, 9, 0x03)] := by decide +kernel

/-- R147: counting zeros of zero, and bytes reversed within the type. -/
theorem test_counts_and_bytes :
    posted (.clz (.r { rr 6 with b := 0 })) (st 0 0 0 0) = [(1, 9, 16)] ∧
    posted (.bswap (.r { rr 6 with b := 0 })) (st 0 0x1234 0 0) = [(1, 9, 0x3412)] := by decide +kernel

/-- R130: a write of s0 is discarded, and R121: a guard that is false issues nothing. -/
theorem test_s0_and_guard :
    posted (.add (.r { rr 4 with pred := 1 })) (st 0 1 2 0) = [] ∧
    posted (.add (.r { rr 4 with pred := 1, pneg := true })) (st 0 1 2 0) = [(1, 9, 3)] ∧
    (State.reset.applyEff false 0 (.reg ⟨.s, 0⟩ 5)).rs 0 = 0 ∧ (State.reset.applyEff false 0 (.reg ⟨.p, 0⟩ 5)).rp 0 = BitVec.allOnes 64 := by decide +kernel

/-- R154: 1.0 + 1.0 in binary32; R155: 1.0 / 0.0 is an infinity. -/
theorem test_floats :
    posted (.fadd (.r (rr 9))) (st 0 0x3F800000 0x3F800000 0) = [(4, 9, 0x40000000)] ∧
    posted (.fdiv (.r (rr 9))) (st 0 0x3F800000 0 0) = [(4, 9, 0x7F800000)] := by decide +kernel

/-- R157: 2.5 to an integer, to nearest even and upward; a value beyond the range clamps. -/
theorem test_conversion :
    posted (.fcvt (.r { rr 4 with b := 0, c := 0, st := 9 })) (st 0 0x40200000 0 0) = [(4, 9, 2)] ∧
    posted (.fcvt (.r { rr 4 with b := 0, c := 0, st := 9, rm := 2 })) (st 0 0x40200000 0 0) = [(4, 9, 3)] ∧
    posted (.fcvt (.r { rr 1 with b := 0, c := 0, st := 9 })) (st 0 0x43800000 0 0) = [(4, 9, 0x7F)] := by decide +kernel

/-! ### States and operands that meet the hypotheses of the statements -/

/-- A change to the focused context. -/
def ctx (f : Ctx → Ctx) (s : State := State.reset) : State := { s with ctx := f s.ctx }
/-- The reset state with a1 and a2 set. -/
def ptr (x y : Word) : State := ctx fun c => { c with areg := (c.areg.set 1 x).set 2 y }
/-- The reset state with p1 and p2 set. -/
def prd (x y : Word) : State := ctx fun c => { c with preg := (c.preg.set 1 x).set 2 y }

/-- ScalarArithmetic, ShiftsAtEveryCount, BitOperations, SelectsImmediatesAndCompares: the least and the greatest type code, without
SAT; a count beyond 64. -/
theorem test_witness_integer_types :
    (1 ≤ dtOf (.r (rr 1)) ∧ dtOf (.r (rr 1)) ≤ 8 ∧ satOf (.r (rr 1)) = false) ∧
    (1 ≤ dtOf (.i { i0 with dt := 8 }) ∧ dtOf (.i { i0 with dt := 8 }) ≤ 8 ∧ satOf (.i { i0 with dt := 8 }) = false) ∧
    (countOf (st 0 1 65 0) (.r (rr 1))).toNat = 65 ∧ ((rr 8).sub.toNat ≤ 5) ∧ ((0xA0000000 : W32).toNat / 2 ^ 29 ≤ 5) ∧
    (dtOf (.r (rr 4)) = 4 ∧ dtOf (.r (rr 8)) = 8) := by decide +kernel

/-- DivisionNeverTraps: each of its three cases. -/
theorem test_witness_division :
    typeVal 4 (bOf (st 0 7 0 0) (.r (rr 4))) = 0 ∧
    (typeVal 1 (aOf (st 0 0x80 0xFF 0) (.r (rr 1))) = -2 ^ (typeBits 1 - 1) ∧ typeVal 1 (bOf (st 0 0x80 0xFF 0) (.r (rr 1))) = -1) ∧
    (typeVal 8 (bOf (st 0 7 0xFF 0) (.r (rr 8))) ≠ 0) := by decide +kernel

/-- PointerOperations: the reset state numbers its core and die within range; a pointer that is not global, one in no window and one
in the second of two windows, not in the first. -/
theorem test_witness_pointers :
    State.reset.ctx.core < 512 ∧ State.reset.ddie < 256 ∧ (0x8000000000000000 : Word).extractLsb' 48 16 ≠ 0 ∧
    (∀ w ∈ State.reset.ctx.windows, ¬ covers w 0) ∧
    (let l : List WinEntry := [⟨0, 15, 0, 0, 1, 0⟩, ⟨1, 15, 0, 0, 1, 0⟩]
     (0x1FFF : Word).extractLsb' 48 16 = 0 ∧ l[1]? = some ⟨1, 15, 0, 0, 1, 0⟩ ∧ covers ⟨1, 15, 0, 0, 1, 0⟩ 0x1FFF ∧
       ∀ j < 1, ∀ v ∈ l[j]?, ¬ covers v 0x1FFF) := by decide +kernel

/-- SpaceTest, PredicateOperations: a class that its mask names and one that it does not; the greatest count of PSET. -/
theorem test_witness_masks_and_counts :
    ((1 : Nat).testBit 0 = true ∧ (0 : Word).msb = false) ∧ (1 : Nat).testBit 1 = false ∧ ({ r0 with sub := 64 } : RForm).sub.toNat ≤ 64 := by
  decide +kernel

/-- An open level. -/
def lvl : Level := ⟨0, 5, 2, 12, 100, 0, 0, 1⟩
/-- The reset state with two levels open, p1 all ones. -/
def looped : State := ctx (fun c => { c with pipe := { c.pipe with levels := [lvl, lvl] } }) (prd (BitVec.allOnes 64) 0)

/-- ControlTransfers, HardwareLoopsAndHalt: a target that is a multiple of 4 and one that is not; a branch taken and one not; LBRK
not taken, with nothing to close, and closing two levels; LCNT of a level that is open and of one that is not. -/
theorem test_witness_transfers_and_loops :
    ((ptr 4 0).ra 1).toNat % 4 = 0 ∧ ((ptr 6 0).ra 1).toNat % 4 ≠ 0 ∧
    ((prd 1 0).rp 1).getLsbD 0 = true ∧ ((prd 1 0).rp 2).getLsbD 0 = false ∧
    min (0 : Nat) looped.ctx.pipe.activeCount = 0 ∧ min (7 : Nat) looped.ctx.pipe.activeCount = 2 ∧
    looped.ctx.pipe.levels[1]? = some lvl ∧ (looped.rp 1).getLsbD 0 = true ∧
    ([] : List Level).length ≤ 0 ∧ [lvl, lvl][2 - 1 - 1]? = some lvl ∧ (0 : Word) + (0 : Word) = 0 := by decide +kernel

/-- RoundingPicksTheRightNeighbour: an exact value, one that is not, and a tie. -/
theorem test_witness_rounding : (2 ^ 1 ∣ 4) ∧ ¬ (2 ^ 1 ∣ 3) ∧ 2 * 3 % 2 ^ (1 + 1) = 2 ^ 1 := by decide +kernel

/-- FloatArithmetic, FloatComparesAndClasses, FloatConversions: the least and the greatest float type code, and patterns of binary32
that meet each clause: finite values, zeros, infinities, NaNs, a negative number. -/
theorem test_witness_floats :
    ratVal (Fp.decode Fp.f32 0x3F800000) = some 1 ∧ (9 ≤ dtOf (.r (rr 9)) ∧ dtOf (.r (rr 11)) ≤ 11) ∧
    (Fp.decode Fp.f32 0x7FC00000).isNaN = true ∧ (Fp.decode Fp.f32 0x3F800000).isNaN = false ∧
    Fp.decode Fp.f32 0x80000000 = .fin true 0 (-149) ∧ Fp.decode Fp.f32 0 = .fin false 0 (-149) ∧
    Fp.decode Fp.f32 0xBF800000 = .fin true (8388607 + 1) (-23) ∧ Fp.decode Fp.f32 0xFF800000 = .inf true ∧
    Fp.decode Fp.f32 0x7F800000 = .inf (!true) := by
  have one : Fp.decode Fp.f32 0x3F800000 = .fin false 8388608 (-23) := by decide +kernel
  exact ⟨by rw [one]; norm_num [ratVal], by decide +kernel⟩

/-- FloatArithmetic: infinities of both signs, of equal and of opposite sign, beside a number, a zero and a NaN, quiet and signalling; nonzero
significands. -/
theorem test_witness_infinities :
    let x (n : Nat) : Fp.FVal := Fp.decode Fp.f32 n
    (x 0x7F800000 = .inf false ∧ (x 0x3F800000).isNaN = false ∧ x 0x3F800000 ≠ .inf (!false) ∧ x 0xFF800000 = .inf true) ∧
    (x 0x7F800000 = .inf (x 0x7F800000).sign ∧ (x 0).isZero = true ∧ (x 0x3F800000).isZero = false) ∧
    ((x 0x7F800001).isNaN = true ∧ (x 0x7F800001).isSig = true ∧ (x 0x7FC00000).isSig = false) ∧ (8388608 : Nat) ≠ 0 := by decide +kernel

/-- RoundingPicksTheRightNeighbour: in the row of binary e3m2, whose largest value is 28 in units of 4, magnitudes up to that, beyond it, at
the threshold of .rne and at that of .rsto; in the row of e4m3 the threshold itself, which does not overflow. -/
theorem test_witness_overflow :
    ((1 : ℚ) * 2 ^ (0 : Int) ≤ 28 ∧ (28 : ℚ) < 29 * 2 ^ (0 : Int)) ∧ (30 : ℚ) * 2 ^ (0 : Int) = 28 + 4 / 2 ∧ (28 + 4 : ℚ) ≤ 32 * 2 ^ (0 : Int) ∧
    (464 : ℚ) * 2 ^ (0 : Int) = 448 + 32 / 2 ∧ ((29 : Nat) ≠ 0 ∧ Fp.Mode.rz ≠ .rup ∧ Fp.e3m2 ≠ Fp.e4m3) := by
  refine ⟨by norm_num, by norm_num, by norm_num, by norm_num, by decide⟩

/-- FloatConversions: an integer from a float, a float from an integer, .rsto. -/
theorem test_witness_conversions :
    (let f := { rr 4 with st := 9 }
     1 ≤ f.dt.toNat ∧ f.dt.toNat ≤ 11 ∧ 1 ≤ f.st.toNat ∧ f.st.toNat ≤ 11 ∧ (f.dt.toNat ≤ 8 → 9 ≤ f.st.toNat) ∧ f.rm.toNat ≤ 4) ∧
    (let f := { rr 11 with st := 1, rm := 4 }
     1 ≤ f.dt.toNat ∧ f.dt.toNat ≤ 11 ∧ 1 ≤ f.st.toNat ∧ f.st.toNat ≤ 11 ∧ (f.dt.toNat ≤ 8 → 9 ≤ f.st.toNat) ∧ f.rm.toNat ≤ 4 ∧
       Fp.Mode.ofCode f.rm = .rsto) := by decide +kernel

/-- A window of 16 pages that may be read, at device-virtual page 0x100. -/
def win : WinEntry := ⟨0x10, 1, 0, 0, 16, 0x100⟩
/-- The reset state with that window, a1 and a2 set. -/
def winPtr (x y : Word) : State := ctx (fun c => { c with windows := [win] }) (ptr x y)

/-- PointerChecksInOrder: the least and the greatest size; a pointer refused for each reason; control space at user level; a pocket
of another core, and this core's under both its names; accesses that end at the end of each memory, and one byte beyond; a
misaligned one; a window missed, found, without permission and left. -/
theorem test_witness_pointer_checks :
    let s := winPtr 0 0
    let x (n : Nat) : Access := ⟨.read, n, true, false⟩
    (0 < (x 1).size ∧ (x 4096).size ≤ 4096) ∧
    s.check (x 8) 0xFF00000000000000 = .error ⟨1, 0x24, 0⟩ ∧ s.check (x 8) 0x0001000000010000 = .error ⟨1, 0x24, 0⟩ ∧
    s.check (x 8) 0x8000000000200000 = .error ⟨1, 0x24, 0⟩ ∧ s.check (x 8) 0x84FF000000010000 = .error ⟨1, 0x24, 0⟩ ∧
    s.check ⟨.read, 8, true, true⟩ 0x10000 = .error ⟨1, 0x24, 0⟩ ∧ s.check (x 8) 0x8800000000000000 = .error ⟨2, 0x02, 2⟩ ∧
    s.check (x 8) 0x8000800000000000 = .error ⟨3, 0x23, 0⟩ ∧ s.check (x 8) 0x800000000017FFF8 = .ok (.port (pocketKey 0 0x17FFF8)) ∧
    s.check (x 8) 0x80FF80000017FFF8 = .ok (.port (pocketKey 0 0x17FFF8)) ∧ s.check (x 8) 0x800000000017FFFC = .error ⟨5, 0x22, 0⟩ ∧
    s.check (x 8) 0x8000000000000004 = .error ⟨6, 0x22, 1⟩ ∧ s.check (x 8) 0x8100000000FFFFF8 = .ok (.port (basketKey 0 0xFFFFF8)) ∧
    s.check (x 8) 0x8200000003FFFFF8 = .ok (.port (hamperKey 0 0x3FFFFF8)) ∧ s.check (x 8) 0xFFF8 = .error ⟨4, 0x21, 0⟩ ∧
    s.check (x 8) 0x10000 = .ok (.virt 0 0x100000) ∧ s.check (x 8) 0x8400000000010000 = .ok (.remote 0 0 0x100000) ∧
    s.check ⟨.write, 8, true, false⟩ 0x10000 = .error ⟨4, 0x21, 0⟩ ∧ s.check ⟨.read, 16, false, false⟩ 0x1FFF8 = .error ⟨5, 0x22, 0⟩ := by
  decide +kernel

/-- LoadsAndStores: the greatest type code; every lane of a vector access in the pocket; a lane whose check fails before the others. -/
theorem test_witness_loads_and_stores :
    ({ m0 with dt := 11 } : MForm).dt.toNat ≤ 11 ∧
    (let s := State.reset.mapSlot fun x => { x with ea := 0x8000000000000000 }
     ∀ l ∈ List.range 64, s.check ⟨.read, 4, false, true⟩ ((stdAddr s m0 256 + BitVec.ofNat 64 (4 * l)) &&& ~~~3) =
       .ok (.port (pocketKey 0 (4 * l)))) ∧
    (State.reset.check ⟨.read, 4, false, true⟩ (stdAddr State.reset m0 256 &&& ~~~3) = .error ⟨1, 0x24, 0⟩) := by decide +kernel

/-- PocketBytesAreLittleEndian, Atomics: memory in its canonical form, nothing poisoned, the type codes and sizes at their ends. -/
theorem test_witness_memory_operations :
    Mem.wf State.reset.mem = true ∧ State.reset.poison = [] ∧ typeBytes 11 = 2 ∧ (16 ≤ 16) ∧ 8 = typeBytes 8 ∧ 1 = typeBytes 1 ∧
    State.reset.ctx.landings.length < 16 := by decide +kernel

/-- Synchronisation: an object that passes its checks, nothing under way. -/
theorem test_witness_sync_objects :
    let s := ptr 0x8000000000000040 0
    (s.mapSlot fun x => { x with ea := 0x8000000000000040 }).acts 0 false = true ∧ s.reqs = [] ∧ s.resps = [] ∧
    (s.mapSlot fun x => { x with ea := 0x8000000000000040 }).check ⟨.atomic, 8, true, false⟩ 0x8000000000000040 =
      .ok (.port (pocketKey 0 0x40)) := by decide +kernel

/-- Nothing is under way, and nothing is kept by a trap or an interrupt. -/
theorem quiet_of {s : State} (h : s.reqs = [] ∧ s.resps = [] ∧ s.ctx.releases = [] ∧
    (∀ x ∈ s.ctx.pipe.slots, x.flights = [] ∧ s.ctx.now.issue.start ≤ x.pos) ∧ s.ctx.trapped = none ∧ s.ctx.uiSaved = none) : Quiet s :=
  ⟨h.1, h.2.1, h.2.2.1, h.2.2.2.1, fun q e => by simp [h.2.2.2.2.1] at e, fun q e => by simp [h.2.2.2.2.2] at e⟩

/-- No access has been made, and nothing is raised. -/
theorem foremost_of {s : State} (h : s.history = [] ∧ s.ctx.behindBarrier s.ctx.now.issue.idx = false ∧ s.ctx.raised = []) : Foremost s :=
  ⟨fun w e => by simp [h.1] at e, h.2.1, fun r e => by simp [h.2.2] at e⟩

/-- Slot S at the first issue is in order. -/
theorem inOrder_first (s : State) (h : s.ctx.now.issue.idx = 0) (k : s.k.val = 0) : InOrder s := by
  intro j x _ _
  exact ⟨h ▸ Nat.zero_le _, fun l => absurd (k ▸ l) (Nat.not_lt_zero _)⟩

/-- PocketBytesAreLittleEndian: nothing but memory's own is to be seen; lanes at one offset and at two. -/
theorem test_witness_pocket_vectors :
    Mem.wf State.reset.mem = true ∧ State.reset.poison = [] ∧ State.reset.plainly (State.reset.originOf 0 1) = true ∧
    (let ls : List (Nat × Nat) := [(0, 8), (63, 8)]
     (∀ l ∈ ls, l.1 < 64) ∧ ls.Pairwise (fun x y => x.1 ≠ y.1)) ∧
    (let ls : List (Nat × W32) := [(8, 1), (8, 2), (12, 3)]
     ∀ l ∈ ls, l.1 % 4 = 0) := by decide +kernel

/-- Atomics: the type codes of floats and a size that is theirs; a write kept in the history comes after no other. -/
theorem test_witness_atomics :
    (2 = typeBytes 10 ∧ 9 ≤ 10 ∧ 10 ≤ 11) ∧ State.reset.history = [] ∧ Fp.decode (Fp.ofCode 10) 0x7C00 = .inf false ∧
    (Fp.decode (Fp.ofCode 10) 0x7E00).isNaN = true := by decide +kernel

/-- What another context, 7, did: a write of one byte, performed at DOMAIN scope, and its arrival at barrier 3 and its superstep, released. -/
def shared : State :=
  let o : Origin := { Agent.origin (.ctx 7) with idx := 0 }
  let seat : Seat := State.reset.ctx.seat
  let w : Past := ⟨5, o, [(40, [0])], [], [], [⟨4, seat, none⟩]⟩
  { State.reset with
    history := [w]
    released := [⟨.arrival (0, 0) 3, 0, .ctx 7, seat, 1, [(1, w.whole)]⟩, ⟨.object 64, 1, .ctx 7, seat, 4, [(4, w.whole)]⟩] }

/-- Synchronisation, BarriersAndSupersteps: an access performed at a scope that its agent shares with the context, under no window; the
releases of a phase that is passed. -/
theorem test_witness_shared :
    (∃ w ∈ shared.history, w.agent ≠ .ctx shared.ctx.uid ∧ ∃ h ∈ w.shared, 0 < 4 ∧
      shared.narrow shared.ctx 4 w ⟨w.num, h.part, 0⟩ = [(4, ⟨w.num, h.part, 0⟩)] ∧ 4 ≤ h.scope ∧ h.seat.shares shared.ctx.seat 4 = true) ∧
    (∃ r ∈ shared.released, r.gate = .arrival (0, 0) 3 ∧ r.number ≤ 0 ∧ ∃ a ∈ r.acts, (shared.past a.2.num).isSome = true ∧
      (∀ x ∈ shared.ctx.windows, a.1 ≤ x.scope.toNat) ∧ r.seat.shares shared.ctx.seat a.1 = true) := by decide +kernel

/-- The reset state with one counter: issued 5, done 2, and a poisoned number. -/
def counted (p : Nat) : State :=
  ctx fun c => { c with tcs := c.tcs.set 0 ⟨5, 2, [], if p = 0 then [] else [p], none⟩ }
/-- A write of an earlier bundle of the focused context that is on its way. -/
def busy : State :=
  let s := ctx fun c => { c with now := { c.now with issue := { c.now.issue with start := 1 } } }
  { s with reqs := [{ s.newReq 0 (.virt 0 0) (.write [0]) 0 none with idx := 0 }] }

/-- Synchronisation, BarriersAndSupersteps: a slot that is ready and acts, with nothing under way, and with a write under way. -/
theorem test_witness_ready_and_quiet :
    Ready State.reset ∧ State.reset.acts 0 false = true ∧ Quiet State.reset ∧ Ready busy ∧ busy.acts 0 false = true ∧ WriteOnItsWay busy := by
  have quiet : Ready State.reset ∧ State.reset.acts 0 false = true := by unfold Ready; decide +kernel
  have go : Ready busy ∧ busy.acts 0 false = true := by unfold Ready; decide +kernel
  exact ⟨quiet.1, quiet.2, quiet_of (by decide +kernel), go.1, go.2, _, List.mem_singleton.mpr rfl, by decide, by decide, _, rfl⟩

/-- Synchronisation: a number done, one poisoned, one issued that is not done, one not issued; the lowest poisoned number next to
DONE and beyond. -/
theorem test_witness_timelines :
    let c (p : Nat) := (counted p).ctx.tcval 0
    2 ≤ (c 0).done ∧ ((c 3).done < 3 ∧ (c 3).poisoned.headD 0 = 3) ∧ ((c 0).done < 5 ∧ (c 0).poisoned.headD 0 = 0 ∧ 5 ≤ (c 0).issued) ∧
    (c 0).issued < 6 ∧ (c 3).poisoned ≠ [] ∧ (c 3).early = [] ∧ (c 5).poisoned.headD 0 ≠ (c 5).done + 1 ∧
    Ready (counted 3) ∧ (counted 3).acts 0 false = true := by
  unfold Ready; decide +kernel

/-- BarriersAndSupersteps: an arrival that completes the count and one that does not; a phase passed and one not; a superstep waited
for that completes, and one that does not. -/
theorem test_witness_barriers :
    let x := State.reset.barrier (0, 0) 3
    (State.reset.ctx.teamSize ≤ x.arrived + 1 ∧ x.phase + 1 < 2 ^ 64) ∧ x.arrived + 1 < 2 ∧ ¬ 0 < x.phase ∧
    (let s := { State.reset with barriers := [⟨(0, 0), 3, 0, 0, 1⟩] }
     0 < (s.barrier (0, 0) 3).phase) ∧
    (let s (n : Nat) := ctx (fun c => { c with run := .running, ssteps := c.ssteps.set 1 n })
        (State.reset.mapSlot fun x => { x with wait := some (.sstep 1 (some 1)) })
     ((s 1).ctx.slot 0).wait = some (.sstep 1 (some 1)) ∧ (s 1).unplaced (s 1).ctx 1 = false ∧
       (∀ x ∈ (s 1).ctx :: (s 1).others, x.run ≠ .empty → inSet (s 1) (s 1).ctx 1 x = true → 1 ≤ x.sstepCount 1) ∧
       ∃ x ∈ (s 0).ctx :: (s 0).others, x.run ≠ .empty ∧ inSet (s 0) (s 0).ctx 1 x = true ∧ x.run = .running ∧ ¬ 1 ≤ x.sstepCount 1) := by
  decide +kernel

/-- The reset state with arm entries. -/
def armed (l : List (Option Arm)) : State := ctx fun c => { c with arms := l }

/-- ArmsAndCompletionInterrupts: no entry free; the second entry the lowest free one. -/
theorem test_witness_arms :
    let a : Arm := ⟨false, 3, 1, true, false⟩
    (∀ x ∈ (armed (List.replicate 8 (some a))).ctx.arms, x ≠ none) ∧
    (armed [some a, none]).ctx.arms[1]? = some none ∧ (∀ j < 1, (armed [some a, none]).ctx.arms[j]? ≠ some none) ∧
    (armed [some a, none]).acts 0 false = true := by decide +kernel

/-- RemoteOperations: tickets pending and none; a slot that is ready and acts. -/
theorem test_witness_tickets :
    (let h : Word := 0x8000000000000005
     let s : State := { State.reset with tickets := [⟨0, 5, 0, true, []⟩] }
     h.getLsbD 63 = true ∧ (s.ticket s.ddie 5).pending = true ∧ (s.ticket s.ddie 5).gen = h.extractLsb' 32 16 ∧ Ready s ∧
       s.acts 0 false = true) ∧ (State.reset.rk 0).getLsbD 63 = false := by
  unfold Ready; decide +kernel

/-- A raised trap of class `cls` and cause `cause` at slot S, or a context error. -/
def raised (cls cause : Byte) (late : Bool := false) : Raised :=
  ⟨0, 0, cls, cause, 0, 0, 0, 0, Site.none, [], [], true, late⟩
/-- A running context of grid 1 that handles its traps at 0x1000, its record in tile 1, with one trap raised, by an issue that every
slot has consumed. -/
def trapping : State :=
  ctx fun c => { c with run := .running, grid := 1, trapvec := 0x1000, traprec := 0x1001, raised := [raised 0x0B 0]
                        pipe := { c.pipe with count := 1, slots := c.pipe.slots.map fun x => { x with pos := 1 } } }

/-- SoftwareTraps: DBG set and clear; a trap that is unhandled for each of its reasons, and one that is handled. -/
theorem test_witness_software_traps :
    (0x80 : Word).getLsbD 7 = true ∧ State.reset.ctx.ctxstat.getLsbD 7 = false ∧ State.reset.ctx.trapvec &&& ~~~3 = 0 ∧
    (0x1000 : Word).getLsbD 0 = false ∧ (4 : Word).getLsbD 2 = true ∧
    ¬ (trapping.ctx.trapvec &&& ~~~3 = 0 ∨ trapping.ctx.traprec.getLsbD 0 = false ∨ trapping.ctx.ctxstat.getLsbD 2 = true) := by
  decide +kernel

/-- TrapEntrySavesAndRedirects. -/
theorem test_witness_trap_entry :
    Mem.wf trapping.mem = true ∧ trapping.ctx.raised = [raised 0x0B 0] ∧ (raised 0x0B 0).late = false ∧ (raised 0x0B 0).cls.toNat < 0x21 ∧
    trapping.ctx.trapvec &&& ~~~3 ≠ 0 ∧ trapping.ctx.traprec.getLsbD 0 = true ∧ trapping.ctx.ctxstat.getLsbD 2 = false ∧
    trapping.ctx.trapReady (raised 0x0B 0) = true := by decide +kernel

/-- The context above in its handler, at privileged level, with `n` levels open that the handler opened. -/
def handling (n : Nat) (stat : Word) : State :=
  ctx fun c => { c with ctxstat := stat, trapped := some (c.pipe, raised 0x0B 0), areg := (c.areg.set 1 0x2000).set 2 0x2002
                        pipe := { c.pipe with levels := List.replicate n lvl } }

/-- TrapReturns: a shadow bank; user level, privileged level outside a handler, in one with a level open and with none; a target that
is a multiple of 4 and one that is not; a captured slot. -/
theorem test_witness_trap_return :
    State.reset.ctx.trapShadow.map Prod.fst = shadowZero.map Prod.fst ∧
    (handling 0 0).ctx.trapped = some ((handling 0 0).ctx.pipe, raised 0x0B 0) ∧ (handling 0 0).ctx.ctxstat.getLsbD 1 = false ∧
    ((handling 0 2).ctx.ctxstat.getLsbD 1 = true ∧ (handling 0 2).ctx.ctxstat.getLsbD 2 = false) ∧
    ((handling 1 6).ctx.ctxstat.getLsbD 1 = true ∧ (handling 1 6).ctx.ctxstat.getLsbD 2 = true ∧
      (handling 1 6).ctx.pipe.base < (handling 1 6).ctx.pipe.levels.length) ∧
    ¬ (handling 0 6).ctx.pipe.base < (handling 0 6).ctx.pipe.levels.length ∧ ((handling 0 6).ra 1).toNat % 4 = 0 ∧
    ((handling 0 6).ra 2).toNat % 4 ≠ 0 ∧ ((handling 0 6).ctx.pipe.slots[(raised 0x0B 0).slot]?).isSome := by decide +kernel

/-- A running context between bundles with a fired arm, delivery enabled. -/
def firing : State :=
  ctx (fun c => { c with run := .running, uivec := 0x400, uistat := 0x40000000 }) (armed [none, some ⟨false, 15, 1, true, false⟩])
/-- A completion-interrupt handler with `n` levels open that it opened. -/
def inHandler (n : Nat) : State :=
  ctx fun c => { c with uistat := 0xC0000000, uiSaved := some (c.pipe, 0x100), uipc := 0x100
                        pipe := { c.pipe with levels := List.replicate n lvl } }

/-- ArmsAndCompletionInterrupts: a delivery that is due; UIRET outside a handler, in one with a level open and with none. -/
theorem test_witness_completion_interrupts :
    (firing.ctx.deliveryDue = true ∧ firing.ctx.run = .running ∧ firing.ctx.raised = [] ∧ firing.ctx.atBoundary = true ∧
      firing.ctx.arms[1]? = some (some ⟨false, 15, 1, true, false⟩) ∧ (∀ j < 1, firing.ctx.arms[j]? = some none) ∧
      firing.endBundle = some firing ∧ firing.ctx.arms = firing.ctx.arms) ∧
    State.reset.ctx.uistat.getLsbD 31 = false ∧ (inHandler 1).ctx.uistat.getLsbD 31 = true ∧
    (inHandler 1).ctx.pipe.base < (inHandler 1).ctx.pipe.levels.length ∧ ¬ (inHandler 0).ctx.pipe.base < (inHandler 0).ctx.pipe.levels.length ∧
    (inHandler 0).ctx.uiSaved = some (State.reset.ctx.pipe, 0x100) := by
  decide +kernel

/-- ControlRegisters: record mode off; a register that user level may not read, one that it may write and one that it may not. -/
theorem test_witness_control_registers :
    State.reset.ctx.trMode = 0 ∧ State.reset.ctx.ctxstat.getLsbD 1 = false ∧ (0x020 : Nat) ∈ [0x020, 0x021, 0x022, 0x024] ∧
    (0x008 : Nat) ∈ [0x008, 0x009, 0x018] ∧ (0x024 : Nat) ∉ [0x008, 0x009, 0x018] ∧ ({ r0 with sub := 0x020 } : RForm).sub.toNat = 0x020 ∧
    (ctx fun c => { c with ctxstat := 2 }).ctx.ctxstat.getLsbD 1 = true := by decide +kernel

/-- The team of the focused context of grid 1, and another, eligible, that waits for the same die. -/
def teams (both : Bool) : State :=
  let t : Team := ⟨1, 0, 0, true, false, false, 3, 3, 0, false, 0⟩
  let g : Grid := ⟨1, 0, 0, 0, [], [], [0], [], true, 0, 1, 1, 0, 0, []⟩
  { ctx fun c => { c with grid := 1, run := .running } with
      grids := [g], teams := if both then [t, { t with num := 1, resident := false }] else [t] }

/-- EventsPermitsAndThrottle: a slot that is ready; a wait whose time has passed; a context of no team, of one with a rival and of one
without. -/
theorem test_witness_events_and_yield :
    Ready State.reset ∧ ((State.reset.mapSlot fun x => { x with wait := some (.wfe 9 (some 0)) }).ctx.slot 0).wait = some (.wfe 9 (some 0)) ∧
    State.reset.teamOf State.reset.ctx = none ∧ ((teams false).teamOf (teams false).ctx).isSome ∧ (teams false).rivalWaits 0 3 = false ∧
    (teams true).rivalWaits 0 3 = true := by unfold Ready; decide +kernel

/-- EventsPermitsAndThrottle: a class beyond 3; one that is held; one above, at a governor that grants it and at one that does not. -/
theorem test_witness_permits :
    (3 < ((st 0 4 0 0).rs 1).toNat) ∧ (0 ≤ (State.reset.ctx.prmst.extractLsb' 0 2).toNat ∧ State.reset.ctx.arrayBusy = false ∧
      State.reset.acts 0 false = true) ∧ (((st 0 3 0 0).rs 1).toNat ≤ 3 ∧ (State.reset.ctx.prmst.extractLsb' 0 2).toNat < 3) ∧
    (let s := State.reset.mapSlot fun x => { x with wait := some (.prmt 9 3 0) }
     s.input.uid = s.ctx.uid ∧ (s.ctx.slot 0).wait = some (.prmt 9 3 0) ∧ (s.ctx.prmst.extractLsb' 0 2).toNat < 3 ∧ s.input.flag = false ∧
       { s with input := { s.input with flag := true } }.input.flag = true) := by decide +kernel

/-- A privileged context whose S slot stands at PRB with nothing to probe. -/
def probing : State :=
  ctx fun c => { c with ctxstat := 2, now := { c.now with issue := { c.now.issue with ops := [some (.prb m0)] } } }

/-- ProbeLaunchAndSave: PRB that does not act, that is refused and that probes nothing; LAUNCH at both levels, of a record that is
refused at once; SAVE of an address that is refused, and of one that is taken. -/
theorem test_witness_probe_launch_save :
    Ready probing ∧ probing.acts 1 false = false ∧ (probing.mapSlot fun x => { x with ea := stdAddr probing m0 4096 }).acts 0 false = true ∧
    (0x300000000 : Word).extractLsb' 32 2 = 3 ∧ (0x400000000 : Word).extractLsb' 34 30 ≠ 0 ∧ (0 : Word).extractLsb' 0 32 = 0 ∧
    probing.ctx.now.issue.ops[probing.k.val]? = some (some (.prb m0)) ∧
    State.reset.ctx.ctxstat.getLsbD 1 = false ∧ probing.ctx.ctxstat.getLsbD 1 = true ∧
    ((probing.waitIn (.launch 1 9 false)).launchFrom false probing.ctx.die 1 true).isSome ∧
    ((0x8000000000000000 : Word).msb = true ∧ (0x8000 : Word).toNat % 65536 ≠ 0) ∧
    ((0x10000 : Word).msb = false ∧ (0x10000 : Word).toNat % 65536 = 0 ∧ State.reset.ctx.pipe.ended = none ∧
      (ctx fun c => { c with ctxstat := 2, windows := [{ win with perm := 3 }] }).check ⟨.write, 256, false, false⟩ 0x10000 =
        .ok (.virt 0 0x100000)) := by
  unfold Ready; decide +kernel

/-- The conditions of LAUNCH with nothing under way, and a pointer that is no multiple of 64. -/
theorem test_witness_launch_quiet : Quiet probing ∧ Ready probing ∧ probing.ctx.ctxstat.getLsbD 1 = true ∧ (1 : Word).toNat % 64 ≠ 0 :=
  ⟨quiet_of (by decide +kernel), by unfold Ready; decide +kernel⟩

/-- PreemptionAndResume: requests in every STATE; a context that can drain a loop and one that cannot; a drain past its time; a freeze
with nothing left to capture but a landing; a frozen context. -/
theorem test_witness_preemption :
    let run : State := ctx fun c => { c with run := .running }
    let loops : State := ctx fun c => { c with run := .running, pipe := { c.pipe with levels := [{ lvl with lp := 1 }] } }
    let freezing : State := ctx fun c => { c with run := .freezing }
    (((ctx fun c => { c with preq := 0xC }).ctx.preq.extractLsb' 2 2).toNat ≠ 0) ∧
    ((run.ctx.preq.extractLsb' 2 2).toNat = 0 ∧ run.ctx.run = .running ∧ run.ctx.raised = [] ∧ run.ctx.canDrain = false) ∧
    loops.ctx.canDrain = true ∧ ((3 : Word).getLsbD 0 = true ∧ (3 : Word).getLsbD 1 = true) ∧ (2 : Word).getLsbD 0 = false ∧
    (let d : State := ctx fun c => { c with run := .draining, drainFor := 36000 }
     d.ctx.run = .draining ∧ 20 * d.usCycles d.ctx.die ≤ d.ctx.drainFor) ∧
    (freezing.ctx.run = .freezing ∧ freezing.ctx.array = none ∧ freezing.ctx.chain = none ∧ freezing.reqs = [] ∧ freezing.resps = [] ∧
      freezing.teams = [] ∧ ∀ x ∈ freezing.ctx.pipe.slots, x.wait = none ∧ ∀ f ∈ x.flights, f.array = false) ∧
    (ctx fun c => { c with run := .frozen }).ctx.run = .frozen ∧ State.reset.input.uid = State.reset.ctx.uid := by decide +kernel

/-- A running context whose team and grid are listed, with a mate on core 1 that is over or goes on, and with another team or none. -/
def ending (mate : Run) (two : Bool) : State :=
  let s := teams false
  let t : Team := ⟨1, 1, 0, true, false, false, 3, 3, 0, false, 0⟩
  { ctx (fun c => { c with pipe := { c.pipe with halt := true, slots := c.pipe.slots.map fun x => { x with pos := c.pipe.count } } }) s with
      others := [{ s.ctx with uid := 1, core := 1, run := mate }]
      teams := if two then s.teams ++ [t] else s.teams }

/-- The team of that context stands. -/
theorem ending_stands (m : Run) (b : Bool) : TeamStands (ending m b) := by
  unfold TeamStands; cases m <;> cases b <;> decide +kernel

/-- ContextsEnd: a team that stands: with a mate that goes on, with one that is over beside another team, and as the last of its grid. -/
theorem test_witness_team_stands :
    TeamStands (ending .running false) ∧ TeamStands (ending .halted true) ∧ TeamStands (ending .halted false) ∧
    (∃ c ∈ (ending .running false).others, c.grid = 1 ∧ c.team = 0 ∧ c.run ∉ [.empty, .halted, .stopped]) ∧
    (∀ c ∈ (ending .halted true).others, c.grid = 1 → c.team = 0 → c.run ∈ [.empty, .halted, .stopped]) ∧
    (∃ x ∈ (ending .halted true).teams, x.grid = 1 ∧ x.num ≠ 0 ∧ x.ended = false) ∧
    ¬ (∃ x ∈ (ending .halted false).teams, x.grid = 1 ∧ x.num ≠ 0 ∧ x.ended = false) ∧ (ending .halted false).ctx.run = .running ∧
    (ending .halted false).ctx.pipe.halt = true ∧ (∀ x ∈ (ending .halted false).ctx.pipe.slots, x.pos = (ending .halted false).ctx.pipe.count) :=
  ⟨ending_stands _ _, ending_stands _ _, ending_stands _ _, by decide +kernel⟩

/-- ContextsEnd: a context that has halted; one that has not; a context error found after the issue, one found at it, and an unhandled
trap; with FAULTREC at an address that is refused and at one that is taken. -/
theorem test_witness_contexts_end :
    let halted : State := ctx fun c => { c with run := .running, pipe := { c.pipe with halt := true } }
    let fails (r : Raised) : State := ctx fun c => { c with run := .running, grid := 1, raised := [r]
                                                            pipe := { c.pipe with slots := c.pipe.slots.map fun x => { x with pos := 1 } } }
    (halted.ctx.run = .running ∧ halted.ctx.pipe.halt = true ∧ halted.ctx.raised = [] ∧ halted.ctx.landings = [] ∧
      halted.ctx.releases = [] ∧ halted.ctx.gated = [] ∧ halted.ctx.array = none ∧ halted.reqs = [] ∧ halted.resps = [] ∧
      halted.cmds = [] ∧ ∀ x ∈ halted.ctx.pipe.slots, x.flights = [] ∧ x.pos = halted.ctx.pipe.count) ∧
    State.reset.ctx.pipe.halt = false ∧ (raised 0x25 1 true).late = true ∧
    ((fails (raised 0x22 0)).ctx.trapReady (raised 0x22 0) = true ∧ 0x21 ≤ (raised 0x22 0).cls.toNat) ∧
    ((fails (raised 9 0)).ctx.trapReady (raised 9 0) = true ∧ (fails (raised 9 0)).ctx.unhandled = true) ∧
    ((fails (raised 9 0)).ctx.run = .running ∧ (fails (raised 9 0)).ctx.raised = [raised 9 0] ∧
      (fails (raised 9 0)).ctx.faultrec &&& ~~~0xFF = 0) ∧
    (State.reset.check ⟨.write, 256, false, false⟩ 0x10000 = .error ⟨4, 0x21, 0⟩ ∧
      (ctx fun c => { c with windows := [{ win with perm := 3 }] }).check ⟨.write, 256, false, false⟩ 0x10000 = .ok (.virt 0 0x100000)) := by
  decide +kernel

/-- WindowTableUpdates: an image that is unreadable; an update with one member left; a gated core with a pending table. -/
theorem test_witness_window_updates :
    (State.reset.coreKey 0).isNone ∧
    (let s : State := { State.reset with wtUpdate := some (0, [win], [0]) }
     s.wtUpdate = some (s.ctx.uid, [win], [s.ctx.uid]) ∧ s.input.uid = s.ctx.uid ∧ s.gatedCores = []) ∧
    (∀ g ∈ State.reset.gatedCores, g.1 ≠ State.reset.input.n) ∧
    (let s : State := { ctx fun c => { c with run := .running } with gatedCores := [(0, some [win])] }
     s.input.n = 0 ∧ s.gatedCores = (0, some [win]) :: [] ∧ s.ctx.core = 0 ∧ s.ctx.run ≠ .empty) := by decide +kernel

/-- A page of memory that holds an image of 64 empty entries, read through a window. -/
def image : State :=
  { ctx fun c => { c with windows := [{ win with perm := 15 }] } with pages := [⟨⟨0, 0, 0x100⟩, false, .resident, 5, true, false, none⟩] }

/-- WindowTableUpdates: an image that is readable and good. -/
theorem test_witness_good_image :
    image.wtUpdate = none ∧ image.wtQueue = [] ∧ image.wtImage 0x10000 = .ok (List.replicate 1024 0) ∧
    imageRefused (List.replicate 1024 0) = false := by decide +kernel

/-- The page above, with a launch record at its first byte, whose image of empty entries stands at 0x10400 and whose word 5 is `w5`. -/
def record5 (w5 : Nat) : State :=
  let key := image.frameKey 0 5
  let mem := Mem.write (Mem.write [] (key + 16) (Bits.natLe 8 0x10400)) (key + 40) (Bits.natLe 8 w5)
  { image with mem := mem, bootst := 1 }
/-- The words of that record. -/
def words5 (w5 : Nat) : List Word := (List.range 64).map fun i => if i = 2 then 0x10400 else if i = 5 then BitVec.ofNat 64 w5 else 0

/-- ProbeLaunchAndSave: a record and an image that are read, refused as no die is named, and accepted; a refused image address; no page. -/
theorem test_witness_launch_records :
    (∃ bs, (record5 0).launchBytes false 8 0x10000 = .ok bs ∧
      (List.range 64).map (fun i => Bits.leWord ((bs.drop (8 * i)).take 8)) = words5 0) ∧
    (record5 0).launchBytes false 16 0x10400 = .ok (List.replicate 1024 0) ∧ (words5 0).getD 2 0 = 0x10400 ∧
    (record5 0).launchCause (words5 0) (List.replicate 1024 0) true ≠ 0 ∧
    (record5 (2 ^ 28)).launchCause (words5 (2 ^ 28)) (List.replicate 1024 0) true = 0 ∧
    (record5 0).launchBytes false 8 0x20000 = .bad ∧ (0x10401 : Nat) % 1024 ≠ 0 ∧ depsOf (words5 0) = [] := by
  refine ⟨⟨(words5 0).flatMap Bits.wordLe, by decide +kernel, by decide +kernel⟩, by decide +kernel⟩

/-- VectorFloats: the type codes, and lanes that meet the clauses of the seeds: zero, one of each range, infinities, NaNs. -/
theorem test_witness_vector_floats :
    ((9 ≤ dtOf (.r (rr 9)) ∧ dtOf (.i { i0 with dt := 11 }) ≤ 11) ∧ Fp.decode Fp.f32 0x7F800001 = .nan true ∧
      Fp.decode Fp.f32 0x7F800000 = .inf false ∧ (Fp.decode Fp.f32 0).isZero = true) ∧ ratVal (Fp.decode Fp.f32 0) = some 0 ∧
    ratVal (Fp.decode Fp.f32 0xC0000000) = some (-2) ∧
    ((2 : ℚ) ^ (1 : Int) * (1 + (0 : ℚ) / 128) ≤ |(-2 : ℚ)| ∧ |(-2 : ℚ)| < (2 : ℚ) ^ (1 : Int) * (1 + (0 + 1 : ℚ) / 128)) := by
  refine ⟨by decide +kernel, ?_, ?_, by norm_num⟩
  · rw [show Fp.decode Fp.f32 0 = .fin false 0 (-149) by decide +kernel]; norm_num [ratVal]
  · rw [show Fp.decode Fp.f32 0xC0000000 = .fin true 8388608 (-22) by decide +kernel]; norm_num [ratVal]

/-- VectorConversions, VectorQuantisation: a V slot; a pair of types of each operation, and the last place of a narrow element. -/
theorem test_witness_vector_conversions :
    (st 1 0 0 0).k = 1 ∧ (st 2 0 0 0).k = 2 ∧
    ((9 : Nat) ∈ [9, 10, 11, 3, 7, 2, 6] ∧ (6 : Nat) ∈ [9, 10, 11, 3, 7, 2, 6] ∧ (9 : Nat) ≠ 6) ∧
    ((16 : Nat) ∈ [1, 5, 12, 13, 14, 15, 16] ∧ (0 : Nat) ∈ [0, 9, 3, 7] ∧ ((3 : Nat) < 4)) ∧ ((16 : Nat) ∈ [12, 13, 14, 15, 16]) ∧
    (9 ≤ (rr 9).dt.toNat ∧ (rr 11).dt.toNat ≤ 11) := by decide +kernel

/-- VectorComparesAndMoves, VectorReductions, VectorIntegersAndKeys: type codes, combinations, shifts and operations at their ends. -/
theorem test_witness_vector_types :
    ((rr 9).dt.toNat ∈ [9, 10, 11, 3, 7, 2, 6, 1, 5] ∧ (rr 5).dt.toNat ∈ [9, 10, 11, 3, 7, 2, 6, 1, 5]) ∧
    ({ rr 9 with sub := 0x17 } : RForm).sub.toNat / 8 % 4 ≤ 2 ∧ ({ rr 5 with sub := 5 } : RForm).sub.toNat % 8 < 6 ∧
    ({ rr 0 with sub := 64 } : RForm).sub.toNat % 128 ≤ 64 ∧ dtOf (.i { i0 with dt := 11 }) ∈ [9, 10, 11, 3, 7, 2, 6, 1, 5] ∧
    ({ rr 9 with sub := 2 } : RForm).sub.toNat % 8 ≤ 2 ∧ (rr 9).rm.toNat ≤ 3 ∧ ({ rr 7 with sub := 5 } : RForm).sub.toNat % 8 ≤ 5 ∧
    (rr 7).dt.toNat ∈ [3, 7, 2, 6] ∧ dtOf (.r (rr 1)) ∈ [1, 2, 3, 5, 6, 7] ∧ satOf (.r (rr 1)) = false ∧
    ({ rr 6 with sub := 0x1EF } : RForm).sub.toNat % 32 < wOf 6 ∧ ({ rr 9 with sub := 1 } : RForm).sub.getLsbD 0 = true ∧
    (rr 9).sub.getLsbD 0 = false ∧ (0 < 2 ^ wOf 9 ∧ 0xFFFFFFFF < 2 ^ wOf 9) := by decide +kernel

/-- VectorQuantisation: a scale byte of the NaN exponent and one that is not. -/
theorem test_witness_scales : 0xFF % 64 = 63 ∧ 0xFE % 64 ≠ 63 ∧ (0 : Nat) < 2 := by decide +kernel

/-- GeometryOperations: no active test, active finite ones, and one that is not finite with TNF set and clear; a result that is ready. -/
theorem test_witness_geometry :
    let nan : State := ctx fun c => { c with vreg := c.vreg.set 0 0x7FC00000, geomode := 1 }
    State.reset.ctx.now.cap = none ∧ State.reset.ctx.landings.length < 16 ∧
    (∀ j < 64, (lanesOf State.reset (1, false)).getLsbD j = false) ∧ (lanesOf State.reset (0, false)).getLsbD 0 = true ∧
    (State.reset.ctx.geomode.getLsbD 0 = false ∧ nan.ctx.geomode.getLsbD 0 = true) ∧
    Fp.decode Fp.f32 (Bits.elem (nan.rv 0) 32 0) = .nan false ∧ Fp.decode Fp.f32 (Bits.elem (State.reset.rv 0) 32 0) = .fin false 0 (-149) ∧
    (let e : Landing := ⟨3, 1, 0, 0, Site.none, false, some ⟨⟨.v, 1⟩, 0, false⟩, false, none, some ⟨0, 0, 0, 0, 6, 0, 0, 1⟩, false, false, [], none⟩
     e.geo = some ⟨0, 0, 0, 0, 6, 0, 0, 1⟩ ∧ e.dst = some ⟨⟨.v, 1⟩, 0, false⟩ ∧ e.pend = false ∧ State.reset.ctx.replay = []) := by
  decide +kernel

/-- The reset state with tray slot 0 claimed, slot 1 free, and handles in ts0 (none) and ts1. -/
def tray : State :=
  ctx fun c => { c with trayHeads := c.trayHeads.set 0 ⟨1, 15, 0⟩, tsreg := c.tsreg.set 1 0x80 }

/-- TrayAndLatches: no slot free, one free; a handle that is valid and one that is not. -/
theorem test_witness_tray_slots :
    Ready tray ∧ tray.acts 0 false = true ∧ tray.ctx.tsreg[0]? = some 0 ∧ (0 : Word).getLsbD 7 = false ∧
    (∀ h ∈ tray.ctx.trayHeads, h.state ≠ 2) ∧ tray.ctx.trayHeads[1]? = some ⟨0, 15, 0⟩ ∧
    (∀ h ∈ tray.ctx.trayHeads[0]?, h.state ≠ 0) ∧
    (∀ h ∈ (ctx fun c => { c with trayHeads := Vector.replicate 16 ⟨1, 15, 0⟩ }).ctx.trayHeads, h.state ≠ 0) ∧
    tray.ctx.tsreg[1]? = some 0x80 ∧ (0x80 : Word).getLsbD 7 = true := by
  unfold Ready; decide +kernel

/-- The state above with a tile image of 16,384 bytes announced at pocket offset 0, and one with none. -/
def tile : State := { tray.mapSlot fun x => { x with ea := 0x8000000000000000 } with mem := Mem.write [] (pocketKey 0 0) [0, 0, 0, 0, 0, 0x40, 0, 0] }

/-- TrayAndLatches: where a TLD finds its header, nothing in its way; a handle and none. -/
theorem test_witness_tile_load :
    let u := tile.mapSlot fun x => { x with ea := stdAddr tile m0 256 }
    u.acts 0 false = true ∧ u.check ⟨.read, 64, false, true⟩ (stdAddr tile m0 256 &&& ~~~3) = .ok (.port (pocketKey 0 0)) ∧
    (.port (pocketKey tile.ctx.core 0) : Place) = .port (pocketKey 0 0) ∧ 0 < pocketSize ∧ (∀ x ∈ tile.ctx.pipe.slots, x.flights = []) ∧
    tile.reqs = [] ∧ tile.ctx.tldPort = 0 ∧ (∀ h ∈ tile.ctx.trayHeads, h.len < 2 ^ 15) ∧ (tile.rts 1).getLsbD 7 = true ∧
    (tile.rts 0).getLsbD 7 = false := by decide +kernel

/-- TrayAndLatches: a header that is good, with its contents, and one that is not. -/
theorem test_witness_tile_header :
    let u := tile.mapSlot fun x => { x with ea := stdAddr tile m0 256 }
    let w := wordAt tile.mem (pocketKey 0 0)
    w.extractLsb' 47 17 = 0 ∧ w.extractLsb' 9 23 = 0 ∧ (w.extractLsb' 32 15).toNat = 16384 ∧ w.extractLsb' 0 4 ≤ 1 ∧
    (∀ i < 64, 8 ≤ i → Mem.byte tile.mem (pocketKey 0 0 + i) = 0) ∧
    u.check ⟨.read, 16384, false, true⟩ ((stdAddr tile m0 256 &&& ~~~3) + 64) = .ok (.port (pocketKey 0 64)) ∧
    ¬ 1 ≤ ((wordAt tray.mem (pocketKey 0 0)).extractLsb' 32 15).toNat := by decide +kernel

/-- MatrixBlocks: an element in range; scales absent, finite and NaN; patterns whose values are rational. -/
theorem test_witness_matrix_block :
    ratVal (.fin false 0 (-149)) = some 0 ∧ (63 < 64) ∧ ((ctx fun c => { c with slreg := c.slreg.set 0 0xFF }).ctx.slval 0).extractLsb' 0 8 = 0xFF ∧
    (State.reset.ctx.slval 0).extractLsb' 0 8 = 0x7F ∧ tileAt (State.reset.ctx.zval 0) 63 63 = 0 ∧ (0x8 : Nat).testBit 3 = true :=
  ⟨by norm_num [ratVal], by decide +kernel⟩

/-- ArrayOperationsAndStore: formats at both ends of the array's, a permit held and not held, the array busy and idle, and a
handle that fails each of its checks in turn. -/
theorem test_witness_array_operations :
    let f : RForm := { r0 with dt := 10, st := 17, a := 1, b := 1 }
    let s (st' : BitVec 2) (swz : BitVec 4) (len : Nat) : State :=
      ctx (fun c => { c with prmst := 3, trayHeads := c.trayHeads.set 0 ⟨st', swz, len⟩ }) tray
    (10 ≤ f.dt.toNat ∧ f.st.toNat ≤ 17 ∧ f.a.toNat < 16) ∧ (∀ h ∈ tray.ctx.trayHeads, h.len < 2 ^ 15) ∧
    tray.acts f.pred f.pneg = true ∧ tray.ctx.prmst.toNat % 4 < 3 ∧ 3 ≤ (s 1 15 0).ctx.prmst.toNat % 4 ∧
    (ctx fun c => { c with array := some ⟨none, 0, 0, none, [], 0, 0, 0, 0, 8⟩ }).ctx.array.isSome ∧ tray.ctx.array = none ∧ tray.ctx.chain = none ∧
    (tray.rts 0).getLsbD 7 = false ∧ ((s 1 15 0).rts 1).getLsbD 7 = true ∧ ((s 1 15 0).ctx.head 0).swz = 15 ∧
    ((s 1 1 0).ctx.head 0).swz.toNat ≠ 0 ∧ ((s 1 0 8191).ctx.head 0).len < 8192 ∧ ¬ ((s 1 0 8192).ctx.head 0).len < 8192 := by
  decide +kernel

/-- ArrayOperationsAndStore: an MST whose place is checked, the drain port free and taken, its tile unchanged since the last issue. -/
theorem test_witness_matrix_store :
    let s : State := State.reset.mapSlot fun x => { x with ea := 0x8000000000000000 }
    (9 : Nat) ∈ [9, 10, 11, 12, 13, 14, 15, 16, 1, 5, 2, 6, 3, 7] ∧ s.acts 0 false = true ∧ m0.disp.getLsbD 12 = false ∧
    shortAddr s m0 256 = 0x8000000000000000 ∧ s.check ⟨.write, 16384, false, false⟩ 0x8000000000000000 = .ok (.port (pocketKey 0 0)) ∧
    s.ctx.drain = 0 ∧ (ctx fun c => { c with drain := 64 }).ctx.drain ≠ 0 ∧ (m0.disp.extractLsb' 14 3).toNat < 4 ∧
    (s.ctx.tileHist 7).since = 0 := by decide +kernel

/-- A contraction program of one step, a boundary buffer, and a core of one element in tray slot 0. -/
def chained (w : OrderWord) (bcap : Word) : State :=
  ctx (fun c => { c with order := [w], orderLen := 1, bcap := bcap, prmst := 1, trayHeads := c.trayHeads.set 0 ⟨1, 0, 2⟩ }) tray
/-- The reason for which step `i` of a state's program is refused, none when it is not. -/
def stepFault (s : State) (i : Nat) : Option (Byte × Nat) :=
  match s.chainStep i 0 with
  | .error (c, d) => some (c, (d.extractLsb' 62 2).toNat)
  | .ok _ => none

/-- ChainContraction: the ends of BDSET's immediate; a step that fails for each reason and one that does not; a chain running and
none, with an empty program. -/
theorem test_witness_chain :
    (1 ≤ (1 : W32).toNat ∧ (512 : W32).toNat ≤ 512) ∧ tray.acts 0 false = true ∧
    stepFault (chained 0 0x100) 1 = some (6, 1) ∧ stepFault (chained 0 0xFF) 0 = some (6, 2) ∧
    stepFault (chained 0x11000000 0x100) 0 = none ∧
    stepFault (ctx (fun c => { c with bdreg := c.bdreg.set 1 512 }) (chained 0x11000000 0x100)) 0 = some (6, 0) ∧
    (State.reset.ctx.prmst.toNat % 4 < 1 ∧ 1 ≤ (chained 0 0x100).ctx.prmst.toNat % 4) ∧
    ((chained 0 0x100).ctx.array = none ∧ (chained 0 0x100).ctx.chain = none ∧ State.reset.ctx.orderLen = 0) ∧
    (match (chained 0x11000000 0x100).chainSteps 1 0 0 with
      | .ok [t] => decide (t.n ≠ 0 ∧ 0 < t.o' ∧ 0 < t.x' ∧ 0 < t.rr)
      | _ => false) = true ∧
    ((chained 0 0x100).ctx.order.take 1).all (fun w => w.extractLsb' 0 2 < 2) = true := by decide +kernel

/-- ChainContraction: a running chain whose step is over. -/
theorem test_witness_chain_complete :
    let t : ChainStep := ⟨0, 0, 256, false, 0, 1, 1, 1, 1, 1, 1, 1, 1, 0, 0, 0, 1⟩
    let c : Chain := ⟨3, 1, [t], 0, 0⟩
    (ctx fun x => { x with chain := some c }).ctx.chain = some c ∧ c.left = 0 ∧ c.steps[c.next]? = some t := by decide +kernel

/-- A batch of one live token: the table at pocket offset 0x1000, the policy, the sequence record and its empty directory in hamper 0. -/
def batch : State :=
  let words (l : List (Nat × Word)) (m : Mem) : Mem := l.foldl (fun m x => Mem.write m x.1 (Bits.wordLe x.2)) m
  let h (a : Nat) : Nat := hamperKey 0 a
  let p (a : Nat) : Nat := pocketKey 0 (0x1000 + a)
  { ctx fun c => { c with areg := c.areg.set 1 0x8000000000001000, sreg := c.sreg.set 2 1 } with
      mem := words [(p 0x4000, 0x50000), (p 0x4008, 1), (p 0x4140, 0x3C00200000001000), (h 0x2008, 0x8000000000005000),
        (h 0x2010, 0x8200000000003000), (h 0x2020, 0x8000000000006000), (h 0x2030, 0x4000), (h 0x2200, 0x8200000000004000), (p 0, 1),
        (p 0x30, 0x8000000000007000), (p 0x38, 0x8000000000005000), (p 0x40, 0x8200000000002000)] [] }
/-- What a context instruction of a batch comes to: its result and its transfer. -/
def outcome (i : Instr) (s : State) : Option (Option (Reg × Word) × Option (Word × Word)) :=
  match contextBody i s s with
  | .ok (d, _) => some (d.res, d.goto)
  | .error _ => none
/-- Why it stops: class, cause and address of a trap or an error; zeros for an access that waits. -/
def stops (i : Instr) (s : State) : Option (Byte × Byte × Word) :=
  match contextBody i s s with
  | .error (.trap cls cause _ a) => some (cls, cause, a)
  | .error (.bad cls cause a) => some (cls, cause, a)
  | .error .park => some (0, 0, 0)
  | _ => none

/-- ContextInstructions, BatchMasks: a batch whose instructions complete: nothing committed, a token checkpointed and restored with a transfer; an
append that traps for a block that is not there; a table that is nowhere, and one whose page is not there. -/
theorem test_witness_batch :
    let f : RForm := { r0 with d := 9, a := 1, b := 2, c := 3 }
    (match Cx.words 72 (batch.ra 1) batch with
      | .ok (ws, _) => ws.getD 0 0 == 1
      | .error _ => false) = true ∧
    outcome (.ccmt f) batch = some (some (⟨.s, 9⟩, 0), none) ∧ outcome (.cckp f) batch = some (some (⟨.s, 9⟩, 1), none) := by
  decide +kernel

/-- The stops of the statement above. -/
theorem test_witness_batch_stops :
    let f : RForm := { r0 with d := 9, a := 1, b := 2, c := 3 }
    outcome (.crpl f) batch = some (some (⟨.s, 9⟩, 1), some (0x4000, 0)) ∧
    stops (.capp { f with b := 0 }) batch = some (5, 2, 0x8200000000002000) ∧
    stops (.cref { f with a := 0 }) batch = some (0x21, 0, 0) ∧
    stops (.cref { f with a := 0 }) { ctx fun c => { c with windows := [⟨0, 15, 0, 0, 1, 0x100⟩] } with
      pages := [⟨⟨0, 0, 0x100⟩, false, .absent, 0, true, false, none⟩] } = some (0, 0, 0) := by
  decide +kernel

/-- ContextInstructions: a slot that is ready, with nothing under way; operands that each update refuses and accepts. -/
theorem test_witness_leaf_updates :
    (Mem.wf tile.mem = true ∧ tile.delays = [] ∧ tile.poison = [] ∧ tile.ctx.trMode = 0 ∧ tile.acts 0 false = true) ∧ Ready tile ∧
    (∀ i ∈ [0, 8, 9, 10, 11], tile.check ⟨.atomic, 8, true, false⟩ (0x8000000000000000 + BitVec.ofNat 64 (8 * i)) =
      .ok (.port (pocketKey 0 0 + 8 * i))) ∧
    tile.check ⟨.atomic, 16, true, false⟩ 0x8000000000000000 = .ok (.port (pocketKey 0 0)) ∧
    (0x1000000000000 : Word).extractLsb' 48 6 ≠ 0 ∧ (0x10000000000 : Word).extractLsb' 40 21 ≠ 0 ∧ (0 : Word).extractLsb' 62 2 ≠ 3 := by
  unfold Ready; decide +kernel

/-- EngineCommands: an acting command and one that does not act; four waiting. -/
theorem test_witness_commands_at_issue :
    let w : Cmd := ⟨0, 0, 0, 0, .cpy c0, 0, 1, 0, false, 0, 0, 0, 0, none, 0, false, 0, 0, 0, [], [], 0, 0, [], 0, none, [], [], []⟩
    let s : State := { State.reset with cmds := List.replicate 4 w }
    s.acts 1 false = false ∧ s.acts 0 false = true ∧ (s.cmds.countP fun c => c.uid == s.ctx.uid && c.slot == s.k && !c.started) = 4 ∧
    State.reset.cmds.countP (fun _ => true) < 4 := by decide +kernel

/-- A command of a running context, with its words. -/
def cmd (op : Instr) (started : Bool) (aux : Word) (ws : List Word) : Cmd :=
  ⟨7, 0, 5, 0, op, 3, 1, 0, started, 0, aux, 0, 0, none, 0, false, 0, 0, 0, [], ws, 0, 0, [], 0, none, [], [], []⟩
/-- The running context with that command. -/
def with1 (c : Cmd) : State := { ctx fun x => { x with run := .running } with cmds := [c] }
/-- The words of a CPY of 8 bytes from one place of hamper 0 to another, in `n` dimensions. -/
def cpyWords (n : Word) : List Word := [0x8200000000000000, 0x8200000000000040, n, 8, 0, 0, 0, 0, 0, 0, 0, 0, 0, 0, 0, 0]
/-- How a command ends: with its cause, or verified. -/
def ends (s : State) (c : Cmd) : Option Byte :=
  match (s.runCmd c none).stop with
  | some (.fail cause _ _ _ _) => some cause
  | _ => none

/-- EngineCommands: a command that may start; one that completes; a TFUL and its range; one that fails; one that re-reads. -/
theorem test_witness_command_lifecycle :
    let go := cmd (.cpy c0) true 0 (cpyWords 1)
    let bad := cmd (.cpy c0) true 0 (cpyWords 0)
    let ful := cmd (.tful c0) true 0x800100 []
    ((with1 (cmd (.cpy c0) false 0 [])).ctx.run.alive = true ∧ (cmd (.cpy c0) false 0 []).startAt ≤
      ((with1 (cmd (.cpy c0) false 0 [])).ctx.slot 5).time ∧ (with1 go).ctx.run.moving = true ∧ (with1 go).reqs = [] ∧ (with1 go).delays = []) ∧
    (go.started = true ∧ go.left = 0 ∧ ((with1 go).runCmd go none).stop.isNone ∧ ((with1 go).runCmd go none).s.ctx = (with1 go).ctx ∧
      go.tray = none ∧ go.tc < 16) ∧
    (((with1 ful).ctx.tcval ful.tc).done + 1 = ful.num ∧ ((with1 ful).ctx.tcval ful.tc).poison = 0 ∧ (with1 ful).ctx.tileNow = [] ∧
      ful.aux.extractLsb' 9 7 = 0 ∧ ful.aux.extractLsb' 25 39 = 0 ∧ (ful.aux.extractLsb' 16 9).toNat = 128 ∧
      (ful.aux.extractLsb' 0 9).toNat + 128 = 384) ∧
    (ends (with1 bad) bad = some 2 ∧ (with1 bad).cmdFault bad = some (2, 0) ∧ ((with1 bad).runCmd bad none).s.ctx = (with1 bad).ctx ∧
      ((with1 bad).ctx.tcval bad.tc).record = none) ∧ ((with1 go).input.flag = false ∧ go.retries < 3) := by
  decide +kernel

/-! ### Engine commands that leave bytes -/

/-- Bytes of hamper 0, basket 0 and the command's own pocket stand where their addresses say. -/
theorem engine_at (s : State) (c : Cmd) (wr : Bool) (n : Nat) :
    (n < 2 ^ 26 → EngineAt s c wr (0x8200000000000000 + BitVec.ofNat 64 n) (hamperKey 0 n)) ∧
    (n < 2 ^ 24 → EngineAt s c wr (0x8100000000000000 + BitVec.ofNat 64 n) (basketKey 0 n)) ∧
    (n < pocketSize → s.ctx.isOut = false → s.ctx.core = 0 → EngineAt s c wr (0x80FF800000000000 + BitVec.ofNat 64 n) (pocketKey 0 n)) := by
  refine ⟨fun h => .inl ⟨?_, ?_, ?_⟩, fun h => .inr (.inl ⟨?_, ?_, ?_⟩), fun h o k => .inr (.inr (.inl ⟨?_, ?_, ?_, ?_⟩))⟩
  · apply BitVec.eq_of_toNat_eq; simp; omega
  · apply BitVec.eq_of_toNat_eq; simp; omega
  · simp [hamperKey]; congr 1; omega
  · apply BitVec.eq_of_toNat_eq; simp; omega
  · apply BitVec.eq_of_toNat_eq; simp; omega
  · simp [basketKey]; congr 1; omega
  · unfold pocketSize at h; apply BitVec.eq_of_toNat_eq; simp; omega
  · unfold pocketSize at h; apply BitVec.eq_of_toNat_eq; simp; omega
  · unfold pocketSize at *; simp; omega
  · unfold pocketSize at h; simp [Ctx.pocketAt, o, k, pocketKey]; congr 1; omega

/-- A lane whose table has the word `e` for the nibble 0 in state 0, where it stays, over nibbles of 0. -/
theorem lane_stays (m : Mem) (key : Nat) (e : Word) (h : wordAt m key = e) (go : e.extractLsb' 52 12 = 0) (ok : e.extractLsb' 49 3 ≠ 7) (n : Nat) :
    LaneRun m key 0 (List.replicate n 0)
      (List.replicate n ((List.range (e.extractLsb' 49 3).toNat).map fun j => (e >>> (8 * j)).setWidth 8)).flatten 0 := by
  induction n with
  | zero => exact .done 0
  | succ n ih => exact .step e (by simp [h]) ok (by simpa [go] using ih)

/-- Bytes of zero are nibbles of zero. -/
theorem nibbles_zero (n : Nat) : nibblesOf (List.replicate n 0) = List.replicate (2 * n) 0 := by
  induction n with
  | zero => rfl
  | succ n ih => rw [List.replicate_succ, show 2 * (n + 1) = 2 * n + 1 + 1 by omega, List.replicate_succ, List.replicate_succ]; simpa [nibblesOf] using ih

/-- A context that runs, with a window, a page and lanes bound to tables at byte 0x100000 of hamper 0, whose first word is `e`. -/
def laned (e : Word) : State :=
  { image with ctx := { image.ctx with run := .running }, mem := Mem.write [] (hamperKey 0 0x100000) (Bits.wordLe e)
               lanes := [⟨3, 0x40, hamperKey 0 0x100000, 1⟩, ⟨128, 0x40, hamperKey 0 0x100000, 1⟩, ⟨129, 0x40, hamperKey 0 0x100000, 1⟩] }
/-- A command of it that has started. -/
def bound (op : Instr) (ws : List Word) : Cmd := { cmd op true 0 ws with wins := [{ win with perm := 15 }] }

/-- EngineCommands: such commands meet the conditions on the machine, and the lanes are those bound. -/
theorem test_witness_bytes_undisturbed :
    let s := laned 0
    let c := bound (.cpy c0) []
    (c.started = true ∧ c.uid = s.ctx.uid ∧ s.others = [] ∧ s.ctx.trMode = 0 ∧ s.views = [] ∧ s.poison = [] ∧ s.ctx.isOut = false ∧ s.ctx.core = 0) ∧
    (s.lane 3).map Lane.tab = some 0x40 ∧ (s.lane 128).map Lane.key = some (hamperKey 0 0x100000) ∧ (s.lane 129).map Lane.tab = some 0x40 := by
  decide +kernel

/-- EngineCommands: a CPY of 8 bytes: its descriptor, its places. -/
theorem test_witness_copy :
    let w (n : Nat) : Word := (cpyWords 1).getD n 0
    let cnt (d : Nat) : Nat := if d < 1 then ((w (3 + 2 * d)).extractLsb' 0 32).toNat else 1
    let i (m d : Nat) : Nat := m / ((List.range d).map cnt).prod % cnt d
    let at' (p : Word) (lo m : Nat) : Word :=
      p + BitVec.ofInt 64 (i m 0 + ((List.range 5).map fun e => (i m (e + 1) : ℤ) * ((w (6 + 2 * e)).extractLsb' lo 32).toInt).sum)
    ((w 2).extractLsb' 0 3).toNat = 1 ∧ (w 2).extractLsb' 48 16 = 0 ∧ (w 2).extractLsb' 40 8 ≤ 128 ∧ (w 2).extractLsb' 3 37 = 0 ∧ w 4 = 0 ∧ w 15 = 0 ∧
    ((List.range 6).map cnt).prod = 8 ∧ (w 3).extractLsb' 32 32 = 0 ∧
    (∀ m < 8, at' (w 0 + 0) 32 m = 0x8200000000000000 + BitVec.ofNat 64 m ∧ at' (w 1 + 0) 0 m = 0x8200000000000000 + BitVec.ofNat 64 (0x40 + m)) ∧
    ∀ m < 8, (∀ j < 8, hamperKey 0 (0x40 + m) ≠ hamperKey 0 j) ∧ ∀ j < m, hamperKey 0 (0x40 + m) ≠ hamperKey 0 (0x40 + j) := by decide +kernel

/-- EngineCommands: TMOV of a tile: its descriptor plain, through the compress lane and through the expand lane, and the addresses of a byte. -/
theorem test_witness_move :
    let w3 (pad xf : Nat) : Word := BitVec.ofNat 64 (pad * 2 ^ 31 + xf * 2 ^ 38)
    let at' (p w2 : Word) (lo size m : Nat) : Word := p + BitVec.ofInt 64 (64 * (w2.extractLsb' lo 24).toInt * (m / size : Nat) + (m % size : Nat))
    let one : Word := 0x1000000000000
    (one.extractLsb' 48 16).toNat = 1 ∧
    (∀ x ∈ [(0, 0), (8, 1), (8, 2)], ((w3 x.1 x.2).extractLsb' 31 7).toNat = x.1 ∧ ((w3 x.1 x.2).extractLsb' 38 2).toNat = x.2 ∧
      (w3 x.1 x.2).extractLsb' 48 16 = 0 ∧ (w3 x.1 x.2).extractLsb' 40 8 ≤ 128 ∧ (w3 x.1 x.2).extractLsb' 0 31 = 0) ∧
    (∀ m < 512, at' 0x8200000000000000 one 24 4096 m = 0x8200000000000000 + BitVec.ofNat 64 m ∧
      at' 0x8100000000000000 one 0 512 m = 0x8100000000000000 + BitVec.ofNat 64 m) ∧
    at' 0x80FF800000000000 one 24 4096 4095 = 0x80FF800000000000 + BitVec.ofNat 64 4095 ∧
    spaceOf 0x80FF800000000000 = .pocket ∧ spaceOf 0x8100000000000000 = .basket ∧ ((0x8100000000000000 : Word).extractLsb' 51 5).toNat = 0 := by
  decide +kernel

/-- EngineCommands: what the lanes of such a TMOV come to: nothing of 4,096 bytes; 4,096 bytes of 512, with four for each nibble. -/
theorem test_witness_move_lanes :
    LaneRun (laned 0).mem (hamperKey 0 0x100000) 0 (nibblesOf (List.replicate 4096 0)) [] 0 ∧
    LaneRun (laned 0x8000000000000).mem (hamperKey 0 0x100000) 0 (nibblesOf (List.replicate 512 0)) (List.replicate 4096 0) 0 ∧
    (∀ i < 4096, pocketKey 0 i < hamperKey 0 0x100000 ∨ hamperKey 0 0x100000 + 2 ^ 19 ≤ pocketKey 0 i) ∧
    ∀ i < 512, basketKey 0 i < hamperKey 0 0x100000 := by
  refine ⟨?_, ?_, fun i h => .inr ?_, fun i h => ?_⟩
  · rw [nibbles_zero]
    have h := lane_stays (laned 0).mem (hamperKey 0 0x100000) 0 (by decide +kernel) (by decide) (by decide) (2 * 4096)
    rwa [show ((List.range ((0 : Word).extractLsb' 49 3).toNat).map fun j => ((0 : Word) >>> (8 * j)).setWidth 8 : List Byte) = [] by decide,
      List.flatten_replicate_nil] at h
  · rw [nibbles_zero]
    have h := lane_stays (laned 0x8000000000000).mem (hamperKey 0 0x100000) 0x8000000000000 (by decide +kernel) (by decide) (by decide) (2 * 512)
    rwa [show ((List.replicate (2 * 512) ((List.range ((0x8000000000000 : Word).extractLsb' 49 3).toNat).map fun j =>
        ((0x8000000000000 : Word) >>> (8 * j)).setWidth 8)).flatten : List Byte) = List.replicate 4096 0 by
      rw [show ((List.range ((0x8000000000000 : Word).extractLsb' 49 3).toNat).map fun j => ((0x8000000000000 : Word) >>> (8 * j)).setWidth 8 : List Byte) =
        List.replicate 4 0 by decide, List.flatten_replicate_replicate]] at h
  · simp [pocketKey, hamperKey, regionKey]; omega
  · simp [basketKey, hamperKey, regionKey]; omega

/-- EngineCommands: GSX of one item of 8 bytes with index 0, both ways: its descriptor, its table in the page, its index and its run. -/
theorem test_witness_gather :
    let w3 : Word := 0x0000010000080000
    let s := laned 0
    let c := bound (.gsx c0) []
    (w3.extractLsb' 40 24).toNat = 1 ∧ (w3.extractLsb' 16 16).toNat = 8 ∧ w3.extractLsb' 32 8 = 0 ∧ w3.extractLsb' 0 16 = 0 ∧ spaceOf 0x10000 = .global ∧
    ((8 : Word).extractLsb' 48 16 = 0 ∧ (0 : Word).extractLsb' 1 39 = 0 ∧ (1 : Word).extractLsb' 1 39 = 0 ∧ (1 : Word).getLsbD 0 = true) ∧
    (∀ i < 8, ((0x10000 + BitVec.ofNat 64 i : Word)).extractLsb' 48 16 = 0 ∧
      findWindow c.wins (0x10000 + BitVec.ofNat 64 i : Word).toNat = some { win with perm := 15 } ∧
      s.answer (.virt c.asn (({ win with perm := 15 } : WinEntry).map (0x10000 + i))) 1 false = .served [(physKey 0 (0x5000 + i), 1)] ∧
      s.answer (.virt c.asn (({ win with perm := 15 } : WinEntry).map (0x10000 + i))) 1 true = .served [(physKey 0 (0x5000 + i), 1)]) ∧
    (∀ i < 8, ∀ j < 8, physKey 0 (0x5000 + i) ≠ hamperKey 0 (0x40 + j)) ∧ ({ win with perm := 15 } : WinEntry).allows .write = true ∧
    (∀ i < 8, ∀ j < 4, hamperKey 0 (0x40 + i) ≠ hamperKey 0 j) := by decide +kernel

/-- EngineCommands: FSTL and a chain of two XLNK blocks over one byte, of which the lane makes two and four; their descriptors and the places
of what they write. -/
theorem test_witness_lanes_and_chains :
    let e : Word := 0x2000000000000
    let w (i : Nat) : Word := ([0x8200000000000000, 0x8200000000000040, 0x1000000001, 0x40, 0, 0, 0, 0] : List Word).getD i 0
    let v (i j : Nat) : Word := (([[0x8200000000000000, 0, 0x1000000001, 0x40, 0x8200000000000200, 3, 0, 0],
      [0, 0x8200000000000040, 0x1000000000, 0x40, 0, 3, 0, 0]] : List (List Word)).getD i []).getD j 0
    (1 ≤ (w 2).extractLsb' 32 32 ∧ (w 5).extractLsb' 48 16 = 0 ∧ (w 5).extractLsb' 40 8 ≤ 128 ∧ (w 5).extractLsb' 7 33 = 0 ∧ w 7 = 0 ∧ w 4 = 0 ∧
      (w 5).extractLsb' 0 7 = 0 ∧ ((w 2).extractLsb' 0 32).toNat = 1 ∧ ((w 2).extractLsb' 32 32).toNat = 16) ∧
    (∀ i < 2, 1 ≤ (v i 2).extractLsb' 32 32 ∧ (v i 5).extractLsb' 48 16 = 0 ∧ (v i 5).extractLsb' 40 8 ≤ 128 ∧ (v i 5).extractLsb' 7 33 = 0 ∧ v i 7 = 0 ∧
      (v i 5).extractLsb' 4 3 = (v 0 5).extractLsb' 4 3 ∧ ((v i 5).extractLsb' 0 7).toNat = 3) ∧
    (v 1 0 = 0 ∧ (v 1 2).extractLsb' 0 32 = 0 ∧ v 0 1 = 0 ∧ (v 0 2).extractLsb' 32 32 ≤ 16384 ∧ ((v 0 2).extractLsb' 0 32).toNat = 1 ∧
      (v 0 4).extractLsb' 0 6 = 0) ∧
    LaneRun (laned e).mem (hamperKey 0 0x100000) 0 (nibblesOf (List.replicate 1 0)) (List.replicate 2 0) 0 ∧
    LaneRun (laned e).mem (hamperKey 0 0x100000) 0 (nibblesOf (List.replicate 2 0)) (List.replicate 4 0) 0 ∧
    (∀ i < 16, ∀ j < i, hamperKey 0 (0x40 + i) ≠ hamperKey 0 (0x40 + j)) ∧ (∀ i < 20, hamperKey 0 (0x40 + i) ≠ hamperKey 0 0) ∧
    ∀ i < 0x300, hamperKey 0 i < hamperKey 0 0x100000 := by
  have run (n : Nat) := lane_stays (laned 0x2000000000000).mem (hamperKey 0 0x100000) 0x2000000000000 (by decide +kernel) (by decide) (by decide) n
  refine ⟨by decide +kernel, by decide +kernel, by decide +kernel, ?_, ?_, by decide +kernel, by decide +kernel, by decide +kernel⟩
  · exact run 2
  · exact run 4

/-- EngineCommands: WSTR of 4 bytes of the page into a tray slot, plain and through a lane. -/
theorem test_witness_weight_stream :
    let w (tab : Word) (i : Nat) : Word := ([0x10000, 0x400000004, tab, 0] : List Word).getD i 0
    let via (i : Nat) : Word := ([0x10000, 0x400000002, 0x40, 1] : List Word).getD i 0
    ((w 0 1).extractLsb' 48 16 = 0 ∧ ((w 0 1).extractLsb' 32 16).toNat = 4 ∧ ((w 0 1).extractLsb' 0 32).toNat = 4 ∧ (w 0 3).extractLsb' 4 36 = 0 ∧
      ((w 0 3).extractLsb' 0 4).toNat ≤ 1 ∧ w 0 2 = 0 ∧ spaceOf (w 0 0) = .global) ∧
    (((via 1).extractLsb' 32 16).toNat = 4 ∧ ((via 1).extractLsb' 0 32).toNat = 2 ∧ via 2 ≠ 0 ∧ ((via 3).extractLsb' 0 4).toNat = 1) ∧
    (∀ i < 4, ∀ j < 4, (laned 0).ctx.trayAt 0 i ≠ physKey 0 (0x5000 + j)) ∧
    LaneRun (laned 0x2000000000000).mem (hamperKey 0 0x100000) 0 (nibblesOf (List.replicate 2 0)) (List.replicate 4 0) 0 := by
  refine ⟨by decide +kernel, by decide +kernel, by decide +kernel, ?_⟩
  exact (test_witness_lanes_and_chains).2.2.2.2.1

/-! ### Further clauses of the array, trays and commands -/

/-- TrayAndLatches: a TLD in order, nothing to be seen but memory's own. -/
theorem test_witness_tile_in_order : InOrder tile ∧ Foremost tile ∧ tile.views = [] ∧ AtPocket tile (.port (pocketKey 0 0)) 0 := by
  refine ⟨inOrder_first _ rfl rfl, foremost_of ?_, ?_⟩ <;> (try unfold AtPocket) <;> decide +kernel

/-- MatrixBlocks: a latch set that a capture gives, and one read in the cycle of its block. -/
theorem test_witness_latches :
    let job : ArrayJob := ⟨none, 0, 0, some 0, [(⟨.sl, 1⟩, 5)], 0, 0, 0, 0, 64⟩
    job.caps.lookup ⟨.sl, 1⟩ = some 5 ∧ { job with caps := [] }.caps = [] ∧ State.reset.ctx.oldViews = [] ∧
    job.qtime = some 0 ∧ 0 + job.age = (State.reset.ctx.slot 4).time := by decide +kernel

/-- ArrayOperationsAndStore: an MST in slot M with a fold and .rsto, its pointers good and bad. -/
theorem test_witness_folding_store :
    let s : State := ctx fun c => { c with now := { c.now with slot := 3, issue := { c.now.issue with fresh := 8 } }, windows := [{ win with perm := 15 }],
                                           areg := (c.areg.set 1 0x80FF800000000000).set 2 0x10000 }
    let f : MForm := { m0 with base := 1, idx := 2, dt := 9, disp := 0x11000 }
    let u := s.mapSlot fun x => { x with ea := shortAddr s f 256 }
    s.k = 3 ∧ u.acts f.pred f.pneg = true ∧ f.disp.getLsbD 12 = true ∧ (f.disp.extractLsb' 14 3 == 4) = true ∧ s.ra f.idx.toNat = 0x10000 ∧
    u.check ⟨.write, 16384, false, false⟩ (shortAddr s f 256) = .ok (.port (pocketKey 0 0)) ∧
    u.check ⟨.atomic, 4, true, false⟩ 0x10000 = .ok (.virt 0 0x100000) ∧ u.check ⟨.atomic, 4, true, false⟩ 0x20000 = .error ⟨4, 0x21, 0⟩ ∧
    u.check ⟨.write, 16384, false, false⟩ 0xFF00000000000000 = .error ⟨1, 0x24, 0⟩ ∧ s.ctx.drain = 0 ∧ (s.ctx.tileHist 0).since = 0 ∧
    0x00B ∉ s.ctx.crNow := by decide +kernel

/-- ChainContraction: nothing captured; numbers of a chain next to DONE and beyond; two pairs of finite factors. -/
theorem test_witness_chain_numbers :
    State.reset.captured ⟨.cr, 0x014⟩ = none ∧ State.reset.captured ⟨.cr, 0x015⟩ = none ∧ 0x015 ∉ State.reset.ctx.crNow ∧
    (State.reset.ctx.tcval 3).early = [] ∧ 1 = (State.reset.ctx.tcval 3).done + 1 ∧ 2 ≠ (State.reset.ctx.tcval 3).done + 1 ∧
    ratVal (Fp.decode Fp.f32 0) = some 0 ∧ (32 * 0 < ([(.fin false 1 0, .fin false 1 0)] : List (Fp.FVal × Fp.FVal)).length) := by
  refine ⟨?_, ?_, ?_, ?_, ?_, ?_, ?_, ?_⟩
  case refine_7 => rw [show Fp.decode Fp.f32 0 = .fin false 0 (-149) by decide +kernel]; norm_num [ratVal]
  all_goals decide +kernel

/-- EngineCommands: a command with nothing under way before it, that waits for nothing; one that fills a tray slot; one that sets tiles;
one whose descriptor is read. -/
theorem test_witness_command_orders :
    let go := cmd (.cpy c0) true 0 (cpyWords 1)
    let new := { cmd (.cpy c0) false 0 [] with desc := 0x8200000000001000 }
    let s := with1 go
    (∀ x ∈ s.others, x.uid ≠ go.uid) ∧ s.reqs = [] ∧ go.behind = [] ∧ s.ctx.behindBarrier go.idx = false ∧ (go.words.all fun w => spaceOf w != .remote) = true ∧
    s.laneWaits go = false ∧ s.ctx.tileNow = [] ∧ s.ctx.tileWait = [] ∧ go.num ≤ ((s.ctx.tcval go.tc).complete go.num).done ∧
    (match (with1 new).readDesc { new with started := true, wins := (with1 new).ctx.windows, known := (with1 new).commandKnows new, behind := [] } with
      | .ok ws => ws == List.replicate 16 0
      | _ => false) = true ∧
    (let c := { bound (.wstr c0) [0x10000, 0x400000004, 0, 1] with tray := some 2 }
     ((laned 0).runCmd c none).head = some (1, 4) ∧ ((laned 0).runCmd c none).stop.isNone = true) ∧
    (let c := bound (.cpy c0) ((cpyWords 1).set 1 0x80FF800000000000)
     ((laned 0).runCmd c none).stop.isNone = true ∧ (∀ p ∈ ((laned 0).runCmd c none).tiles, p.1 = c.uid)) := by
  decide +kernel

/-- ContextInstructions: no time for retries, and some. -/
theorem test_witness_retry_time :
    (ctx fun c => { c with tkexp := 0 }).ctx.tkexp.extractLsb' 32 20 = 0 ∧
    ((State.reset.ctx.tkexp.extractLsb' 32 20).toNat * State.reset.usCycles State.reset.ctx.die ≠ 0) := by decide +kernel

/-- The reset state with one result in flight of slot S, at time 3, due at `due`. -/
def flying (due : Nat) (e : Eff) : State :=
  State.reset.mapSlot fun x => { x with time := 3, flights := [⟨due, 0, Site.none, false, [e], none⟩] }
/-- The reset state with a landing load of s1 and its answer. -/
def landing : State :=
  { ctx fun c => { c with landings := [⟨5, 0, 0, 0, Site.none, false, some ⟨⟨.s, 1⟩, 1, false⟩, false, none, none, false, false, [], none⟩] } with
      resps := [⟨9, 0, some 5, [0x80], false, false, 0, none, Site.none, 0, 0, 0, none, 0, some 0⟩] }

/-- ResultsAreWritten: a result that is due and one that is not, of each kind; an answer for an entry. -/
theorem test_witness_results :
    let f (due : Nat) (e : Eff) : Flight := ⟨due, 0, Site.none, false, [e], none⟩
    ((flying 4 (.reg ⟨.s, 1⟩ 7)).ctx.slot 0).flights = [f 4 (.reg ⟨.s, 1⟩ 7)] ∧ ((flying 4 (.reg ⟨.s, 1⟩ 7)).ctx.slot 0).time < 4 ∧
    ((flying 3 (.reg ⟨.p, 0⟩ 7)).ctx.slot 0).flights = [f 3 (.reg ⟨.p, 0⟩ 7)] ∧ 3 ≤ ((flying 3 (.vec 63 0 0)).ctx.slot 0).time ∧
    ((flying 3 (.vec 63 0 0)).ctx.slot 0).flights = [f 3 (.vec 63 0 0)] ∧ ((flying 3 (.flags 1)).ctx.slot 0).flights = [f 3 (.flags 1)] ∧
    (flying 3 (.flags 1)).ctx.uiAct = false ∧ (flying 3 (.flags 1)).ctx.landings = [] ∧
    ((flying 3 (.flags 1)).ctx.trayHeads.toList.all fun h => h.state != 2) = true ∧
    ((∀ r ∈ landing.resps, landing.answered r = true ∧ landing.answered { r with time := none } = false) ∧ landing.resps.map Resp.land = [some 5] ∧ landing.ctx.landings.map Landing.id = [5] ∧
      landing.ctx.landings.map Landing.dst = [some ⟨⟨.s, 1⟩, 1, false⟩] ∧ landing.ctx.landings.map Landing.pend = [false] ∧
      landing.resps.map Resp.uid = [landing.ctx.uid]) := by decide +kernel

/-- A request of the focused context, and the reset state, running, with it alone under way. -/
def req (place : Place) (act : Action) (state : ReqState) : Req :=
  { State.reset.newReq 0 place act 0 none with state := state }
/-- The state that holds it, with a page and a clock of 5,000. -/
def under (r : Req) (p : Option Page := none) : State :=
  { ctx fun c => { c with run := .running, pipe := { c.pipe with slots := c.pipe.slots.map fun x => { x with pos := 1 } } } with
      reqs := [r], pages := p.toList, clock := 5000 }
/-- Page 0x100 of the space 0, at frame 5. -/
def page (st' : PageState) : Page := ⟨⟨0, 0, 0x100⟩, false, st', 5, true, true, none⟩

/-- RequestsAndTickets: a write and a read at a port; at a page that is there, absent, and not mapped; at the memory of a die, with and
without a page, and one that carries a ticket. -/
theorem test_witness_requests_at_their_place :
    let r := req (.virt 0 0x100FF8) (.write [1, 2, 3, 4, 5, 6, 7, 8]) (.sent 5000)
    let m := req (.remote 0 0 0x100FF8) (.read 8) (.sent 0)
    (r.state = .sent 5000 ∧ 5000 ≤ (under r).clock ∧ (under r).others = [] ∧ (under r).poison = [] ∧ (under r).views = [] ∧
      (under r).hostmaps = [] ∧ (under r).denied = [] ∧ (under r).ctx.releases = [] ∧ ((under r).ctx.slot 0).wait = none ∧
      (∀ x ∈ (under r).ctx.pipe.slots, x.flights = [] ∧ r.idx < x.pos) ∧ (under r).ctx.behindBarrier r.idx = false ∧ (under r).history = [] ∧ r.ticket = none ∧ r.ratom = false ∧ r.poison = [] ∧ Mem.wf (under r).mem = true) ∧
    (req (.port 7) (.read 8) (.sent 0)).place = .port 7 ∧ (0x100FF8 % 4096 + r.size = 4096 ∧ 0 < r.size) ∧
    (under r (some (page .resident))).findPage ⟨0, 0, 0x100⟩ = some (page .resident) ∧ (under r).poolDown = [] ∧ (page .resident).frame < 2 ^ 27 ∧
    (page .resident).writable = true ∧ (page .absent).state ≠ .resident ∧ (under r).findPage ⟨0, 0, 0x100⟩ = none ∧
    r.uid = (under r).ctx.uid ∧ (under r).ctx.run = .running ∧ m.isRstd = false ∧ { m with isRstd := true, carried := [1] }.carried ≠ [] ∧
    (under m (some (page .resident))).findPage ⟨(under m).pkgOf 0, 0, 0x100⟩ = some (page .resident) ∧
    (under m).findPage ⟨(under m).pkgOf 0, 0, 0x100⟩ = none := by decide +kernel

/-- RequestsAndTickets: a RATOM held by a router and a retry, whose time has come and has not; one not ready for too long; a store held
for too long; responses with and without an error. -/
theorem test_witness_requests_under_way :
    let r := { req (.remote 0 0 0) (.read 8) (.retry 5000 false) with since := some 0, rnrt := 2 }
    let h := { req (.remote 0 0 0) (.write [0]) (.held 0) with limit := 2 }
    ((under r).reqs = [r] ∧ (under r).delays = [] ∧ r.state = .retry 5000 false ∧ 5000 ≤ (under r).clock ∧ (under r).clock < 5001) ∧
    (req (.remote 0 0 0) (.read 8) (.merging 5000)).state = .merging 5000 ∧
    (r.since = some 0 ∧ 0 + r.rnrt * (under r).reqUs r ≤ (under r).clock ∧ r.ticket = none) ∧
    (h.place = .remote 0 0 0 ∧ h.ticket = none ∧ h.state = .held 0 ∧ 0 + h.limit * (under h).reqUs h < (under h).clock ∧ (under h).pkgOf 0 = 0) ∧
    (landing.resps.map Resp.err = [none] ∧ landing.resps.map Resp.uid = [landing.ctx.uid]) ∧ (under r).ticketMsgs = [] := by decide +kernel

/-- RequestsAndTickets: an RSTD that comes to a die that holds 256 stores; one whose only ticket is released, with its page. -/
theorem test_witness_turnstile :
    let h : Word := 0x8000000700000005
    let r := { req (.remote 1 0 0x100FF8) (.write [7]) (.sent 5000) with isRstd := true, carried := [h] }
    let held := { r with id := r.id + 1, state := .held 0 }
    let s := { under r with reqs := r :: List.replicate 256 held, dims := (2, 1, 1) }
    (r ∈ s.reqs ∧ (∀ q ∈ s.reqs, q.id = r.id → q = r) ∧ r.target = some 1 ∧ 5000 ≤ s.clock ∧ s.heldByTarget r = false ∧ r.isRstd = true ∧
      r.carried ≠ [] ∧ 256 ≤ (s.reqs.countP fun q => q.target == some 1 && q.state matches .held _)) ∧
    (let t := { under held (some (page .resident)) with dims := (2, 1, 1) }
     (held.carried.filter fun g => g != h) = [] ∧ 0x100FF8 % 4096 + 1 ≤ 4096 ∧ t.findPage ⟨t.pkgOf 1, 0, 0x100⟩ = some (page .resident) ∧
       t.ctxOf held.uid = some t.ctx ∧ t.history = [] ∧ held.ticket = none ∧ held.ratom = false ∧ held.poison = [] ∧ held.state = .held 0) := by
  decide +kernel

/-- RequestsAndTickets: a ticket that lands; a store held with two tickets, one of which is released, and one that is cancelled. -/
theorem test_witness_ticket_messages :
    let h : Word := 0x8000000700000005
    let u : TicketEntry := ⟨0, 5, 7, true, [1]⟩
    let r := { req (.remote 1 0 0) (.write [0]) (.held 0) with carried := [h, 0x8000000000000001] }
    let m (k : Nat) : TicketMsg := ⟨k, 1, 1, 0, h, some 0⟩
    let s (k : Nat) : State := { State.reset with ticketMsgs := [m k], reqs := [r], dims := (2, 1, 1) }
    (({ s 0 with ticketMsgs := [⟨0, 1, 0, 0, h, some 0⟩] }).msgThere ⟨0, 1, 0, 0, h, some 0⟩ = true ∧ (s 1).msgThere (m 1) = true ∧
      (s 2).msgThere (m 2) = true) ∧ h.getLsbD 63 = true ∧ u.entry = h.toNat % 1024 ∧ u.gen = h.extractLsb' 32 16 ∧ u.pending = true ∧
    (r.target = some 1 ∧ r.src = 0 ∧ h ∈ r.carried ∧ (r.carried.filter fun g => g != h) ≠ [] ∧ r.ticket = none) := by
  decide +kernel

/-- The package booted from copy A, with one page and an input about it. -/
def served (p : Page) (i : Input → Input) : State :=
  { State.reset with bootst := 1, pages := [p], input := i { Input.zero with page := p.ref }, clock := 10 }

/-- PagesAndErrors: pages in each state, a probe in time and none; dies and addresses at their ends. -/
theorem test_witness_pages :
    let s := served { page .resident with probed := some 0 } fun i => { i with flag := true }
    (s.stewardUp s.input.die = true ∧ s.input.page = (page .resident).ref ∧ s.reqs = [] ∧ Mem.wf s.mem = true ∧ s.input.flag = true) ∧
    s.clock < 0 + 2000 * s.usCycles s.input.die ∧ (page .resident).probed = none ∧ (page .absent).state = .absent ∧
    (page .migrating).state = .migrating ∧ (page .resident).cow = true ∧ (served (page .absent) id).input.flag = false ∧ (3 : Nat) < 4 := by
  decide +kernel

/-- PagesAndErrors: errors found; stewards asked and not asked, at the times of R20. -/
theorem test_witness_errors_and_stewards :
    let s : State := { State.reset with bootst := 1, age := 1800000000 }
    State.reset.input.site.kind.toNat < 6 ∧ State.reset.input.flag = false ∧ 0 ≤ 2 ^ 32 - 1 - (State.reset.errCounts 0 0).1 ∧
    s.teams = [] ∧ (s.stewardUp (0 / 8) = true ∧ 0 < 32 ∧ s.resmap.getLsbD 0 = false) ∧ s.stewards[s.input.die]? = some ⟨0, false, false, false⟩ ∧
    0 + 180000000 ≤ s.age ∧ 0 + 1800000000 ≤ s.age ∧ ¬ State.reset.age < 0 ∧ (State.reset.age < 0 + 180000000) := by decide +kernel

/-- PagesAndErrors: a core whose errors exceed whatever the threshold is. -/
theorem test_witness_withhold : Config.errorThreshold < (([(0, Config.errorThreshold + 1)] : List (Nat × Nat)).lookup 0).getD 0 := by
  simp

/-- An encrypted link end with a key in each slot. -/
def link : Link :=
  { Link.trained ⟨0, 0⟩ 8 (some 0) with slot1 := ⟨some 1, 0, 0, false, false⟩, sinceMark := some 4096 }

/-- The package with a link end whose key in use has sealed `n` frames, and an event about it. -/
def linked (l : Link) (i : Input → Input := id) : State := { State.reset with links := [l], input := i { Input.zero with link := l.ref } }
/-- The end above whose key has sealed `n` frames. -/
def sealing (n : Nat) : Link := { link with slot0 := { link.slot0 with counter := n } }

/-- LinksAndKeys: an end that is up, encrypted and not; a flit out of sequence; keys ready and not, counts at their ends; the marker; a
replay that has failed seven times. -/
theorem test_witness_links :
    let plain := Link.trained ⟨0, 0⟩ 8 none
    let lone := Link.trained ⟨0, 0⟩ 8 (some 0)
    ((linked link).links.map Link.ref = [link.ref] ∧ (linked link).input.link = link.ref ∧ (linked link).input.messages = [] ∧ link.outbox = [] ∧
      link.again = [] ∧ link.wire = [] ∧ link.up = true ∧ link.encrypted = true) ∧
    (plain.up = true ∧ plain.encrypted = false ∧ flitOk [] = false ∧ plain.sinceMark = none ∧ plain.credits.length = 4 ∧ plain.outbox = []) ∧
    (let l := { link with sinceMark := some 4095 }
     (l.slot1.key.isSome = true ∧ l.slot1.retired = false ∧ (4095 : Nat) < 4096 ∧ (!l.useSlot) ≠ l.rxSlot) ∧ link.slot0.counter < 2 ^ 47) ∧
    (link.slot1.key.isSome = true ∧ link.slot1.spent = false ∧ link.useSlot = false ∧ link.slot1.counter = 0) ∧ lone.slot1.key = none ∧
    lone.warned = false ∧ ((sealing (2 ^ 47 - 1)).slot0.counter < 2 ^ 47 ∧ 2 ^ 47 ≤ (sealing (2 ^ 47 - 1)).slot0.counter + 1) ∧
    2 ^ 48 - 1 ≤ (sealing (2 ^ 48 - 1)).slot0.counter + 0 ∧ link.sinceMark = some 4096 ∧
    (let l := { plain with failSeq := some 3, acked := 3, fails := 7 }
     l.failSeq = some (3 % 4096) ∧ l.acked = 3 % 4096 ∧ 8 ≤ l.fails + 1 ∧ l.replay = []) ∧
    (plain.credits.getD 3 (0, 0) = (0, 0) ∧ { plain with credits := [(0, 0), (0, 0), (0, 0), (1, 0)] }.credits.getD 3 (0, 0) = (1, 0)) ∧
    ((0, 0) ∈ ({ State.reset with draining := [(0, 0)] }).draining ∧ (State.reset.input.die, State.reset.input.n) ∉ State.reset.draining) := by
  decide +kernel

/-- The halves of a tag. -/
theorem halves (t : BitVec 128) : t.extractLsb' 64 64 ++ t.extractLsb' 0 64 = t := by
  ext i h
  simp only [BitVec.getElem_append, BitVec.getElem_extractLsb']
  split
  · simp_all
  · rw [show 64 + (i - 64) = i by omega, BitVec.getLsbD_eq_getElem h]

/-- LinksAndKeys: a flit in sequence, whatever its header says; a frame whose tag is the one that GCM gives, whatever slot its header names;
and a frame too short to have one. -/
theorem test_witness_flits_and_frames :
    (∃ bs, flitOk bs = true ∧ (flitSeq (flitHead bs)).toNat = { link with rxSeq := (flitSeq (flitHead bs)).toNat }.rxSeq) ∧
    (∃ (l : Link) (fs : List (List Byte)) (a b : Word),
      let which := flitSlot (flitHead (fs.headD []))
      l.up = true ∧ l.encrypted = true ∧ l.switchDue = false ∧ which = l.rxSlot ∧ l.slot0.key = some 0 ∧ l.slot1.key = some 0 ∧
        l.slot0.retired = false ∧ l.slot1.retired = false ∧ 1 ≤ fs.length ∧ fs.length ≤ 16 ∧ a ++ b = frameTag 0 0 fs) ∧
    (∃ l : Link, (flitSeq (flitHead [])).toNat = l.rxSeq ∧ (flitSeq (flitHead [])).toNat ≠ { l with rxSeq := l.rxSeq + 1 }.rxSeq) ∧
    (¬ 1 ≤ ([] : List (List Byte)).length ∧ link.frameFails < 2 ∧ 2 ≤ { link with frameFails := 2 }.frameFails) := by
  refine ⟨⟨List.replicate 252 0 ++ Bits.natLe 4 (crc32c (List.replicate 252 0)), by decide +kernel, rfl⟩, ?_, ⟨{ link with rxSeq := _ }, rfl, Nat.ne_of_lt (Nat.lt_succ_self _)⟩, by decide⟩
  let fs : List (List Byte) := [[]]
  exact ⟨{ link with slot1 := { link.slot1 with key := some 0 }, rxSlot := flitSlot (flitHead (fs.headD [])) }, fs, _, _, rfl, rfl,
    by decide, rfl, rfl, rfl, rfl, rfl, by decide, by decide, halves _⟩

/-- The state in which page `n` of the mailbox is being served, with words in its copy. -/
def mail (n : Nat) (ws : List Word) (s : State := State.reset) : State :=
  { s with bootst := 1, mailbox := some (n, ws.flatMap Bits.wordLe) }
/-- The copy served. -/
def copyOf (ws : List Word) : List Byte := ws.flatMap Bits.wordLe

/-- Mailbox: each command served, from the first page to the last. -/
theorem test_witness_mailbox_served :
    ∀ cmd ∈ [1, 2, 3, 4, 5, 6, 7], ∀ n ∈ [0, 7], Serves (mail n [1, BitVec.ofNat 64 cmd]) cmd n (copyOf [1, BitVec.ofNat 64 cmd]) := by
  unfold Serves Canonical mail copyOf; decide +kernel

/-- Mailbox: pages with and without OWN, a code that is none of the seven, and a sequence number that changes. -/
theorem test_witness_host_event :
    let owned (cmd : Byte) : State := { State.reset with bootst := 1, hevts := [7], mem := Mem.write [] (mailPage 7 0) [1, 0, 0, 0, 0, 0, 0, 0, cmd] }
    let copy (cmd : Byte) := Mem.read (owned cmd).mem (mailPage 7 0) 4096
    Canonical (owned 1) ∧ (owned 1).mailbox = none ∧ (owned 1).mailServed 1 = true ∧ State.reset.mailServed 1 = false ∧
    (pageWord (copy 1) 0).getLsbD 0 = true ∧ ((pageWord (copy 7) 1).extractLsb' 0 16).toNat = 7 ∧
    ((pageWord (copy 8) 1).extractLsb' 0 16).toNat = 8 ∧ (pageWord (Mem.read [] (mailPage 7 0) 4096) 0).getLsbD 0 = false ∧
    ((0x100000000 : Word).extractLsb' 32 32).toNat ≠ ((pageWord (copy 1) 0).extractLsb' 32 32).toNat ∧
    (mail 0 [1]).mailbox = some (0, copyOf [1]) ∧ State.reset.input.m = 0 ∧ State.reset.input.n < 8 ∧ State.reset.input.bytes.length ≤ 4096 := by
  unfold Canonical; decide +kernel

/-- Mailbox: LAUNCH at a die that is not there, of a record that is refused, and of one read at a physical address; a range that is
mapped and one that is not; UNMAP with an access in flight. -/
theorem test_witness_mailbox_mappings :
    let w (ws : List Word) (i : Nat) : Nat := (pageWord (copyOf ws) i).toNat
    let good : List Word := [1, 2, 255, 0x1000, 0x2000, 0x1000]
    (4 ≤ w [1, 1, 0, 4] 3 ∧ w [1, 1, 0, 3] 3 < 4 ∧ w [1, 1, 1, 0] 2 % 64 ≠ 0) ∧ ((mail 0 [1, 1]).launchFrom true 0 0x40 true).isSome ∧
    (w good 2 < 256 ∧ w good 3 % 4096 = 0 ∧ w good 5 % 4096 = 0 ∧ w good 5 ≠ 0 ∧ w good 3 + w good 5 ≤ 2 ^ 48 ∧ w good 4 % 4096 = 0 ∧
      w good 4 + w good 5 ≤ 2 ^ 64 ∧ w good 5 ≤ 2 ^ 40) ∧ ¬ w [1, 2, 256] 2 < 256 ∧ State.reset.pages = [] ∧ State.reset.hostmaps = [] ∧
    (let r := req (.virt 0 0x100000) (.read 8) (.sent 9)
     let s := under r (some (page .resident))
     r ∈ s.reqs ∧ page .resident ∈ s.pages ∧ s.onPage r (page .resident).ref = true) := by
  decide +kernel

/-- Mailbox: queues, grids and queue pairs that meet the clauses; images that are refused, whatever the signature check says. -/
theorem test_witness_mailbox_services :
    let g : Grid := ⟨5, 0, 0, 0, [], [], [0], [], true, 0, 1, 1, 0, 0, []⟩
    (∀ d < 4, (mail 0 [1, 4, 15]).stewardUp d = true) ∧ (mail 0 [1, 4, 15]).errq.length ≤ 15 ∧ (pageWord (copyOf [1, 4, 15]) 2).toNat % 16 = 15 ∧
    (pageWord (copyOf [1, 4, 0]) 2).toNat % 16 = 0 ∧ (∀ h ∈ State.reset.grids, h.id ≠ 5) ∧
    (g.id = (pageWord (copyOf [1, 5, 5]) 2).toNat ∧ g.deps = [] ∧ (State.reset.allCtx.all fun c => c.run == .empty) = true) ∧
    (256 ≤ (pageWord (copyOf [1, 6, 256]) 2).toNat ∧ (pageWord (copyOf [1, 6, 255, 7]) 2).toNat < 256 ∧
      (pageWord (copyOf [1, 6, 255, 7]) 3).toNat < 8 ∧ State.reset.qps.length < 16384 ∧
      16384 ≤ (List.replicate 16384 (⟨0, 0, 0, 0, 0, 0, 0, false⟩ : QueuePair)).length) ∧
    State.reset.imageOk (State.reset.input.bytes.take 5) = false := by
  decide +kernel

/-- PackageServices: host accesses, a core with and without a context, and a context's own requests to control space. -/
theorem test_witness_package_registers :
    let s : State := ctx fun c => { c with run := .running }
    State.reset.input.flag = false ∧ (s.resident 0).map Ctx.uid = some s.ctx.uid ∧ State.reset.resident 511 = none ∧
    (let r := req (.control 0x100) (.read 8) (.sent 5000)
     r.state = .sent 5000 ∧ 5000 ≤ (under r).clock ∧ r.place = .control (0x100 + 64 * 0 + 8 * 0) ∧ r.ratom = false ∧ r.ticket = none ∧
       (under r).others = [] ∧ ((under r).errCounts 3 7).1 < 2 ^ 32) ∧
    (req (.control 0) (.write (Bits.wordLe 2)) (.sent 0)).act = .write (Bits.wordLe 2) ∧
    (req (.control (0x20 * 2 ^ 48 + 8 * 511)) (.write []) (.sent 0)).place = .control (0x20 * 2 ^ 48 + 8 * 511) ∧
    (req (.control (0x30 * 2 ^ 48 + 511 * 2 ^ 13 + 8 * 1023)) (.read 8) (.sent 0)).place = .control (0x30 * 2 ^ 48 + 511 * 2 ^ 13 + 8 * 1023) := by
  decide +kernel

/-- A queue pair whose post and completion objects and next entry stand in hamper 0, with the post object at `n`. -/
def pair (n : Byte) (entry : List Byte) : State :=
  { State.reset with qps := [⟨0, 0, 0, 0, 0x8200000000000000, 0x8200000000000008, 0, false⟩], input := { Input.zero with word := 0x8200000000000040 }
                     mem := Mem.write (Mem.write [] (hamperKey 0 0) [n]) (hamperKey 0 0x40) entry }

/-- PackageServices: an entry that is not yet posted, one with a reserved field, one that is served; a packet at its end; a pair that
has stopped. -/
theorem test_witness_queue_pairs :
    let q : QueuePair := ⟨0, 0, 0, 0, 0x8200000000000000, 0x8200000000000008, 0, false⟩
    let s := pair 1 [2, 0, 0, 0, 4, 0, 0, 0, 0x80, 0, 0, 0, 0, 0, 0, 0x82]
    let e (s : State) := Mem.read s.mem (hamperKey 0 0x40) 64
    s.qps = [q] ∧ s.input.uid = q.num ∧ s.poison = [] ∧ Canonical s ∧ q.place q.post = some (.port (hamperKey 0 0)) ∧
    q.place s.input.word = some (.port (hamperKey 0 0x40)) ∧ spaceOf s.input.word = .hamper ∧ q.place q.comp = some (.port (hamperKey 0 8)) ∧
    Mem.readNat (pair 0 []).mem (hamperKey 0 0) 8 = 0 ∧ 0 < Mem.readNat s.mem (hamperKey 0 0) 8 ∧
    (¬ 2 < ((pageWord (e s) 0).extractLsb' 0 8).toNat ∧ (pageWord (e s) 0).extractLsb' 8 24 = 0 ∧ ((e s).drop 32).all (· == 0) = true) ∧
    2 < ((pageWord (e (pair 1 [3])) 0).extractLsb' 0 8).toNat ∧ q.place (pageWord (e s) 1) = some (.port (hamperKey 0 0x80)) ∧
    hamperKey 0 8 + 8 ≤ hamperKey 0 0x80 ∧ (List.replicate 4096 (0 : Byte)).length ≤ 4096 ∧ { q with stopped := true }.stopped = true := by
  unfold Canonical; decide +kernel

/-- PackageServices: no image in either place. -/
theorem test_witness_recovery : State.reset.imageOk (State.reset.boot.stagedA.getD State.reset.input.boot.imageA) = false := by decide +kernel

/-- A grid of one team of one context, eligible or not, with a dependence or none. -/
def grid (ok : Bool) (deps : List (Nat × Nat × Nat × Nat)) : Grid :=
  ⟨1, 0, 0, 0, List.replicate 64 0 |>.set 6 0x0001000100000001, [], [0], deps, ok, 0, 1, 1, 0, 0, []⟩
/-- The package with that grid and teams. -/
def gridded (g : Grid) (ts : List Team) : State :=
  { State.reset with bootst := 1, grids := [g], teams := ts, input := { Input.zero with flag := true }, clock := 3600000 }
/-- A team of that grid, waiting or resident. -/
def team (n : Nat) (resident : Bool) : Team := ⟨1, n, 0, resident, false, false, 3, 3, 0, false, 0⟩

/-- GridsAndQuanta: dependences met and not; a team that is placed; a quantum that is over and one that is not; a resident team whose
cores a waiting one can take. -/
theorem test_witness_grids :
    let s := gridded (grid true []) [team 0 false]
    ((gridded (grid false [(0, 9, 0, 1)]) []).depState 9 0 1 = .met ∧ (gridded (grid false [(0, 1, 0, 1)]) [team 0 false]).depState 1 0 1 ≠ .met) ∧
    (s.ctx.uid ≤ s.fresh ∧ s.others = [] ∧ s.input.flag = true ∧ (team 0 false).swapped = false ∧ (team 0 false).ended = false) ∧
    (s.fit 0 (grid true []).teamSize (grid true []).xpocket [] []).isSome ∧ (s.fit 0 17 false [] []).isNone ∧
    ((grid true []).record.getD 5 0).extractLsb' 17 2 = 0 ∧ launchArgs (grid true []).record = [] ∧
    ((s.quantum[0]?).getD 0 + 2000 * s.usCycles 0 ≤ s.clock ∧ ¬ (State.reset.quantum[3]?).getD 0 + 2000 * State.reset.usCycles 3 ≤ State.reset.clock) ∧
    (team 0 true).resident = true := by decide +kernel

/-- GridsAndQuanta: a waiting team with room only once another has left. -/
theorem test_witness_quantum :
    let s : State := { gridded (grid true []) [team 0 true, team 1 false] with resmap := 0xFFFFFFFE }
    let core (k : Nat) : Ctx := { Ctx.reset with uid := k + 1, run := .running, core := k, grid := 1, team := 0 }
    let u : State := { s with others := (List.range 16).map core }
    u.fit 0 (grid true []).teamSize (grid true []).xpocket [] [] = none ∧
    (u.fit 0 (grid true []).teamSize (grid true []).xpocket (u.teamCores (team 0 true)) []).isSome := by decide +kernel

/-- The machine at a bundle of one word in slot S. -/
def atBundle (w : Word) : State := State.reset.withFetchWord 96 (1 + 2 ^ 32 * w.toNat)
/-- The bytes of that bundle. -/
def bundleOf (w : Word) : List Byte := Bits.natLe 12 (1 + 2 ^ 32 * w.toNat)
/-- The state at which a cycle of it issues. -/
def begun (s : State) : State := (s.onEach [s.ctx.uid] State.beginCycle).settle [s.ctx.uid] settleFuel

/-- StepRunsTheBundle: a bundle that is legal, one whose word is not, and one whose header is not; an idle context at it. -/
theorem test_witness_bundle :
    let w : Word := 0x01000C1080200000
    let s := atBundle w
    (s.ctx.pipe.ended = none ∧ s.ctx.mayDispatch = true ∧ s.ctx.pipe.rep = 0 ∧ s.ctx.pipe.skipNext = false) ∧
    (match s.fetchBundle s.ctx.pipe.pc with
      | .ok bs => bs == bundleOf w
      | _ => false) = true ∧
    Decode.bundle (bundleOf w) = (⟨true, false, 0, 0, 1⟩, [(0, w)]) ∧ Decode.slotWord .s w = .ok (.add (.r { rr 4 with d := 3, c := 0 })) ∧
    s.ctx.pipe.issueCause ⟨true, false, 0, 0, 1⟩ (some (.add (.r { rr 4 with d := 3, c := 0 }))) = 0 ∧
    (Decode.slotWord .s 0xFF00000000000000 = .error 2 ∧ Decode.rawOp .s 0xFF00000000000000 = none) ∧
    (Decode.bundle [1, 0, 0x20, 0]).1.ok = false := by decide +kernel

/-- StepRunsTheBundle: what a cycle does first leaves that context as it was. -/
theorem test_witness_cycle :
    let u := begun (atBundle 0x01000C1080200000)
    let p := u.ctx.pipe
    u.others = [] ∧ u.ctx.uid = 0 ∧ u.ctx.run = .running ∧ u.ctx.raised = [] ∧ u.ctx.mayDispatch = true ∧
    (p.ended = none ∧ p.opening = none ∧ p.redirect = none ∧ p.rep = 0 ∧ p.skipNext = false ∧ p.queue = [] ∧
      (∀ x ∈ p.sticky, x = none) ∧ p.slots.length = 7) ∧
    (p.slots.all fun x => x.pos == p.count && x.wait.isNone && !x.held && !x.stopped && !x.skip && x.cool == 0) = true ∧
    (∀ e ∈ u.ctx.landings, e.pend = false) ∧ realigns (.add (.r (rr 4))) = false ∧ (Instr.trapEntry).isOp = false := by decide +kernel

/-- A step of it: s3 receives s1 + s2 after 1 cycle. -/
theorem test_step_runs_the_bundle :
    (match step ((ctx fun c => { c with sreg := (c.sreg.set 1 5).set 2 7 }).withFetchWord 96 (1 + 2 ^ 32 * 0x01000C1080200000)) with
      | .next t => (t.ctx.slot 0).flights.map fun f => (f.due, f.effs)
      | _ => []) = [(1, [.reg ⟨.s, 3⟩ 12])] := by decide +kernel

/-- BundleEncodeDecodeRoundTrip, EveryAcceptedWordIsItsEncoding, StepKeepsMemoryCanonical: a well-formed operation with its class and opcode, and its word; an agenda
that names an event, and one that names an operation. -/
theorem test_witness_encoding :
    Encode.opCode (.add (.r (rr 4))) = some (Class.ofSlot 0, 0x01) ∧ (Instr.add (.r { rr 4 with c := 0 })).wellFormed = true ∧
    Decode.slotWord .s 0x01000C1080200000 = .ok (.add (.r { rr 4 with d := 3, c := 0 })) ∧ (Instr.add (.r (rr 4))).isOp = true ∧
    Canonical State.reset := by unfold Canonical; decide +kernel

/-- OnlyAnOperationNamedAsAnEventStops: an agenda that names an operation as an event stops; one that names an event, and an empty one, go
on. -/
theorem test_witness_stops :
    let named (i : Instr) : State := { State.reset with agenda := [.event i Input.zero] }
    let stops (s : State) : Bool := match step s with
      | .next _ => false
      | _ => true
    stops (named (.add (.r r0))) = true ∧ stops (named .trapEntry) = false ∧ stops State.reset = false := by decide +kernel

/-! ### States and operands for the further clauses of the statements -/

/-- An origin of a write, by its agent. -/
def origin (a : Agent) : Origin := ⟨a, 0, 0, 0, none, none, none, []⟩

/-- Synchronisation, BarriersAndSupersteps: writes of a command and releases of an arrival that what passes comes after; a write that a fence
orders. -/
theorem test_witness_orders :
    let w : Past := ⟨1, origin (.engine 0 3 1), [(0, [0])], [], [], [⟨4, ⟨none, some 0⟩, none⟩]⟩
    let r : Released := ⟨.arrival (0, 0) 3, 0, .ctx 1, ⟨some 1, some 0⟩, 4, [(4, w.whole)]⟩
    let s : State := { State.reset with history := [w], released := [r], barriers := [⟨(0, 0), 3, 0, 0, 1⟩] }
    (w ∈ s.history ∧ w.agent ≠ .ctx s.ctx.uid ∧ (∃ h ∈ w.shared, (0 : Nat) < h.scope ∧ h.seat.shares s.ctx.seat 4 = true)) ∧
    w.agent = .engine s.ctx.uid 3 1 ∧ (r ∈ s.released ∧ r.gate = .arrival (s.ctx.grid, s.ctx.team) 3 ∧ r.number ≤ 0) ∧
    (∃ a ∈ r.acts, (s.past a.2.num).isSome = true ∧ (∀ x ∈ s.ctx.windows, a.1 ≤ x.scope.toNat) ∧ r.seat.shares s.ctx.seat a.1 = true) ∧
    0 < (s.barrier (0, 0) 3).phase := by decide +kernel

/-- SoftwareTraps: the register whose value becomes OPND0. -/
theorem test_witness_trap_operand :
    let i : Instr := .trap (.r { r0 with a := 1 })
    let s : State := ctx fun c => { c with now := { c.now with issue := { c.now.issue with ops := [some i] } } }
    s.ctx.now.issue.ops[s.k.val]? = some (some i) ∧ ({ r0 with a := 1 } : RForm).a.toNat ≠ 0 := by decide +kernel

/-- TrapReturns: a handler with a level left open, at user level too; a misplaced target. -/
theorem test_witness_trap_return_refused :
    let left (s : State) := s.ctx.ctxstat.getLsbD 2 && decide (s.ctx.pipe.base < s.ctx.pipe.levels.length)
    left (handling 1 6) = true ∧ left (handling 1 4) = true ∧ (handling 1 4).ctx.ctxstat.getLsbD 1 = false ∧ left (handling 0 4) = false ∧
    left (handling 1 2) = false ∧ Instr.eretRedirect { r0 with a := 2 } ≠ .eretResume (.r r0) ∧ ((handling 0 0).ra 2).toNat % 4 ≠ 0 := by
  decide +kernel

/-- EventsPermitsAndThrottle: no slot behind the issue; a request of another context of the die that came before, and one that came after. -/
theorem test_witness_governor_order :
    let c (n : Nat) : Ctx := (State.reset.mapSlot fun x => { x with wait := some (.prmt 9 3 n) }).ctx
    let s (n : Nat) : State := { State.reset with ctx := c 5, others := [{ c n with run := .running, uid := 1 }] }
    (∀ x ∈ State.reset.ctx.pipe.slots, State.reset.ctx.now.issue.idx ≤ x.pos) ∧ ((s 4).ctx.slot 0).wait = some (.prmt 9 3 5) ∧
    (∃ c ∈ (s 4).others, c.die = (s 4).ctx.die ∧ c.run.alive = true ∧ c.asks = some 4) ∧
    (∀ c ∈ (s 6).others, ∀ m < 5, c.asks ≠ some m) := by decide +kernel

/-- A context with a window over the page `p` and over a page that is not mapped, whose S slot stands at a PRB of `n` bytes from byte
0x10000 on. -/
def probes (p : Page) (n : Word) : State :=
  { ctx fun c => { c with windows := [{ win with perm := 15 }], areg := c.areg.set 1 0x10000, sreg := c.sreg.set 1 n
                          now := { c.now with issue := { c.now.issue with fresh := 1, ops := [some (.prb { m0 with base := 1, d := 1 })] } } } with
      pages := [p] }

/-- ProbeLaunchAndSave: bytes that are well, that wait and that fail, in each of their places. -/
theorem test_witness_probe_findings :
    let a : Access := ⟨.read, 1, false, false⟩
    let p := page .resident
    let s := probes p 8
    s.denied = [] ∧ (s.check a 0xFF00000000000000 = .error ⟨1, 0x24, 0⟩ ∧ s.check a 0x8800000000000000 = .error ⟨2, 0x02, 2⟩ ∧
      s.check a 0x8000800000000000 = .error ⟨3, 0x23, 0⟩ ∧ s.check a 0x20000 = .error ⟨4, 0x21, 0⟩) ∧
    s.check a 0x8000000000000000 = .ok (.port (pocketKey 0 0)) ∧ s.check a 0x10FFF = .ok (.virt 0 0x100FFF) ∧
    s.check a 0x8400000000010000 = .ok (.remote 0 0 0x100000) ∧ s.reachable s.ddie 0 = true ∧ { s with farDown := [⟨0, 0⟩] }.reachable 0 1 = false ∧
    s.findPage ⟨0, 0, 0x101⟩ = none ∧ s.findPage ⟨0, 0, 0x100⟩ = some p ∧ frameHole (p.frameOf ⟨0, 0, 0x100⟩) = false ∧
    s.frameDown (p.frameOf ⟨0, 0, 0x100⟩) = false ∧ p.writable = true ∧ frameFlash (p.frameOf ⟨0, 0, 0x100⟩) = false ∧
    { p with writable := false, cow := false }.writable = false ∧ frameHole 0x8000000 = true := by decide +kernel

/-- ProbeLaunchAndSave: a probe of bytes that are all well, of one byte that waits and of one that fails after eight that are well. -/
theorem test_witness_probes :
    let f : MForm := { m0 with base := 1, d := 1 }
    let s := probes (page .resident) 8
    let u (s : State) := s.mapSlot fun x => { x with ea := stdAddr s f 4096 }
    Ready s ∧ (u s).acts f.pred f.pneg = true ∧ s.ctx.now.issue.ops[s.k.val]? = some (some (.prb f)) ∧ stdAddr s f 4096 = 0x10000 ∧
    (∀ j < 8, (u s).probeByte 0 (0x10000 + BitVec.ofNat 64 j) = .ok) ∧
    (u (probes (page .absent) 8)).probeByte 0 0x10000 = .wait ∧ (u s).probeByte 0 0x11000 = .bad 6 := by
  unfold Ready; decide +kernel

/-- ProbeLaunchAndSave: an image whose header and registers find their places, and one whose header does not. -/
theorem test_witness_save_places :
    let s : State := ctx fun c => { c with ctxstat := 2, windows := [{ win with perm := 15 }] }
    s.ctx.ctxstat.getLsbD 1 = true ∧ (0x10000 : Word).msb = false ∧ (0x10000 : Word).toNat % 65536 = 0 ∧ s.reqs = [] ∧ s.resps = [] ∧
    (s.imageHead 1 s.ctx.now.issue.next s.ctx.pipe.mpc).length = 256 ∧ (s.imageRegs (s.fresh * 65536)).length ≤ 65536 - 256 ∧
    s.check ⟨.write, 256, false, false⟩ 0x10000 = .ok (.virt 0 0x100000) ∧
    s.check ⟨.write, (s.imageRegs (s.fresh * 65536)).length, false, false⟩ 0x10100 = .ok (.virt 0 0x100100) ∧
    State.reset.check ⟨.write, 256, false, false⟩ 0x10000 = .error ⟨4, 0x21, 0⟩ := by decide +kernel

/-- PreemptionAndResume: a context whose team leaves, alone in it, and one with a mate that still runs; one that a debugger keeps. -/
theorem test_witness_team_leaves :
    let t : Team := ⟨1, 0, 0, true, false, false, 3, 3, 0, true, 0⟩
    let s (r : Run) (q : Word) : State := { ctx fun c => { c with run := r, grid := 1, preq := q } with teams := [t] }
    let mate : Ctx := { Ctx.reset with uid := 1, run := .running, grid := 1 }
    ((s .freezing 0).teamLeaves 1 0 = true ∧ (s .freezing 0).ctx.preq.getLsbD 1 = false ∧ (s .freezing 0).others = [] ∧
      (s .freezing 2).ctx.preq.getLsbD 1 = true) ∧
    (∃ c ∈ { s .freezing 0 with others := [mate] }.others, c.grid = 1 ∧ c.team = 0 ∧ c.run ≠ .empty ∧ c.run.over = false ∧ c.run ≠ .frozen) ∧
    ((s .frozen 0).ctx.run = .frozen ∧ (s .frozen 0).ctx.keepsCore = false) ∧ State.reset.teamLeaves 0 0 = false := by decide +kernel

/-- WindowTableUpdates: an update in progress, one that waits before, an image whose page is absent, and one that is nowhere. -/
theorem test_witness_window_turns :
    let s : State := { image with wtUpdate := some (7, [], [7]) }
    s.wtUpdate ≠ none ∧ { image with wtQueue := [(7, 0)] }.wtQueue.head? = some (7, 0) ∧
    { image with wtQueue := [(0, 0x10000)] }.wtQueue.head? = some (image.ctx.uid, 0x10000) ∧
    { image with pages := [{ page .absent with frame := 0 }] }.wtImage 0x10000 = .park ∧ State.reset.wtImage 0x10000 = .bad := by decide +kernel

/-- TrayAndLatches: a slot that its handle releases, one that something reads, tiles full and not; a latch load that finds its place and one that
does not. -/
theorem test_witness_tray_and_tiles :
    (tray.ctx.head 0).state = 1 ∧ tray.trayInUse 0 = false ∧
    { tray with ctx := { tray.ctx with chain := some ⟨0, 1, [⟨0, 0, 256, false, 0, 1, 1, 1, 1, 1, 1, 1, 1, 0, 0, 0, 1⟩], 0, 0⟩ } }.trayInUse 0 = true ∧
    (tray.rts 1).getLsbD 7 = true ∧ (tray.rts 1).toNat % 16 = 0 ∧ tray.ctx.tilesFull 0 64 = false ∧
    (ctx fun c => { c with tileBits := [0, 1, 2, 3, 4] }).ctx.tilesFull 64 16384 = true ∧ (tile.views = [] ∧ tile.ctx.now.issue.idx = 0) ∧
    tile.check ⟨.read, 64, false, true⟩ 0x8000000000000000 = .ok (.port (pocketKey tile.ctx.core 0)) ∧
    tile.check ⟨.read, 64, false, true⟩ 0 = .error ⟨1, 0x24, 0⟩ := by decide +kernel

/-- MatrixBlocks: scales and elements that are poisoned. -/
theorem test_witness_poisoned_operands :
    let s := ctx fun c => { c with rpoison := [(⟨.sl, 0⟩, 7), (⟨.z, 7⟩, 2047)] }
    s.ctx.rpoison.contains (⟨.sl, 0⟩, 63 / 8) = true ∧ s.ctx.rpoison.contains (⟨.z, 7⟩, 32 * 63 + 63 / 2) = true ∧
    State.reset.ctx.rpoison = [] ∧ State.reset.ctx.crNow = [] := by decide +kernel

/-- Words written into memory, each at its key. -/
def wordsAt (l : List (Nat × Word)) : Mem := l.foldl (fun m x => Mem.write m x.1 (Bits.wordLe x.2)) []
/-- The policy of one layer with S = 4, as words of pocket 0. -/
def policyWords : List (Nat × Word) := [(pocketKey 0 0x5000, 0x50000), (pocketKey 0 0x5008, 1), (pocketKey 0 0x5140, 0x3C00200040001000)]
/-- A batch table at pocket offset 0x1000 with a mask of LIVE, and the record of token 0, all pending with `pend`. -/
def seated (live len b : Word) (pend : Word := 0) : State :=
  let h (a : Nat) : Nat := hamperKey 0 a
  let p (a : Nat) : Nat := pocketKey 0 (0x1000 + a)
  { ctx fun c => { c with areg := c.areg.set 1 0x80FF800000001000, sreg := c.sreg.set 2 b } with
      mem := wordsAt (policyWords ++ [(h 0x2000, len), (h 0x2008, 0x80FF800000005000), (h 0x2020, 0x8200000000005000), (h 0x2030, 0x4000),
        (h 0x2040, pend), (h 0x2200, 0x8200000000004000), (p 0, live), (p 0x18, 0x8200000000007000), (p 0x20, 0x8200000000007100),
        (p 0x28, 0x8200000000007200), (p 0x30, 0x8200000000006000), (p 0x38, 0x80FF800000005000), (p 0x40, 0x8200000000002000)]) }
/-- That policy as a context instruction reads it. -/
def seatedPolicy : Policy := { g := 1, h := 5, hk := 1, nl := 1, bytes := 256, layers := [0], groups := 0x3C00200040001000 :: List.replicate 127 0 }
/-- The record that starts at offset 0x2000 of hamper 0, as token 0. -/
def seatedToken (s : State) : Token := ⟨0, 0x8200000000002000, (List.range 128).map fun i => wordAt s.mem (hamperKey 0 0x2000 + 8 * i)⟩

/-- ContextInstructions: nothing disturbs these states. -/
theorem test_witness_undisturbed : Undisturbed (seated 1 0 0) ∧ Undisturbed (seated 1 5 1 1) := by
  have one (s : State) (h : s = seated 1 0 0 ∨ s = seated 1 5 1 1) : Undisturbed s := by
    refine ⟨?_, quiet_of ?_, ?_, ?_, ?_, ?_, ?_, foremost_of ?_, ?_, ?_, ?_, ?_⟩
    case refine_3 => rcases h with rfl | rfl <;> exact inOrder_first _ rfl rfl
    all_goals (try unfold Ready); (try unfold Canonical); rcases h with rfl | rfl <;> decide +kernel
  exact ⟨one _ (.inl rfl), one _ (.inr rfl)⟩

/-- A reading whose answer is `p`. -/
theorem policy_is {x : Word} {s : State} {p : Option Policy}
    (h : (match Cx.policy x s with
      | .ok r => r.1 == p
      | .error _ => false) = true) : ∃ u, Cx.policy x s = .ok (p, u) := by
  split at h
  · rename_i r e
    exact ⟨r.2, by rw [e, ← eq_of_beq h]⟩
  · cases h

/-- ContextInstructions: batches, in which the mask names no LIVE token, or token 0, whose layer is pending or not. -/
theorem test_witness_batch_at (s : State) (h : s = seated 1 5 1 1 ∨ s = seated 0 0 0) :
    BatchAt s (s.ra 1) (pocketKey 0 0x1000) (some seatedPolicy) ∧
    ValidAt s (pocketKey 0 0x1000) seatedPolicy 0 (hamperKey 0 0x2000) (seatedToken s) := by
  unfold BatchAt ValidAt RecordAt
  rcases h with rfl | rfl <;>
    refine ⟨⟨pocketKey 0 0x5000, ?_, ?_, policy_is ?_⟩, ?_, ⟨?_, rfl⟩, ?_⟩ <;> (try unfold SramAt) <;> decide +kernel

/-- ContextInstructions: what a checkpoint and a restart of token 0 need; a token with everything pending, and one without. -/
theorem test_witness_batch_operands :
    let s := seated 1 5 1 1
    let k := seatedToken s
    let kb := pocketKey 0 0x1000
    let h (a : Nat) : Nat := hamperKey 0 a
    (wordAt s.mem kb &&& s.rs 2 = BitVec.ofNat 64 (2 ^ 0) ∧ (∀ l < seatedPolicy.nl, k.pend l = true) ∧ k.len < 2 ^ 40 - 1) ∧
    (seatedToken (seated 1 0 0)).pend 0 = false ∧ wordAt (seated 0 0 0).mem kb = 0 ∧ (seated 0 0 0).rs 2 = 0 ∧
    (s.rs 3 = 0 ∧ 0 < seatedPolicy.nl ∧ SramAt s 0x8200000000006000 256 (h 0x6000) ∧ SramAt s (k.w 4) 256 (h 0x5000) ∧
      (k.w 6).extractLsb' 0 2 = 0 ∧ (k.w 7).extractLsb' 0 3 = 0) := by
  unfold SramAt; decide +kernel

/-- ContextInstructions: what an append and an attention of token 0 need. -/
theorem test_witness_append_and_attention :
    let s := seated 1 0 0
    let k := seatedToken s
    let kb := pocketKey 0 0x1000
    let h (a : Nat) : Nat := hamperKey 0 a
    ((seatedPolicy.layer 0).map Layer.s = some 4 ∧ (seatedPolicy.layer 0).map Layer.rows = some 8 ∧ k.fl = 0 ∧ k.len = 0 ∧
      s.rs 2 = BitVec.ofNat 64 (0 + 0 * 2 ^ 16 + (1 - 1) * 2 ^ 24)) ∧
    SramAt s (wordAt s.mem (kb + 40)) 128 (h 0x7200) ∧ SramAt s (k.w 64) 1024 (h 0x4000) ∧ SramAt s (wordAt s.mem (kb + 24)) 64 (h 0x7000) ∧
    SramAt s (wordAt s.mem (kb + 32)) 128 (h 0x7100) := by
  unfold SramAt; decide +kernel

/-- ContextInstructions: the ranges that these touch are apart. -/
theorem test_witness_apart :
    let kb := pocketKey 0 0x1000
    let h (a : Nat) : Nat := hamperKey 0 a
    Apart [(kb, 576), (h 0x2000, 1024), (h 0x6000, 256), (h 0x5000, 256)] ∧ Apart [(kb, 576), (h 0x2000, 1024), (h 0x7200, 128), (h 0x4000, 1024)] ∧
    Apart [(kb, 576), (h 0x7100, 128)] ∧ Apart [(h 0xA000, 512), (h 0xB000, 128)] := by
  unfold Apart; decide +kernel

/-- A sequence record in hamper 0 with one resident block, with its policy and stubs, and a fabric record at offset 0xC000. -/
def recorded (len b : Word) (c : Word := 0) (a : Word := 0x8200000000002000) : State :=
  let h (a : Nat) : Nat := hamperKey 0 a
  { ctx fun x => { x with areg := (x.areg.set 1 a).set 3 c, sreg := x.sreg.set 2 b } with
      mem := wordsAt (policyWords ++ [(h 0x2000, len), (h 0x2008, 0x80FF800000005000), (h 0x2010, 0x8200000000008000), (h 0x2018, 0x820000000000B000),
        (h 0x2200, 0x8200000000004000), (h 0x8000, 0x8200000000009000), (h 0x8008, 1), (h 0x9100, 0x800000000000A000), (h 0x9108, 0x10),
        (h 0xC000, 0x820000000000C100), (h 0xC110, 0x8200000000008000)]) }
/-- The leaf that a state's record has for a block. -/
def leafAt (s : State) (b : Nat) : Option (Option (Nat × Word)) :=
  match Cx.leaf (seatedToken s) 0 b s with
  | .ok (l, _) => some (l.map fun x => (x.state, x.block))
  | .error _ => none

/-- ContextInstructions: a record with its policy; a pinned area that fits, one that does not, and none; a block that is there and one
that is not; a stub of two rows and one of none. -/
theorem test_witness_records :
    let s := recorded 6 0
    let h (a : Nat) : Nat := hamperKey 0 a
    SramAt s 0x8200000000002000 1024 (h 0x2000) ∧ SramAt s (wordAt s.mem (h 0x2008)) 1344 (pocketKey 0 0x5000) ∧
    (let v : Word := 0x8200000000005000
     v.extractLsb' 56 8 = 0x82 ∧ v.extractLsb' 26 28 = 0 ∧ v.extractLsb' 0 8 = 0 ∧
       (seatedPolicy.groupOf 0 0).map (fun y => decide ((v.extractLsb' 0 26).toNat + 1 * 1 * 2 * y.rows * 64 ≤ 2 ^ 26)) = some true ∧
       (0x8200000000005001 : Word).extractLsb' 0 8 ≠ 0 ∧ (64 : Word).toNat ≥ 64) ∧
    (seatedToken s).wf seatedPolicy = true ∧ leafAt s 0 = some (some (2, 0x820000000000A000)) ∧ leafAt s 1 = some none ∧
    ((0x0100000000000000 : Word).extractLsb' 56 8 ≠ 0 ∧ min (6 - 4 - 0 * 4) 4 = 2 ∧ min (4 - 4 - 0 * 4) 4 = 0) ∧
    SramAt s 0x820000000000A000 512 (h 0xA000) ∧ SramAt s 0x820000000000B000 128 (h 0xB000) := by
  unfold SramAt; decide +kernel

/-- ContextInstructions: a fabric record that names a block, and an index beyond its blocks. -/
theorem test_witness_fabric_record :
    let s := recorded 6 0 0 0x820000000000C000
    let h (a : Nat) : Nat := hamperKey 0 a
    SramAt s 0x820000000000C000 128 (h 0xC000) ∧ (0x820000000000C000 : Word).extractLsb' 0 7 = 0 ∧
    ((wordAt s.mem (h 0xC008)).extractLsb' 56 3).toNat < 2 ∧ (0 : Word) ≤ BitVec.ofNat 64 (min 8 ((wordAt s.mem (h 0xC060)).extractLsb' 0 4).toNat) ∧
    min 8 ((wordAt s.mem (h 0xC060)).extractLsb' 0 4).toNat < 1 ∧ SramAt s (wordAt s.mem (h 0xC000) + 16) 8 (h 0xC110) ∧
    SramAt s (wordAt s.mem (h 0xC110) + BitVec.ofNat 64 0) 16 (h 0x8000) ∧ 0 < ((wordAt s.mem (h 0x8008)).extractLsb' 0 32).toNat := by
  unfold SramAt; decide +kernel

/-- EngineCommands, ResultsAreWritten: a command whose number an earlier slot of the same issue has still to take; a value from outside the
team that is due. -/
theorem test_witness_number_waits :
    let i : Issue := { Issue.empty with ops := [none, none, none, none, none, some (.cpy { c0 with tc := 3 })] }
    let s : State := ctx fun c => { c with now := { c.now with slot := 6, issue := i }, pipe := { c.pipe with queue := [i] } }
    s.numberWaits 3 = true ∧ s.numberWaits 2 = false ∧ ((flying 3 (.outside 2 63 0)).ctx.slot 0).flights = [⟨3, 0, Site.none, false, [.outside 2 63 0], none⟩] ∧
    (flying 3 (.outside 2 63 0)).ctx.trMode = 0 ∧ ((with1 (cmd (.cpy c0) true 0 (cpyWords 0))).runCmd (cmd (.cpy c0) true 0 (cpyWords 0)) none).s.cmds =
      (with1 (cmd (.cpy c0) true 0 (cpyWords 0))).cmds ∧
    (with1 (cmd (.cpy c0) true 0 (cpyWords 0))).cmdNotReady (cmd (.cpy c0) true 0 (cpyWords 0))
      ((with1 (cmd (.cpy c0) true 0 (cpyWords 0))).runCmd (cmd (.cpy c0) true 0 (cpyWords 0)) none) = false := by decide +kernel

/-- RequestsAndTickets: a retry over a route that is changing, over one that is open and over none. -/
theorem test_witness_retry_routes :
    let r := req (.remote 1 0 0) (.read 8) (.retry 0 false)
    let s := under r
    (r.target).getD r.src = 1 ∧ (0, 1) ∈ { s with draining := [(0, 1)] }.draining ∧ s.draining = [] ∧ s.reachable 0 1 = true ∧
    { s with farDown := [⟨0, 0⟩] }.reachable 0 1 = false ∧ r.ticket = none ∧ s.ticketMsgs = [] := by decide +kernel

/-- PagesAndErrors: pages of both sizes; the inputs of a steward that takes a page away and gives one. -/
theorem test_witness_page_maps :
    let big : Page := { page .resident with big := true, ref := ⟨0, 0, 0x200⟩, frame := 512 }
    let s (m : Nat) := served big fun i => { i with m := m }
    (s 2).stewardUp big.die = true ∧ (s 2).pages = [big] ∧ (s 2).input.m = 2 ∧ big.state ≠ .absent ∧ ((s 2).frames.lookup big.frame).getD 1 ≤ 1 ∧
    ({ s 3 with pages := [] }.input.m = 3 ∧ (s 3).input.word.getLsbD 2 = false ∧ (s 1).input.m = 1 ∧ (s 3).input.page.page / 512 * 512 = 0x200) ∧
    0x50000000000 ≤ 0x50000000000 := by decide +kernel

/-- Mailbox: a host write; in recovery, an event that FWSTAGE is served past; a sequence number that is read again. -/
theorem test_witness_recovery_event :
    let pageOf (n cmd : Nat) (m : Mem) : Mem := Mem.write m (mailPage n 0) [1, 0, 0, 0, 0, 0, 0, 0, BitVec.ofNat 8 cmd]
    let s : State := { State.reset with bootst := 4, hevts := [3, 7], mem := pageOf 3 1 (pageOf 7 7 []), input := { Input.zero with m := 1 } }
    s.hevts = [3, 7] ∧ s.mailbox = none ∧ s.input.m = 1 ∧ s.stewardUp 0 = false ∧ s.bootst.getLsbD 2 = true ∧ Mem.readNat s.mem (mailPage 3 8) 2 ≠ 7 ∧
    Mem.readNat s.mem (mailPage 7 8) 2 = 7 ∧ (pageWord (Mem.read s.mem (mailPage 7 0) 4096) 0).getLsbD 0 = true ∧ s.input.flag = false ∧
    ({ mail 0 [1] with input := { Input.zero with m := 2 } }).input.m = 2 ∧ s.poison = [] := by decide +kernel

/-- Mailbox: a range with a page mapped in it, and one for which the host range has no room; an access and a command on a page that UNMAP
names. -/
theorem test_witness_mapped_ranges :
    let w (ws : List Word) (i : Nat) : Nat := (pageWord (copyOf ws) i).toNat
    let huge : List Word := [1, 2, 0, 0, 0, 0x800000000000]
    let part : List Word := [1, 3, 0, 0x100000, 0x1000]
    let r := req (.virt 0 0x100000) (.read 8) (.sent 9)
    let s := under r (some (page .resident))
    (w huge 5 % 4096 = 0 ∧ w huge 3 + w huge 5 ≤ 2 ^ 48 ∧ w huge 4 + w huge 5 ≤ 2 ^ 64 ∧ 0x1000000000 < 0x850000000 + 0 + w huge 5 / 4096) ∧
    (w part 3 ≤ 0x100 * 4096 ∧ 0x100 * 4096 < w part 3 + w part 4 ∧ s.findPage ⟨0, 0, 0x100⟩ ≠ none ∧ s.onPage r ⟨0, 0, 0x100⟩ = true) ∧
    ((cmd (.cpy c0) true 0 []).started = true ∧ (cmd (.cpy c0) true 0 []).asn.toNat = w part 2) ∧
    ([page .resident].Pairwise fun p q => p.ref ≠ q.ref) := by decide +kernel

/-- PackageServices: requests of a context whose slots have passed their issue: halves of a counter, one byte of EVEN. -/
theorem test_witness_package_requests :
    let r := req (.control 0x104) (.read 4) (.sent 5000)
    (∀ x ∈ (under r).ctx.pipe.slots, x.flights = [] ∧ x.wait = none ∧ r.idx < x.pos) ∧ (under r).ctx.releases = [] ∧ 5000 ≤ (under r).clock ∧
    r.place = .control (0x100 + 64 * 0 + 8 * 0 + 4) ∧ r.act = .read 4 ∧ (req (.control 8) (.write [1]) (.sent 0)).act = .write [1] ∧
    (0x20 * 2 ^ 48 + 0xFF8) % 4096 < 8 * 511 + 8 ∧ 8 * 511 < (0x20 * 2 ^ 48 + 0xFF8) % 4096 + 8 := by decide +kernel

/-- PackageServices: a queue pair whose objects stand in a hamper and whose buffer is a page of its space; an address beyond the space. -/
theorem test_witness_queue_buffers :
    let q : QueuePair := ⟨0, 0, 0, 0, 0x8200000000000000, 0x8200000000000008, 0, false⟩
    let s := { pair 1 [2, 0, 0, 0, 4, 0, 0, 0, 0x80, 0, 0x10] with pages := [page .resident] }
    let e := Mem.read s.mem (hamperKey 0 0x40) 64
    s.views = [] ∧ q.place q.post = some (.port (hamperKey 0 0)) ∧ s.answer (.port (hamperKey 0 0)) 8 false = .served [(hamperKey 0 0, 8)] ∧
    s.answer (.port (hamperKey 0 8)) 8 true = .served [(hamperKey 0 8, 8)] ∧ s.answer (.port (hamperKey 0 0x40)) 64 false = .served [(hamperKey 0 0x40, 64)] ∧
    ((pageWord e 1).toNat < 2 ^ 48 ∧ ((pageWord e 0).extractLsb' 32 32).toNat = 4 ∧
      s.answer (.virt q.asn (pageWord e 1).toNat) 4 true = .served [(physKey 0 0x5080, 4)]) ∧
    (physKey 0 0x5080 + 4 ≤ hamperKey 0 8 ∨ hamperKey 0 8 + 8 ≤ physKey 0 0x5080) ∧ 2 ^ 48 ≤ (0x8200000000000000 : Word).toNat := by decide +kernel

/-- GridsAndQuanta: two teams that wait, the first with the greater claim; cores promised to one of which a core is taken. -/
theorem test_witness_promised :
    let a := { team 0 false with since := 3600000 }
    let m := { team 1 false with prio := 2, since := 3600000 }
    let s := gridded (grid true []) [a, m]
    let cores := (s.fit 0 (grid true []).teamSize (grid true []).xpocket [] []).getD []
    s.promised = [] ∧ s.effective m < s.effective a ∧ a.num ≠ m.num ∧ cores ≠ [] ∧ { a with since := 3600001 }.since > a.since ∧
    (∃ k ∈ cores, { s with others := [{ Ctx.reset with uid := 1, run := .running, core := cores.headD 0, grid := 1, team := 5 }] }.coreFree k = false) := by
  decide +kernel

/-- StepRunsTheBundle: in that cycle nothing keeps a slot, and the operation goes. -/
theorem test_witness_cycle_goes :
    let u := begun (atBundle 0x01000C1080200000)
    let i : Instr := .add (.r { rr 4 with d := 3, c := 0 })
    let d := u.dispatch
    let v := (((slotOrder.takeWhile fun j => j != 0).foldl (Phase.slot u.ctx.pipe.lowest 0) ⟨d, [], false⟩).s).enterIssue 0 (d.ctx.pipe.queue.headD Issue.empty)
    u.pauses = [] ∧ (∀ j, u.ctx.mustStand j = false) ∧ u.ctx.pendingRegs = [] ∧ d.ctx.pipe.queue.map Issue.idx = [u.ctx.pipe.count] ∧
    (match exec i v with
      | .next t => !t.ctx.now.stalled && !t.ctx.now.moved && t.ctx.raised == [] && t.ctx.run == .running && t.others == [] &&
          t.ctx.pipe.queue == v.ctx.pipe.queue && t.ctx.pipe.count == v.ctx.pipe.count && (t.ctx.slot 0).wait == none &&
          !(t.ctx.slot 0).stopped && (t.ctx.slot 0).pos == (v.ctx.slot 0).pos && t.ctx.pipe.slots.length == 7 &&
          ([1, 2, 3, 4, 5, 6] : List Slot).all fun j => t.ctx.slot j == v.ctx.slot j
      | _ => false) = true := by
  refine ⟨?_, ?_, ?_, ?_, ?_⟩ <;> decide +kernel

/-- Mailbox: a host write to the page of the command under way, to one with an event, and to one with none. -/
theorem test_witness_host_writes :
    let s (n : Nat) : State := { mail 0 [1] with hevts := [2], input := { Input.zero with n := n } }
    (s 0).mailbox.map Prod.fst = some 0 ∧ (s 0).input.m = 0 ∧ (s 7).input.n < 8 ∧ Canonical (s 0) ∧ (s 0).poison = [] ∧ (s 0).input.bytes.length ≤ 4096 ∧
    ((s 2).input.n ∈ (s 2).hevts) ∧ (s 0).input.n = 0 ∧ (s 3).input.n ∉ (s 3).hevts ∧ (0 : Nat) ≠ (s 3).input.n := by
  unfold Canonical; decide +kernel

/-- The mailbox LAUNCH of a record at a physical address, with a release of its page. -/
def launching : State :=
  { mail 0 [1, 1, 0x40, 0] with
      mem := Mem.write (Mem.write [] (physKey 0 0x50) (Bits.wordLe 0x400)) (physKey 0 0x68) (Bits.wordLe 0x10000000)
      released := [⟨.mail 0, 0, .host, ⟨none, none⟩, 4, []⟩] }

/-- Mailbox: that record is accepted; one at another address is refused. -/
theorem test_witness_launch_answered :
    (match launching.launchFrom true 0 0x40 (launching.stewardUp 0) with
      | some (v, u) => !v.getLsbD 63 && u.mem == launching.mem && u.evstat == launching.evstat && u.mailbox == launching.mailbox &&
          u.released == launching.released
      | none => false) = true ∧
    Serves launching 1 0 (copyOf [1, 1, 0x40, 0]) ∧
    (match launching.launchFrom true 0 0x1000 true with
      | some (v, _) => v.getLsbD 63
      | none => false) = true := by
  unfold Serves Canonical launching mail copyOf; decide +kernel

/-- Mailbox: entries of a die whose steward answers, of one whose does not, and of one not named. -/
theorem test_witness_error_entries :
    let e (d : Nat) : ErrEntry := ⟨d, 1, 0, 0, []⟩
    let s : State := { mail 0 [1, 4, 3] with errq := [e 0, e 1, e 2], stewards := State.reset.stewards.set 1 ⟨0, false, true, false⟩ }
    Serves s 4 0 (copyOf [1, 4, 3]) ∧ s.stewardUp 0 = true ∧ s.stewardUp 1 = false ∧ (pageWord (copyOf [1, 4, 3]) 2).toNat.testBit 1 = true ∧
    (pageWord (copyOf [1, 4, 3]) 2).toNat.testBit 2 = false ∧ (e 0).body.length ≤ 240 := by
  unfold Serves Canonical mail copyOf; decide +kernel

/-- PackageServices: a release of the post object that the pair acquires. -/
theorem test_witness_posted_release :
    let w : Past := ⟨1, origin (.ctx 3), [(physKey 0 0x5000, [0])], [], [], []⟩
    let r : Released := ⟨.object (hamperKey 0 0), 1, .ctx 3, ⟨none, none⟩, 4, [(4, w.whole)]⟩
    let s : State := { pair 1 [2, 0, 0, 0, 4, 0, 0, 0, 0x80, 0, 0x10] with history := [w], released := [r] }
    r ∈ s.released ∧ r.gate = .object (hamperKey 0 0) ∧ r.number ≤ Mem.readNat s.mem (hamperKey 0 0) 8 ∧ (4, w.whole) ∈ r.acts ∧
    (∃ x ∈ s.history, x.num = w.whole.num ∧ x.runs ≠ []) ∧ r.seat.shares ⟨none, none⟩ 4 = true ∧ (s.past w.whole.num).isSome = true := by
  decide +kernel

/-- GridsAndQuanta: a context error in the grid on which a waiting one depends. -/
theorem test_witness_failed_dependence :
    let x : Grid := { grid false [(2, 1, 0, 1)] with id := 2 }
    let c : Ctx := { Ctx.reset with uid := 1, run := .running, grid := 1, core := 1 }
    let s : State := { gridded (grid true []) [team 0 true] with grids := [grid true [], x], others := [c]
                                                                 ctx := { Ctx.reset with run := .running, grid := 1, raised := [raised 0x22 0 true] } }
    s.ctx.run = .running ∧ (s.ctx.raised.map fun r => (r.late, r.cls)) = [(true, 0x22)] ∧ (grid true []).id = s.ctx.grid ∧ (grid true []).eligible = true ∧
    x.id ≠ (grid true []).id ∧ x.eligible = false ∧ x.deps = [(2, 1, 0, 1)] ∧ (∀ m ∈ s.teams, m.leaving = false) ∧
    ∃ c ∈ s.others, c.grid = 1 ∧ c.team = s.ctx.team ∧ c.run = .running := by decide +kernel

/-! ### Worked examples of the spec -/

/-- The slot words that the examples of 09, 12, 17, 19, 26 and 28 assemble, and the two bad words of 09. -/
theorem test_example_words :
    Decode.slotWord .v 0x620854A000000010 = .ok (.ginc { r0 with pred := 1, d := 21, a := 10, sub := 16 }) ∧
    Decode.slotWord .v 0x1118450000480000 = .ok (.vrsqs { r0 with pred := 3, d := 17, a := 16, dt := 9 }) ∧
    Decode.slotWord .s 0x680200C6000E4000 = .ok (.atom { m0 with base := 6, idx := 12, dt := 7, disp := 0x4000 }) ∧
    Decode.slotWord .s 0x7802140000100018 = .ok (.rstk { m0 with d := 5, dt := 8, disp := 24 }) ∧
    Decode.slotWord .s 0x7902182000100002 = .ok (.rstd { m0 with d := 6, base := 1, dt := 8, disp := 2 }) ∧
    Decode.slotWord .s 0x7B00000000000000 = .ok (.tkwt r0) ∧
    Decode.slotWord .c 0x0703001000000200 = .ok (.wstr { c0 with desc := 2, aux := 1 }) ∧
    Decode.slotWord .m 0x1102080000000000 = .ok (.cord { m0 with d := 2 }) ∧
    Decode.slotWord .m 0x1300000000000001 = .ok (.tchn { r0 with sub := 1 }) ∧
    Decode.slotWord .s 0xFF00000000000000 = .error 2 ∧ Decode.slotWord .v 0x0103141080480000 = .error 3 := by decide +kernel

/-- Refusals that the same examples name: GINC without an arrival distance, with a type, and with a block past v63. -/
theorem test_example_refusals :
    Decode.slotWord .v 0x620854A000000000 = .error 0xA ∧ Decode.slotWord .v 0x620854A000480010 = .error 5 ∧
    Decode.slotWord .v 0x62085790_00000010 = .error 4 := by decide +kernel

/-- Examples 1 and 3 of 04: −3.5 in the formats, and the conversions to E4M3 at the edge of its range. -/
theorem test_example_formats :
    (Fp.round Fp.f32 .rne false 0 (.fin true 7 (-1))).1 = 0xC0600000 ∧ (Fp.round Fp.f16 .rne false 0 (.fin true 7 (-1))).1 = 0xC300 ∧
    (Fp.round Fp.bf16 .rne false 0 (.fin true 7 (-1))).1 = 0xC060 ∧ (Fp.round Fp.e4m3 .rne false 0 (.fin true 7 (-1))).1 = 0xC6 ∧
    (Fp.round Fp.e5m2 .rne false 0 (.fin true 7 (-1))).1 = 0xC3 ∧ (Fp.round Fp.e3m2 .rne false 0 (.fin true 7 (-1))).1 = 0x33 ∧
    (Fp.round Fp.e2m3 .rne false 0 (.fin true 7 (-1))).1 = 0x36 ∧ Fp.round Fp.e2m1 .rne false 0 (.fin true 7 (-1)) = (0xE, Fp.nx) ∧
    Fp.round Fp.e4m3 .rne false 0 (.fin false 460 0) = (0x7E, Fp.nx) ∧ Fp.round Fp.e4m3 .rne false 0 (.fin false 464 0) = (0x7E, Fp.nx) ∧
    (Fp.round Fp.e4m3 .rne false 0 (.fin false 470 0)).1 = 0x7F ∧ (Fp.round Fp.e4m3 .rne true 0 (.fin false 470 0)).1 = 0x7E := by
  decide +kernel

/-- Element `e` of the 32-bit elements that `i` leaves in flight. -/
def lane (i : Instr) (s : State) (e : Nat) : List Nat :=
  match exec i s with
  | .next t => t.slot.flights.flatMap fun f => f.effs.filterMap fun x =>
      match x with
      | .vec _ v _ => some (Bits.elem v 32 e)
      | _ => none
  | _ => []

/-- Example 7 of 04: VRSQS at 1.0, 2.0 and just below 2. -/
theorem test_example_seeds :
    let s : State := ctx (fun c => { c with vreg := c.vreg.set 1 0x3FFFFFFF400000003F800000 }) (st 1 0 0 0)
    let i : Instr := .vrsqs { r0 with d := 9, a := 1, dt := 9 }
    lane i s 0 = [0x3F7F8000] ∧ lane i s 1 = [0x3F34B000] ∧ lane i s 2 = [0x3F353000] := by decide +kernel

/-- Examples 4 and 5 of 04: one rounding of a whole block onto an accumulator. -/
theorem test_example_accumulation :
    (Fp.round Fp.f32 .rne false 0 (.fin false (2 ^ 24 + 3) (-24))).1 = 0x3F800002 ∧
    (Fp.round Fp.f32 .rne false 0 (.fin false (2 ^ 25 + 1) (-25))).1 = 0x3F800000 := by decide +kernel

/-- R185: .b8 lanes of VIADD wrap apart from each other. -/
theorem test_vector_add :
    lane (.viadd (.r { r0 with d := 9, a := 1, b := 1, dt := 5 }))
      (ctx (fun c => { c with vreg := c.vreg.set 1 0x80FF0180 }) (st 1 0 0 0)) 0 = [0x00FE0200] := by decide +kernel

/-- R165: BR goes 4 · IMM bytes from its own bundle, backwards too; R335: CWR of TRAPVEC is a privilege trap at user level. -/
theorem test_branch_and_privilege :
    (match exec (.br ⟨0, false, 0, -3⟩) (ctx fun c => { c with now := { c.now with issue := { c.now.issue with addr := 0x1000 } } }) with
      | .next t => t.ctx.pipe.redirect
      | _ => none) = some (.goto 0xFF4) ∧
    (match exec (.cwr (.r { r0 with a := 1, sub := 0x020 })) State.reset with
      | .next t => t.ctx.raised.map fun r => (r.cls, r.cause)
      | _ => []) = [(0x02, 3)] := by decide +kernel

/-- R317: TRAP_ENTRY goes to TRAPVEC at privileged level; R322: a context error stops the context. -/
theorem test_trap_and_error :
    (match exec .trapEntry trapping with
      | .next t => (t.ctx.pipe.pc, t.ctx.ctxstat)
      | _ => (0, 0)) = (0x1000, 6) ∧
    (match exec .contextErrorStop (ctx (fun c => { c with raised := [raised 0x22 0] }) trapping) with
      | .next t => t.errq.map ErrEntry.kind
      | _ => []) = [1] := by decide +kernel

end Sys2Proof.Tests
end

section
/-! PROOFS. The statements of the S slot's integer and pointer operations of 10_scalar.md: the model's operand forms against R146, then
division (R148), shifts (R149) and the class test of a pointer (R160). -/

open Sys2Proof.Machine Sys2Proof.Safety

namespace Sys2Proof.Scalar

/-! ### Integers by type code -/

/-- The model's widths are those of R129. -/
theorem intWidth_eq_typeBits {t : Nat} (h1 : 1 ≤ t) (h8 : t ≤ 8) : intWidth t = typeBits t := by
  interval_cases t <;> rfl

theorem intWidth_pos (t : Nat) : 0 < intWidth t := by
  unfold intWidth
  split <;> decide

theorem intWidth_le (t : Nat) : intWidth t ≤ 64 := by
  unfold intWidth
  split <;> decide

/-- The least `n` bits of a number in two's complement are its balanced remainder. -/
theorem sInt_eq_bmod {n : Nat} (hn : 0 < n) (x : Nat) : Bits.sInt n x = (x : Int).bmod (2 ^ n) := by
  obtain ⟨k, rfl⟩ := Nat.exists_eq_add_of_lt hn
  have h2 : (2 ^ (0 + k + 1) : Nat) = 2 ^ k * 2 := by rw [Nat.zero_add, pow_succ]
  simp only [Bits.sInt, Int.bmod_def, Nat.add_sub_cancel]
  push_cast [h2]
  split <;> split <;> grind

/-- A signed type code reads two's complement. -/
theorem typeVal_signed {t : Nat} (h1 : 1 ≤ t) (h4 : t ≤ 4) (w : Word) :
    typeVal t w = (w.toNat : Int).bmod (2 ^ intWidth t) := by
  interval_cases t
  · exact BitVec.toInt_setWidth w
  · exact BitVec.toInt_setWidth w
  · exact BitVec.toInt_setWidth w
  · exact BitVec.toInt_eq_toNat_bmod w

/-- An unsigned type code reads the low bits. -/
theorem typeVal_unsigned {t : Nat} (h5 : 5 ≤ t) (h8 : t ≤ 8) (w : Word) :
    typeVal t w = (w.toNat % 2 ^ intWidth t : Nat) := by
  interval_cases t
  · exact congrArg Int.ofNat (BitVec.toNat_setWidth 8 w)
  · exact congrArg Int.ofNat (BitVec.toNat_setWidth 16 w)
  · exact congrArg Int.ofNat (BitVec.toNat_setWidth 32 w)
  · exact congrArg Int.ofNat (Nat.mod_eq_of_lt w.isLt).symm

/-- The type codes that `Src` reads as two's complement. -/
theorem intSigned_iff {t : Nat} : intSigned t = true ↔ 1 ≤ t ∧ t ≤ 4 := by
  simp [intSigned]

/-- `Src` of R146 reads a word as its type code does. -/
theorem srcInt_toNat {t : Nat} (h1 : 1 ≤ t) (h8 : t ≤ 8) (w : Word) : srcInt t w.toNat = typeVal t w := by
  unfold srcInt
  split
  case isTrue h => rw [typeVal_signed h1 (intSigned_iff.mp h).2, sInt_eq_bmod (intWidth_pos t)]
  case isFalse h =>
    have h5 : 5 ≤ t := by
      rw [intSigned_iff] at h
      omega
    rw [typeVal_unsigned h5 h8]

/-- `Src` reads the low bits of its type only. -/
theorem srcInt_mod {t m : Nat} (h : 2 ^ intWidth t ∣ m) (x : Nat) : srcInt t (x % m) = srcInt t x := by
  simp only [srcInt, Bits.sInt, Nat.mod_mod_of_dvd x h]

/-- The low bits of a result are those of the word that holds it. -/
theorem pat_eq_ofInt_mod (t : Nat) (r : Int) : pat t r = (BitVec.ofInt 64 r).toNat % 2 ^ intWidth t := by
  have hd : ((2 ^ intWidth t : Nat) : Int) ∣ ((2 ^ 64 : Nat) : Int) := Int.natCast_dvd_natCast.mpr (Nat.pow_dvd_pow 2 (intWidth_le t))
  have h0 : 0 ≤ r % ((2 ^ 64 : Nat) : Int) := Int.emod_nonneg _ (by decide)
  rw [BitVec.toNat_ofInt, pat, ← Int.emod_emod_of_dvd r hd, Int.toNat_emod h0 (Int.natCast_nonneg _), Int.toNat_natCast]

/-- The range to which the model clamps is that of R36. -/
theorem intRange_eq_typeRange {t : Nat} (h1 : 1 ≤ t) (h8 : t ≤ 8) : Fp.intRange (intSigned t) (intWidth t) = typeRange t := by
  interval_cases t <;> decide

theorem typeRange_fst_le_snd (t : Nat) : (typeRange t).1 ≤ (typeRange t).2 := by
  unfold typeRange
  split <;> decide

/-- `Fit` of R146 clamps to the range of the type, or takes the low bits. -/
theorem fitInt_eq_typeFit {t : Nat} (h1 : 1 ≤ t) (h8 : t ≤ 8) (sat : Bool) (r : Int) : fitInt sat t r = typeFit sat t r := by
  cases sat with
  | false =>
    have h : srcInt t (pat t r) = typeVal t (BitVec.ofInt 64 r) := by
      rw [pat_eq_ofInt_mod, srcInt_mod (dvd_refl _), srcInt_toNat h1 h8]
    simp only [fitInt, typeFit, Bool.false_eq_true, if_false, h]
  | true =>
    have hle := typeRange_fst_le_snd t
    have h : clampInt t r = max (typeRange t).1 (min r (typeRange t).2) := by
      simp only [clampInt, intRange_eq_typeRange h1 h8]
      grind
    simp only [fitInt, typeFit, if_true, h]

/-- An immediate, extended and read by its type (R125, R146). -/
theorem immInt_eq_typeVal {t : Nat} (h1 : 1 ≤ t) (h8 : t ≤ 8) (imm : W32) :
    immInt t 32 imm.toNat = typeVal t (immWord t 32 imm) := by
  have hs : Bits.sInt 32 imm.toNat = imm.toInt := by
    rw [sInt_eq_bmod (by decide), BitVec.toInt_eq_toNat_bmod]
  by_cases h : 1 ≤ t ∧ t ≤ 4
  · have hw : BitVec.ofInt 64 imm.toInt = imm.signExtend 64 := rfl
    simp only [immInt, immWord, intSigned, h, decide_true, Bool.and_self, if_true, hs, hw, srcInt_toNat h1 h8]
  · have hb : (decide (1 ≤ t) && decide (t ≤ 4)) = false := by simpa using h
    have hw : imm.toNat % 2 ^ 32 = (imm.setWidth 64).toNat := by
      rw [BitVec.toNat_setWidth]
      omega
    simp only [immInt, immWord, intSigned, hb, Bool.false_eq_true, if_false, hw, srcInt_toNat h1 h8]

/-! ### The forms of integer operations -/

/-- A binary integer operation writes its result, fitted to the type, under its guard. -/
theorem gives_of_intBinary {i : Instr} {f : RI} {s : State} {lat : Nat} {r : Nat → Int → Int → Int}
    (h1 : 1 ≤ dtOf f) (h8 : dtOf f ≤ 8) (h : exec i s = .next (intBinary f lat r s)) :
    Gives i (guardOf f) s lat ⟨.s, dOf f⟩
      (typeFit (satOf f) (dtOf f) (r (dtOf f) (typeVal (dtOf f) (aOf s f)) (typeVal (dtOf f) (bOf s f)))) := by
  rw [Gives, Issues, h]
  cases f with
  | r f =>
    simp only [dtOf] at h1 h8
    simp only [intBinary, State.guarded, srcInt_toNat h1 h8, fitInt_eq_typeFit h1 h8]
    rfl
  | i f =>
    simp only [dtOf] at h1 h8
    simp only [intBinary, State.guarded, srcInt_toNat h1 h8, immInt_eq_typeVal h1 h8, fitInt_eq_typeFit h1 h8]
    rfl

/-- A shift writes its result, fitted to the type, under its guard. -/
theorem gives_of_intShift {i : Instr} {f : RI} {s : State} {r : Nat → Int → Nat → Int}
    (h1 : 1 ≤ dtOf f) (h8 : dtOf f ≤ 8) (h : exec i s = .next (intShift f r s)) :
    Gives i (guardOf f) s 1 ⟨.s, dOf f⟩
      (typeFit (satOf f) (dtOf f) (r (dtOf f) (typeVal (dtOf f) (aOf s f)) (countOf s f).toNat)) := by
  rw [Gives, Issues, h]
  cases f with
  | r f =>
    simp only [dtOf] at h1 h8
    simp only [intShift, State.guarded, srcInt_toNat h1 h8, fitInt_eq_typeFit h1 h8]
    rfl
  | i f =>
    have hc : (f.imm.setWidth 64).toNat = f.imm.toNat := BitVec.toNat_setWidth_of_le (by decide)
    simp only [dtOf] at h1 h8
    simp only [intShift, State.guarded, srcInt_toNat h1 h8, fitInt_eq_typeFit h1 h8, countOf, hc]
    rfl

/-! ### Division (R148) -/

theorem exec_div (f : RI) (s : State) : exec (.div f) s = .next (intBinary f 20 (fun t x y => (divRem t x y).1) s) := rfl
theorem exec_divb (f : RI) (s : State) : exec (.divb f) s = .next (intBinary f 20 (fun t x y => (divRem t x y).1) s) := rfl
theorem exec_rem (f : RI) (s : State) : exec (.rem f) s = .next (intBinary f 20 (fun t x y => (divRem t x y).2) s) := rfl
theorem exec_remb (f : RI) (s : State) : exec (.remb f) s = .next (intBinary f 20 (fun t x y => (divRem t x y).2) s) := rfl

/-- The one quotient out of range: the most negative dividend over −1. -/
theorem overflow_iff {t : Nat} (h1 : 1 ≤ t) (h8 : t ≤ 8) (x y : Int) :
    (intSigned t && decide (x = -(2 ^ (intWidth t - 1) : Nat)) && decide (y = -1)) = true ↔
      t ≤ 4 ∧ x = -2 ^ (typeBits t - 1) ∧ y = -1 := by
  simp [intSigned_iff, intWidth_eq_typeBits h1 h8, h1, and_assoc]

theorem divRem_zero (t : Nat) (x : Int) {y : Int} (hy : y = 0) : divRem t x y = (-1, x) := if_pos hy

theorem divRem_overflow {t : Nat} {x y : Int} (h1 : 1 ≤ t) (h8 : t ≤ 8) (hy : y ≠ 0)
    (ho : t ≤ 4 ∧ x = -2 ^ (typeBits t - 1) ∧ y = -1) : divRem t x y = (x, 0) := by
  rw [divRem, if_neg hy, if_pos ((overflow_iff h1 h8 x y).mpr ho)]

/-- Every other quotient is truncated, and the remainder is that of truncation. -/
theorem divRem_trunc {t : Nat} {x y : Int} (h1 : 1 ≤ t) (h8 : t ≤ 8) (hy : y ≠ 0)
    (ho : ¬ (t ≤ 4 ∧ x = -2 ^ (typeBits t - 1) ∧ y = -1)) : divRem t x y = (x.tdiv y, x.tmod y) := by
  rw [divRem, if_neg hy, if_neg (mt (overflow_iff h1 h8 x y).mp ho), Int.tmod_def, mul_comm]

/-- The remainder of truncation is smaller than the divisor. -/
theorem abs_tmod_lt (x : Int) {y : Int} (hy : y ≠ 0) : |x.tmod y| < |y| := by
  rw [Int.abs_eq_natAbs, Int.abs_eq_natAbs, Int.natAbs_tmod]
  exact_mod_cast Nat.mod_lt _ (Int.natAbs_pos.mpr hy)

/-- The remainder of truncation has the sign of the dividend. -/
theorem tmod_mul_self_nonneg (x y : Int) : 0 ≤ x.tmod y * x := by
  rcases le_total 0 x with hx | hx
  · exact mul_nonneg (Int.tmod_nonneg y hx) hx
  · have hm : 0 ≤ -x.tmod y := by
      rw [← Int.neg_tmod]
      exact Int.tmod_nonneg y (neg_nonneg.mpr hx)
    exact mul_nonneg_of_nonpos_of_nonpos (neg_nonneg.mp hm) hx

/-- The four operations write the quotient and the remainder of `divRem`. -/
theorem gives_of_divRem {f : RI} {s : State} {q m : Int} (h1 : 1 ≤ dtOf f) (h8 : dtOf f ≤ 8) (hsat : satOf f = false)
    (h : divRem (dtOf f) (typeVal (dtOf f) (aOf s f)) (typeVal (dtOf f) (bOf s f)) = (q, m)) :
    Gives (.div f) (guardOf f) s 20 ⟨.s, dOf f⟩ (typeFit false (dtOf f) q) ∧
    Gives (.divb f) (guardOf f) s 20 ⟨.s, dOf f⟩ (typeFit false (dtOf f) q) ∧
    Gives (.rem f) (guardOf f) s 20 ⟨.s, dOf f⟩ (typeFit false (dtOf f) m) ∧
    Gives (.remb f) (guardOf f) s 20 ⟨.s, dOf f⟩ (typeFit false (dtOf f) m) := by
  have hdiv := gives_of_intBinary h1 h8 (exec_div f s)
  have hdivb := gives_of_intBinary h1 h8 (exec_divb f s)
  have hrem := gives_of_intBinary h1 h8 (exec_rem f s)
  have hremb := gives_of_intBinary h1 h8 (exec_remb f s)
  rw [h, hsat] at hdiv hdivb hrem hremb
  exact ⟨hdiv, hdivb, hrem, hremb⟩

/-- Settles O10: the four operations write the quotient and the remainder of `divRem`, which is taken in each of its three cases. -/
theorem divisionNeverTraps : Obligations.DivisionNeverTraps := by
  unfold Obligations.DivisionNeverTraps
  intro f s h1 h8 hsat t x y gives
  split
  case isTrue hy => exact gives_of_divRem h1 h8 hsat (divRem_zero t x hy)
  case isFalse hy =>
    split
    case isTrue ho => exact gives_of_divRem h1 h8 hsat (divRem_overflow h1 h8 hy ho)
    case isFalse ho =>
      exact ⟨x.tdiv y, x.tmod y, (Int.tdiv_mul_add_tmod x y).symm, abs_tmod_lt x hy, tmod_mul_self_nonneg x y,
        gives_of_divRem h1 h8 hsat (divRem_trunc h1 h8 hy ho)⟩

/-! ### Shifts (R149) -/

theorem exec_shl (f : RI) (s : State) : exec (.shl f) s = .next (intShift f (fun _ x c => shlInt x c) s) := rfl
theorem exec_shr (f : RI) (s : State) : exec (.shr f) s = .next (intShift f shrInt s) := rfl
theorem exec_sra (f : RI) (s : State) : exec (.sra f) s = .next (intShift f sraInt s) := rfl
theorem exec_rot (f : RI) (s : State) : exec (.rot f) s = .next (intShift f rotInt s) := rfl

/-- Extension by the type keeps the value that the type reads (R146). -/
theorem typeExt_eq_ofInt_typeVal {t : Nat} (h1 : 1 ≤ t) (h8 : t ≤ 8) (w : Word) : typeExt t w = BitVec.ofInt 64 (typeVal t w) := by
  have unsigned {n : Nat} (x : BitVec n) : x.setWidth 64 = BitVec.ofInt 64 (x.toNat : Int) := by
    rw [BitVec.ofInt_natCast, BitVec.ofNat_toNat]
  interval_cases t
  · rfl
  · rfl
  · rfl
  · exact BitVec.ofInt_toInt.symm
  · exact unsigned (w.setWidth 8)
  · exact unsigned (w.setWidth 16)
  · exact unsigned (w.setWidth 32)
  · exact (BitVec.setWidth_eq w).symm.trans (unsigned w)

/-- Without SAT a result keeps its low bits, extended by the type. -/
theorem typeFit_false {t : Nat} (h1 : 1 ≤ t) (h8 : t ≤ 8) (r : Int) : typeFit false t r = typeExt t (BitVec.ofInt 64 r) :=
  (typeExt_eq_ofInt_typeVal h1 h8 _).symm

/-- Every range lies within 65 bits. -/
theorem typeRange_bounds (t : Nat) : -2 ^ 64 < (typeRange t).1 ∧ (typeRange t).2 < 2 ^ 64 := by
  unfold typeRange
  split <;> decide

/-- A multiple of 2^64 has no low bit. -/
theorem ofInt_mul_two_pow_64 (y : Int) : BitVec.ofInt 64 (y * 2 ^ 64) = 0 := by
  apply BitVec.eq_of_toNat_eq
  simp [BitVec.toNat_ofInt]

/-- With SAT every nonzero product by 2^64 or more is clamped, all to the same end of the range. -/
theorem clamp_mul_two_pow (t : Nat) (x : Int) {p : Int} (hp : 2 ^ 64 ≤ p) :
    max (typeRange t).1 (min (x * p) (typeRange t).2) =
      if x = 0 then max (typeRange t).1 (min 0 (typeRange t).2) else if x < 0 then (typeRange t).1 else (typeRange t).2 := by
  obtain ⟨hlo, hhi⟩ := typeRange_bounds t
  have hle := typeRange_fst_le_snd t
  split
  case isTrue h0 => rw [h0, zero_mul]
  case isFalse h0 =>
    split
    case isTrue hn =>
      have : x * p ≤ -2 ^ 64 := by nlinarith
      omega
    case isFalse hn =>
      have : 2 ^ 64 ≤ x * p := by nlinarith [show 1 ≤ x by omega]
      omega

/-- A count of 64 or more shifts every bit out, or exceeds every range: the counts from 64 on give one result. -/
theorem typeFit_shlInt (sat : Bool) (t : Nat) (x : Int) (c : Nat) : typeFit sat t (shlInt x c) = typeFit sat t (x * 2 ^ c) := by
  rcases le_total c 64 with hc | hc
  · rw [shlInt, min_eq_left hc]
    norm_cast
  have hs : shlInt x c = x * 2 ^ 64 := by
    rw [shlInt, min_eq_right hc]
    norm_cast
  cases sat with
  | false =>
    have hp : x * 2 ^ c = x * 2 ^ (c - 64) * 2 ^ 64 := by rw [mul_assoc, ← pow_add, Nat.sub_add_cancel hc]
    simp only [typeFit, Bool.false_eq_true, if_false, hs, hp, ofInt_mul_two_pow_64]
  | true =>
    have hp : (2 : Int) ^ 64 ≤ 2 ^ c := pow_le_pow_right₀ (by decide) hc
    simp only [typeFit, if_true, hs, clamp_mul_two_pow t x le_rfl, clamp_mul_two_pow t x hp]

/-- The pattern of an operand is its low bits. -/
theorem pat_typeVal {t : Nat} (h1 : 1 ≤ t) (h8 : t ≤ 8) (w : Word) : pat t (typeVal t w) = w.toNat % 2 ^ intWidth t := by
  rcases le_or_gt t 4 with h4 | h5
  · rw [typeVal_signed h1 h4, pat, Int.bmod_emod]
    norm_cast
  · rw [typeVal_unsigned h5 h8, pat]
    norm_cast
    rw [Nat.mod_mod]

/-- SHR of the pattern; a count of 64 or more shifts every bit out. -/
theorem shrInt_typeVal {t : Nat} (h1 : 1 ≤ t) (h8 : t ≤ 8) (w : Word) (c : Nat) :
    shrInt t (typeVal t w) c = (w.toNat % 2 ^ typeBits t / 2 ^ c : Nat) := by
  have hw : w.toNat % 2 ^ typeBits t < 2 ^ 64 := (Nat.mod_le _ _).trans_lt w.isLt
  rw [shrInt, pat_typeVal h1 h8, intWidth_eq_typeBits h1 h8, Nat.shiftRight_eq_div_pow]
  rcases le_total c 64 with hc | hc
  · rw [min_eq_left hc]
  · rw [min_eq_right hc, Nat.div_eq_of_lt hw, Nat.div_eq_of_lt (hw.trans_le (Nat.pow_le_pow_right (by decide) hc))]

/-- The signed type code of the same width. -/
theorem intWidth_signed_code {t : Nat} (h1 : 1 ≤ t) (h8 : t ≤ 8) : intWidth ((t - 1) % 4 + 1) = intWidth t := by
  interval_cases t <;> rfl

/-- The two's complement reading of the pattern does not depend on the signedness of the type. -/
theorem sInt_pat_typeVal {t : Nat} (h1 : 1 ≤ t) (h8 : t ≤ 8) (w : Word) :
    Bits.sInt (intWidth t) (pat t (typeVal t w)) = typeVal ((t - 1) % 4 + 1) w := by
  rw [pat_typeVal h1 h8, sInt_eq_bmod (intWidth_pos t), typeVal_signed (by omega) (by omega), intWidth_signed_code h1 h8]
  exact_mod_cast Int.emod_bmod (w.toNat : Int) (2 ^ intWidth t)

/-- Division by 2^64 leaves only the sign, as every greater divisor does. -/
theorem ediv_two_pow_min {x : Int} (hlo : -2 ^ 64 ≤ x) (hhi : x < 2 ^ 64) (c : Nat) : x / 2 ^ (min c 64) = x / 2 ^ c := by
  rcases le_total c 64 with hc | hc
  · rw [min_eq_left hc]
  have hp : (2 : Int) ^ 64 ≤ 2 ^ c := pow_le_pow_right₀ (by decide) hc
  rw [min_eq_right hc]
  rcases le_or_gt 0 x with h0 | h0
  · rw [Int.ediv_eq_zero_of_lt h0 hhi, Int.ediv_eq_zero_of_lt h0 (hhi.trans_le hp)]
  · rw [Int.ediv_eq_neg_one_of_neg_of_le h0 (by omega), Int.ediv_eq_neg_one_of_neg_of_le h0 (by omega)]

/-- A reading of at most 64 bits lies within 65 bits. -/
theorem sInt_bounds {n : Nat} (hn : n ≤ 64) (x : Nat) : -2 ^ 64 ≤ Bits.sInt n x ∧ Bits.sInt n x < 2 ^ 64 := by
  have hx : x % 2 ^ n < 2 ^ n := Nat.mod_lt _ (Nat.two_pow_pos n)
  have hp : 2 ^ n ≤ 2 ^ 64 := Nat.pow_le_pow_right (by decide) hn
  have hc : (2 : Int) ^ n = ((2 ^ n : Nat) : Int) := by norm_cast
  simp only [Bits.sInt, hc]
  split <;> omega

/-- SRA divides the two's complement reading of the pattern, at counts of 64 and more too. -/
theorem sraInt_typeVal {t : Nat} (h1 : 1 ≤ t) (h8 : t ≤ 8) (w : Word) (c : Nat) :
    sraInt t (typeVal t w) c = typeVal ((t - 1) % 4 + 1) w / 2 ^ c := by
  obtain ⟨hlo, hhi⟩ := sInt_bounds (intWidth_le t) (pat t (typeVal t w))
  rw [← sInt_pat_typeVal h1 h8, ← ediv_two_pow_min hlo hhi, sraInt, Int.fdiv_eq_ediv_of_nonneg _ (Int.natCast_nonneg _)]
  norm_cast

/-- A rotation of an `n`-bit pattern by less than `n` moves each bit toward the more significant end, and round. -/
theorem testBit_rotate {p n k i : Nat} (hp : p < 2 ^ n) (hk : k < n) (hi : i < n) :
    (p <<< k ||| p >>> (n - k)).testBit ((i + k) % n) = p.testBit i := by
  rw [Nat.testBit_or, Nat.testBit_shiftLeft, Nat.testBit_shiftRight]
  rcases lt_or_ge (i + k) n with hlt | hge
  · have hout : p.testBit (n - k + (i + k)) = false :=
      Nat.testBit_lt_two_pow (hp.trans_le (Nat.pow_le_pow_right (by decide) (by omega)))
    rw [Nat.mod_eq_of_lt hlt, hout, Nat.add_sub_cancel]
    simp
  · have hm : (i + k) % n = i + k - n := by
      rw [Nat.mod_eq_sub_mod hge, Nat.mod_eq_of_lt (by omega)]
    have hs : n - k + (i + k - n) = i := by omega
    have hk' : ¬ k ≤ i + k - n := by omega
    simp [hm, hs, hk']

/-- Bit `i` of the pattern goes to bit `i + c` modulo the width. -/
theorem getLsbD_rotInt {t : Nat} (h1 : 1 ≤ t) (h8 : t ≤ 8) (w : Word) (c : Nat) {i : Nat} (hi : i < typeBits t) :
    (BitVec.ofInt 64 (rotInt t (typeVal t w) c)).getLsbD ((i + c) % typeBits t) = w.getLsbD i := by
  rw [← intWidth_eq_typeBits h1 h8] at hi ⊢
  have hn := intWidth_pos t
  have hj : (i + c) % intWidth t < 64 := (Nat.mod_lt _ hn).trans_le (intWidth_le t)
  have hp : w.toNat % 2 ^ intWidth t < 2 ^ intWidth t := Nat.mod_lt _ (Nat.two_pow_pos _)
  rw [rotInt, pat_typeVal h1 h8, BitVec.ofInt_natCast, BitVec.getLsbD_ofNat, decide_eq_true hj, Bool.true_and, ← Nat.add_mod_mod,
    testBit_rotate hp (Nat.mod_lt c hn) hi, Nat.testBit_mod_two_pow, decide_eq_true hi, Bool.true_and]
  rfl

/-- Settles O11: each shift at every count, those of 64 and more included. -/
theorem shiftsAtEveryCount : Obligations.ShiftsAtEveryCount := by
  unfold Obligations.ShiftsAtEveryCount
  intro f s h1 h8 t n a c X
  have hshl := gives_of_intShift h1 h8 (exec_shl f s)
  rw [typeFit_shlInt] at hshl
  refine ⟨hshl, fun hsat => ?_⟩
  have hshr := gives_of_intShift h1 h8 (exec_shr f s)
  have hsra := gives_of_intShift h1 h8 (exec_sra f s)
  have hrot := gives_of_intShift h1 h8 (exec_rot f s)
  rw [hsat, shrInt_typeVal h1 h8] at hshr
  rw [hsat, sraInt_typeVal h1 h8] at hsra
  rw [hsat, typeFit_false h1 h8] at hrot
  exact ⟨hshr, hsra, _, hrot, fun i hi => getLsbD_rotInt h1 h8 a c hi⟩

/-! ### The classes of a pointer (R160) -/

/-- A field of a bit vector is its slice. -/
theorem fld_eq_toNat_extractLsb' {w : Nat} (x : BitVec w) (lo len : Nat) : Bits.fld x lo len = (x.extractLsb' lo len).toNat :=
  (BitVec.extractLsb'_toNat ..).symm

/-- The top bit of a pointer is that of its top byte. -/
theorem msb_eq_topByte_msb (p : Word) : p.msb = (p.extractLsb' 56 8).msb := by
  simp [BitVec.msb_eq_getLsbD_last]

/-- The top byte of a global pointer names no other space. -/
theorem topByte_notMem_of_global {p : Word} (hg : p.msb = false) : p.extractLsb' 56 8 ∉ [0x80, 0x81, 0x82, 0x84, 0x88] := by
  rw [msb_eq_topByte_msb] at hg
  intro h
  simp only [List.mem_cons, List.not_mem_nil, or_false] at h
  rcases h with h | h | h | h | h <;> exact absurd (h ▸ hg) (by decide)

/-- The space of a pointer is global by its top bit, and else the one that its top byte names (R197). -/
theorem spaceOf_cases (p : Word) :
    (p.msb = false ∧ spaceOf p = .global) ∨
    (p.msb = true ∧
      ((p.extractLsb' 56 8 = 0x80 ∧ spaceOf p = .pocket) ∨ (p.extractLsb' 56 8 = 0x81 ∧ spaceOf p = .basket) ∨
       (p.extractLsb' 56 8 = 0x82 ∧ spaceOf p = .hamper) ∨ (p.extractLsb' 56 8 = 0x84 ∧ spaceOf p = .remote) ∨
       (p.extractLsb' 56 8 = 0x88 ∧ spaceOf p = .control) ∨
       (p.extractLsb' 56 8 ∉ [0x80, 0x81, 0x82, 0x84, 0x88] ∧ spaceOf p = .hole))) := by
  have hm : p.getLsbD 63 = p.msb := (BitVec.msb_eq_getLsbD_last p).symm
  rw [spaceOf, hm, fld_eq_toNat_extractLsb']
  generalize p.extractLsb' 56 8 = top
  cases p.msb with
  | false => exact .inl ⟨rfl, rfl⟩
  | true =>
    refine .inr ⟨rfl, ?_⟩
    simp only [BitVec.toNat_eq, List.mem_cons, List.not_mem_nil, Bool.not_true, Bool.false_eq_true, if_false]
    split <;> simp_all

/-- A pocket pointer is the executing core's own when it names 0x1FF or that core (R16). -/
theorem pocketCore_eq_iff (core : Nat) (p : Word) :
    pocketCore core p = core ↔ (p.extractLsb' 47 9).toNat = 0x1FF ∨ (p.extractLsb' 47 9).toNat = core := by
  rw [pocketCore, fld_eq_toNat_extractLsb']
  split
  case isTrue h => simp only [h, true_or]
  case isFalse h => simp only [h, false_or]

/-- A class of one bit is in a mask when the mask has that bit. -/
theorem two_pow_and_ne_zero_iff (k m : Nat) : 2 ^ k &&& m ≠ 0 ↔ m.testBit k = true := by
  rw [Nat.two_pow_and]
  cases m.testBit k <;> simp

/-- The classes of a pocket pointer meet a mask in bit 1, or in bit 7 when the pocket is the executing core's. -/
theorem pocketClasses_and_ne_zero_iff (own : Prop) [Decidable own] (m : Nat) :
    2 + (if own then 0x80 else 0) &&& m ≠ 0 ↔ m.testBit 1 = true ∨ m.testBit 7 = true ∧ own := by
  split
  case isTrue h =>
    have hor : 2 + 0x80 &&& m = (2 ^ 1 &&& m) ||| (2 ^ 7 &&& m) := Nat.and_or_distrib_right (2 ^ 1) (2 ^ 7) m
    rw [hor, Ne, Nat.or_eq_zero_iff, not_and_or, ← Ne, ← Ne, two_pow_and_ne_zero_iff, two_pow_and_ne_zero_iff, and_iff_left h]
  case isFalse h =>
    simp only [h, and_false, or_false]
    exact two_pow_and_ne_zero_iff 1 m

/-- Some class of a pointer has its bit in the mask, by the table of R160. -/
def MaskNames (core : Nat) (p : Word) (m : Nat) : Prop :=
  let top := p.extractLsb' 56 8
  let named := (p.extractLsb' 47 9).toNat
  (m.testBit 0 ∧ p.msb = false) ∨ (m.testBit 1 ∧ top = 0x80) ∨ (m.testBit 2 ∧ top = 0x81) ∨
    (m.testBit 3 ∧ top = 0x82) ∨ (m.testBit 4 ∧ top = 0x84) ∨ (m.testBit 5 ∧ top = 0x88) ∨
    (m.testBit 6 ∧ p.msb = true ∧ top ∉ [0x80, 0x81, 0x82, 0x84, 0x88]) ∨
    (m.testBit 7 ∧ top = 0x80 ∧ (named = 0x1FF ∨ named = core))

/-- The classes of the model are those of the table of R160. -/
theorem classesOf_and_ne_zero_iff (core : Nat) (p : Word) (m : Nat) : classesOf core p &&& m ≠ 0 ↔ MaskNames core p m := by
  unfold MaskNames
  rcases spaceOf_cases p with ⟨hg, hs⟩ | ⟨hg, ⟨ht, hs⟩ | ⟨ht, hs⟩ | ⟨ht, hs⟩ | ⟨ht, hs⟩ | ⟨ht, hs⟩ | ⟨ht, hs⟩⟩ <;> rw [classesOf, hs]
  case inl =>
    have ht := topByte_notMem_of_global hg
    simp only [List.mem_cons, List.not_mem_nil, or_false, not_or, BitVec.ofNat_eq_ofNat] at ht
    simp [hg, ht]
  case inr.inl => simp [pocketClasses_and_ne_zero_iff, pocketCore_eq_iff, hg, ht]
  case inr.inr.inl => simpa [hg, ht] using two_pow_and_ne_zero_iff 2 m
  case inr.inr.inr.inl => simpa [hg, ht] using two_pow_and_ne_zero_iff 3 m
  case inr.inr.inr.inr.inl => simpa [hg, ht] using two_pow_and_ne_zero_iff 4 m
  case inr.inr.inr.inr.inr.inl => simpa [hg, ht] using two_pow_and_ne_zero_iff 5 m
  case inr.inr.inr.inr.inr.inr =>
    simp only [List.mem_cons, List.not_mem_nil, or_false, not_or, BitVec.ofNat_eq_ofNat] at ht
    simpa [hg, ht] using two_pow_and_ne_zero_iff 6 m

/-- Of a mask field only the low byte counts. -/
theorem maskNames_fld {w : Nat} (core : Nat) (p : Word) (x : BitVec w) : MaskNames core p (Bits.fld x 0 8) ↔ MaskNames core p x.toNat := by
  have hb {k : Nat} (hk : k < 8) : (Bits.fld x 0 8).testBit k = x.toNat.testBit k := by
    rw [Bits.fld, Nat.shiftRight_zero, Nat.testBit_mod_two_pow, decide_eq_true hk, Bool.true_and]
  simp only [MaskNames, hb (show 0 < 8 by decide), hb (show 1 < 8 by decide), hb (show 2 < 8 by decide), hb (show 3 < 8 by decide),
    hb (show 4 < 8 by decide), hb (show 5 < 8 by decide), hb (show 6 < 8 by decide), hb (show 7 < 8 by decide)]

/-- What SPTST writes: all ones when the mask field names a class of the pointer, else zero. -/
theorem allOnes_classesOf {w : Nat} (core : Nat) (p : Word) (x : BitVec w) :
    (MaskNames core p x.toNat → Bits.allOnes (classesOf core p &&& Bits.fld x 0 8 != 0) = BitVec.allOnes 64) ∧
    (¬ MaskNames core p x.toNat → Bits.allOnes (classesOf core p &&& Bits.fld x 0 8 != 0) = 0) := by
  rw [← maskNames_fld, ← classesOf_and_ne_zero_iff, ← bne_iff_ne]
  exact ⟨fun h => if_pos h, fun h => if_neg h⟩

/-- SPTST writes the result of the class test under its guard, in either form. -/
theorem exec_sptst (f : RI) (s : State) : exec (.sptst f) s = execSptst f s := rfl

/-- Settles O15: the model's class mask meets the mask field exactly when the table of R160 names a class of the pointer. -/
theorem spaceTest : Obligations.SpaceTest := by
  unfold Obligations.SpaceTest
  intro f s
  cases f with
  | r f => exact ⟨_, exec_sptst (.r f) s, allOnes_classesOf s.ctx.core (s.ra f.a.toNat) f.sub⟩
  | i f => exact ⟨_, exec_sptst (.i f) s, allOnes_classesOf s.ctx.core (s.ra f.a.toNat) f.imm⟩

end Sys2Proof.Scalar
end
